-- ==== Sys2Proof/Word.lean ====
section
/-! DEFINITION. The word types of the module and the field extraction that every register and record layout uses. -/

namespace Sys2Proof

/-- One byte of any memory of the module. -/
abbrev Byte := BitVec 8

/-- A 32-bit register slot half or container. -/
abbrev W32 := BitVec 32

/-- A 64-bit register slot, scalar register or instruction word (R144). -/
abbrev W64 := BitVec 64

/-- A sparse table: strictly rising keys, no entry equal to the table's default. -/
abbrev Tab (α : Type) := List (Nat × α)

end Sys2Proof
end

