-- ==== Sys2Proof/Syntax.lean ====
section
/-! DEFINITION. The commands of the block: one constructor per row of the table of operations and events. -/

namespace Sys2Proof

/-- The compute dies (R11). -/
inductive DieId where
  | cd0 | cd1
  deriving DecidableEq, Repr

/-- A cell, by its die and physical site number (R4, R6). -/
structure CellLoc where
  die : DieId
  site : Nat
  deriving DecidableEq, Repr

/-- A stream of a cell; streams are numbered F.A, F.X, B.A, B.X, U.A, U.X from 0 (R121). -/
structure StreamLoc where
  die : DieId
  site : Nat
  stream : Nat
  deriving DecidableEq, Repr

/-- A function that starts and drains (R399). -/
inductive FnId where
  | queue (d : DieId) (q : Nat)
  | cell (d : DieId) (site : Nat)
  | chainPort (d : DieId) (port : Nat)
  | flash
  deriving DecidableEq, Repr

/-- The external transfer that a grant serves (R133, R134). -/
inductive GrantReq where
  | xfetch (site op : Nat)
  | delivery (slot route : Nat)
  | moverRead (site : Nat)
  | moverWrite (site : Nat)
  deriving DecidableEq, Repr

/-- What asks a memory gate for a transfer (R307, Table 11.14). -/
inductive GateReq where
  | fetchRow (site op row : Nat)
  | storeRow (site op row : Nat)
  | xfetchPiece (site op : Nat)
  | maskLine (site stream : Nat)
  | station (slot station : Nat)
  /-- A walk of a partition's tables for the translation that the oldest waiting request lacks. -/
  | walk (site : Option Nat) (part va : Nat) (write : Bool)
  /-- A COPY or a descriptor command of a queue. -/
  | command (q cseq : Nat)
  | loader
  | trace
  deriving DecidableEq, Repr

/-- What the check symbols of a read show (R296, R299). -/
inductive EccResult where
  | good | corrected | uncorrectable
  deriving DecidableEq, Repr

/-- A read of memory: its bytes, and what the check symbols of its 32-byte accesses show, by place; the others are good (R296). -/
structure MemRead where
  len : Nat
  ecc : List (Nat × EccResult)
  deriving DecidableEq, Repr

/-- The memory controllers that a broadcast aperture selects (R299, R478). -/
inductive McTarget where
  | stack (d : DieId) (j : Nat)
  | die (d : DieId)
  | module
  deriving DecidableEq, Repr

/-- A core's access to command memory (R345): a store of bytes, or a FENCE to device output. -/
inductive CoreStore where
  | store (addr : Nat) (data : List Byte)
  | fence
  deriving DecidableEq, Repr

/-- A PCIe access through a virtual function's BAR2 (R366). -/
inductive Bar2 where
  | read (rd : MemRead)
  | write (data : List Byte)
  deriving DecidableEq, Repr

/-- The interface a management request comes in on (R367, R368). -/
inductive MgmtIf where
  | smbus | vdm
  deriving DecidableEq, Repr

/-- How a Holtuth management message came in: its interface, its flags byte, its MCTP message tag and the CRC-16 that ends it
(R364, R367). -/
structure MgmtMsg where
  iface : MgmtIf
  /-- The requester's endpoint ID. -/
  src : Nat := 0
  flags : Nat := 0
  tag : Nat := 0
  check : Nat
  deriving DecidableEq, Repr

/-- A chain frame (Table 13.9) with its addresses, EtherType and check value as received or as sent. -/
structure Frame where
  dstMac : Nat
  srcMac : Nat
  etype : Nat
  ver : Nat
  type : Nat
  srcId : Nat
  dstId : Nat
  seq : Nat
  ackSeq : Nat
  chan : Nat
  hflags : Nat
  part : Nat
  ihdr : Nat
  payload : List Byte
  check : Nat
  deriving DecidableEq, Repr

/-- A page of a copy of the boot region that fails: the second copy or the first, the page, and whether its block goes bad (R329). -/
structure BootPage where
  second : Bool
  page : Nat
  worn : Bool
  deriving DecidableEq, Repr

/-- What the security firmware finds at start: its rails and die managers, and the pages of the boot region that fail (R329, R391,
R394). -/
structure SecStart where
  railsOk : Bool
  die0 : Bool
  die1 : Bool
  failed : List BootPage := []
  deriving DecidableEq, Repr

/-- The results of link and memory training (R391, R346, R351, R298). -/
structure LinkTrain where
  ucie0 : Nat
  ucie1 : Nat
  stacks0 : Nat
  stacks1 : Nat
  segs : Nat
  /-- Lanes repaired of each UCIe module, six bits each: transmit, then receive (R346). -/
  lanes0 : Nat := 0
  lanes1 : Nat := 0
  deriving DecidableEq, Repr

/-- What the service floor test finds failed: sites of the dies, application cores and flash packages by bit, and PCIe (R396). -/
structure FloorTest where
  bad0 : List Nat
  bad1 : List Nat
  cores : Nat := 0
  packages : Nat := 0
  pcie : Bool := false
  deriving DecidableEq, Repr

/-- A record that a Tap emits (Table 17.8): its source, its data as a number of 128 bits, and whether the observation ring or
the rate limiter loses it (R451). The partition is that of a die-wide source. -/
structure TapRec where
  kind : Nat
  cls : Nat
  index : Nat
  sub : Nat
  part : Nat
  data : Nat
  lost : Bool
  deriving DecidableEq, Repr

/-- An EW on a stream, and the source slot whose read meets a parity error (R117). -/
structure EwAt where
  loc : StreamLoc
  perr : Option Nat := none
  deriving DecidableEq, Repr

/-- The operation or route by its number whose act reads a slot, and whether that read meets a parity error (R117). -/
structure Reader where
  id : Nat
  perr : Bool := false
  deriving DecidableEq, Repr

/-- A gate transfer by its number, and what the check symbols of its data show (R296). -/
structure XferEnd where
  id : Nat
  /-- What the check symbols of its 32-byte accesses show, by the access's place in the transfer; the others are good (R296). -/
  ecc : List (Nat × EccResult)
  deriving DecidableEq, Repr

/-- A stripe that a unit is programmed to, and whether the program succeeds (R327). -/
structure Programmed where
  place : Nat
  ok : Bool
  deriving DecidableEq, Repr

/-- The level of PERST_N, and the width and speed to which the PCIe link trains where it does (R23, R489). -/
structure PcieReset where
  level : Bool
  width : Nat
  speed : Nat
  deriving DecidableEq, Repr

/-- What the boot ROM meets at a copy of the boot region: whether it can be read at all, and the pages that fail on it (R329, R393). -/
structure BootRead where
  readable : Bool
  failed : List BootPage := []
  deriving DecidableEq, Repr

/-- A request of a channel that reads the boot region, and the pages of it that fail (R329, R420). -/
structure SecReq where
  ch : Nat
  failed : List BootPage := []
  deriving DecidableEq, Repr

/-- A read of the calibration set: its bytes at most, and the pages of the boot region that fail (R329, R413). -/
structure CalRead where
  len : Nat
  failed : List BootPage := []
  deriving DecidableEq, Repr

/-- What the governor measures every 10 µs: the beat monitors of the groups in M beats/s, and the input current in mA (R378, R380). -/
structure GovIn where
  monitors : List Nat
  current : Nat
  deriving DecidableEq, Repr

/-- A firmware request over the management bus: its OP, and the OFFSET of the piece of its result that the response carries (R420). -/
structure FwReq where
  op : Nat
  off : Nat
  deriving DecidableEq, Repr

/-- A flit on a UCIe module: the header granule that it carries, and the Adapter's retries of it (R343, R346). -/
structure UcieFlit where
  header : Nat
  retries : Nat := 0
  deriving DecidableEq, Repr

/-- A management message whose command code is outside Table 13.19: its code and its body. -/
structure UnknownCmd where
  code : Nat
  body : List Byte
  deriving DecidableEq, Repr

/-- An access from outside the memory gates that can be made to wait (R300, R361). -/
inductive HostAsk where
  | memRd (d : DieId) (agent tag addr : Nat) (rd : MemRead)
  | memWr (d : DieId) (agent addr : Nat) (data : List Byte)
  | bar2 (vf va : Nat) (acc : Bar2)
  | regRead (m : MgmtMsg) (addr : Nat)
  | regWrite (m : MgmtMsg) (addr : Nat) (v : W64)
  | readClear (agent addr size : Nat)
  | registerWrite (agent addr size : Nat) (v : W64)
  deriving DecidableEq, Repr

/-- The commands, in the order of the table of operations and events. -/
inductive Instr where
  /-- NOP (R145): Cell instruction that issues and does nothing. -/
  | nop (l : StreamLoc)
  /-- HALT (R178): Issue of HALT, which holds its stream until every earlier instruction of the stream has completed. -/
  | halt (l : StreamLoc)
  /-- HALT_COMPLETE (R178): The earlier instructions have completed, the stream enters HALTED and, with IRQ set, the stream-halt interrupt is raised. -/
  | haltComplete (l : StreamLoc)
  /-- FENCE (R176): Issue of a fence that orders accesses to the selected classes at stream or cell scope. -/
  | fence (l : StreamLoc)
  /-- SEMACQ (R177): Acquire of a cell semaphore, which decrements it or holds the stream while it is zero. -/
  | semacq (l : StreamLoc)
  /-- SEMREL (R177): Issue of a semaphore release, judged for SEM_OVF against its pending count. -/
  | semrel (l : StreamLoc)
  /-- SEMREL_APPLY (R177): The semaphore increment is applied in the beat after the wait of R141 ends. -/
  | semrelApply (c : CellLoc) (op : Nat)
  /-- LOOP (R150): Entry to a hardware loop whose count comes from a scalar register. -/
  | loop (l : StreamLoc)
  /-- LOOPI (R150): Entry to a hardware loop whose count comes from an immediate. -/
  | loopi (l : StreamLoc)
  /-- TCFG (R104): Issue of a slot configuration, which waits for earlier users of the slot to read its configuration. -/
  | tcfg (l : StreamLoc)
  /-- TCFG_APPLY (R104): The waiting TCFG applies in one beat: it increments GEN, clears FILLED, SRC_VALID, INVALID and TNSTAT, and invalidates latches. -/
  | tcfgApply (c : CellLoc) (op : Nat)
  /-- SCRR (R149): Read of a stream control register into a scalar register. -/
  | scrr (l : StreamLoc)
  /-- SCRW (R149): Write of a scalar register to a stream control register. -/
  | scrw (l : StreamLoc)
  /-- ADD (R147): Scalar addition modulo 2^64. -/
  | add (l : StreamLoc)
  /-- SUB (R147): Scalar subtraction modulo 2^64. -/
  | sub (l : StreamLoc)
  /-- AND (R147): Scalar bitwise AND. -/
  | and (l : StreamLoc)
  /-- OR (R147): Scalar bitwise OR. -/
  | or (l : StreamLoc)
  /-- XOR (R147): Scalar bitwise exclusive OR. -/
  | xor (l : StreamLoc)
  /-- SLL (R147): Scalar logical shift left. -/
  | sll (l : StreamLoc)
  /-- SRL (R147): Scalar logical shift right, zero-filled. -/
  | srl (l : StreamLoc)
  /-- SRA (R147): Scalar arithmetic shift right, sign-filled. -/
  | sra (l : StreamLoc)
  /-- MUL (R147): Low 64 bits of a scalar product. -/
  | mul (l : StreamLoc)
  /-- SLT (R147): Signed set-less-than. -/
  | slt (l : StreamLoc)
  /-- SLTU (R147): Unsigned set-less-than. -/
  | sltu (l : StreamLoc)
  /-- LI (R147): Load of a sign-extended immediate. -/
  | li (l : StreamLoc)
  /-- LIH (R147): Load of an immediate into the upper 32 bits of a scalar register. -/
  | lih (l : StreamLoc)
  /-- BEQ (R148): Branch if equal. -/
  | beq (l : StreamLoc)
  /-- BNE (R148): Branch if not equal. -/
  | bne (l : StreamLoc)
  /-- BLT (R148): Branch if less than, signed. -/
  | blt (l : StreamLoc)
  /-- BGE (R148): Branch if greater or equal, signed. -/
  | bge (l : StreamLoc)
  /-- BLTU (R148): Branch if less than, unsigned. -/
  | bltu (l : StreamLoc)
  /-- BGEU (R148): Branch if greater or equal, unsigned. -/
  | bgeu (l : StreamLoc)
  /-- JAL (R148): Jump and link relative to the PC. -/
  | jal (l : StreamLoc)
  /-- JR (R148): Jump to a register plus offset, with link. -/
  | jr (l : StreamLoc)
  /-- TFETCH (R107): Issue of a tile fetch from external memory into a tile slot, with its rows requested in ascending order. -/
  | tfetch (l : StreamLoc)
  /-- TFETCH_ROW_COMMIT (R107): An arrived row of a TFETCH commits in order, and the last commit sets FILLED. -/
  | tfetchRowCommit (c : CellLoc) (op : Nat)
  /-- TSTORE (R108): Issue of a tile store from a slot to external memory. -/
  | tstore (l : StreamLoc)
  /-- TSTORE_ROW_ACCEPT (R108): The memory gate accepts a row of a TSTORE, which lets the next row be written. -/
  | tstoreRowAccept (c : CellLoc) (op : Reader)
  /-- TRANSFER_FAULT (R109): A row request faults: the transfer stops at the lowest faulting row, the fault record is written and the stream stops. -/
  | transferFault (c : CellLoc) (op : Nat)
  /-- TLD (R157): Copy of cell-store lines into a tile slot, one line per beat. -/
  | tld (l : StreamLoc)
  /-- TST (R157): Copy of slot lines into the cell store, one line per beat. -/
  | tst (l : StreamLoc)
  /-- XFETCH (R158): Fetch of NT+1 tiles from external memory into the cell store through grants. -/
  | xfetch (l : StreamLoc)
  /-- XFETCH_FAULT (R158): A row of an XFETCH faults, or an error is met after grants begin, and the stream enters EXCEPTION behind its issue point. -/
  | xfetchFault (c : CellLoc) (op : Nat)
  /-- CASKLD (R159): Copy of 64 KiB from the cell store into an open Cask image. -/
  | caskld (l : StreamLoc)
  /-- CASKST (R159): Copy of an open Cask image into 64 KiB of the cell store. -/
  | caskst (l : StreamLoc)
  /-- DQPUSH (R160): Push of a scalar register into a data queue, holding while the queue is full. -/
  | dqpush (l : StreamLoc)
  /-- DQPOP (R160): Pop of a data-queue entry into a scalar register, holding while the queue is empty. -/
  | dqpop (l : StreamLoc)
  /-- WAITV (R161): Hold of the stream until a descriptor's version number reaches a value. -/
  | waitv (l : StreamLoc)
  /-- OPA (R65): Issue of an outer-product accumulation, which creates a tile task unless K is 0 or the mask suppresses it. -/
  | opa (l : StreamLoc)
  /-- ACC_OPEN (R72): Binding of an accumulator name to a named physical tile or to ANY, clearing the tile and its TNSTAT. -/
  | accOpen (l : StreamLoc)
  /-- ACC_CLOSE (R74): End of an accumulator binding, discarding its contents and any open Cask image. -/
  | accClose (l : StreamLoc)
  /-- DRAIN (R164): Conversion of an accumulator tile or its image into a slot or the cell store, ending the binding. -/
  | drain (l : StreamLoc)
  /-- EW_CVT (R168): Element-wise conversion. -/
  | ewCvt (l : EwAt)
  /-- EW_ADD (R168): Element-wise addition. -/
  | ewAdd (l : EwAt)
  /-- EW_SUB (R168): Element-wise subtraction. -/
  | ewSub (l : EwAt)
  /-- EW_MUL (R168): Element-wise multiplication. -/
  | ewMul (l : EwAt)
  /-- EW_FMA (R168): Element-wise fused multiply-add. -/
  | ewFma (l : EwAt)
  /-- EW_MAX (R168): Element-wise maximum. -/
  | ewMax (l : EwAt)
  /-- EW_MIN (R168): Element-wise minimum. -/
  | ewMin (l : EwAt)
  /-- EW_ABS (R168): Element-wise absolute value. -/
  | ewAbs (l : EwAt)
  /-- EW_NEG (R168): Element-wise negation. -/
  | ewNeg (l : EwAt)
  /-- EW_CLAMP (R168): Element-wise clamp between two sources. -/
  | ewClamp (l : EwAt)
  /-- EW_SEL (R168): Element-wise select by a third source. -/
  | ewSel (l : EwAt)
  /-- EW_AXPBY (R168): Element-wise a times p plus b times q. -/
  | ewAxpby (l : EwAt)
  /-- EW_DIV (R168): Element-wise division. -/
  | ewDiv (l : EwAt)
  /-- EW_SQRT (R168): Element-wise square root. -/
  | ewSqrt (l : EwAt)
  /-- EW_RSQRT (R168): Element-wise reciprocal square root. -/
  | ewRsqrt (l : EwAt)
  /-- EW_RECIP (R168): Element-wise reciprocal. -/
  | ewRecip (l : EwAt)
  /-- EW_EXP (R168): Element-wise exponential. -/
  | ewExp (l : EwAt)
  /-- EW_LOG (R168): Element-wise natural logarithm. -/
  | ewLog (l : EwAt)
  /-- EW_FN (R168): Element-wise element function selected by SC. -/
  | ewFn (l : EwAt)
  /-- EW_DFN (R168): Element-wise product with an element function's derivative. -/
  | ewDfn (l : EwAt)
  /-- EW_RSUM (R168): Row sums of a tile. -/
  | ewRsum (l : EwAt)
  /-- EW_RSUMSQ (R168): Row sums of squares of a tile. -/
  | ewRsumsq (l : EwAt)
  /-- EW_RMAX (R168): Row maxima of a tile. -/
  | ewRmax (l : EwAt)
  /-- EW_CSUM (R168): Column sums of a tile. -/
  | ewCsum (l : EwAt)
  /-- RED (R167): Hand-off of a slot or accumulator tile as a contribution to the cell's reduction output. -/
  | red (l : StreamLoc)
  /-- SPILL (R84): Immediate spill of an accumulator into its Cask image, opening the image if none is open. -/
  | spill (l : StreamLoc)
  /-- RESUME (R84): Replacement of an accumulator by the rounded sum of its image and itself, closing the image. -/
  | resume (l : StreamLoc)
  /-- TASK_PLACEMENT (R129): An operation on a name opened with ANY is placed on the enabled engine with fewest tasks and a FREE tile. -/
  | taskPlacement (c : CellLoc) (op : Nat)
  /-- TASK_READY (R128): The conditions of readiness hold and a waiting tile task becomes READY. -/
  | taskReady (c : CellLoc) (op : Nat)
  /-- TASK_CHOICE (R130): An engine with no running task chooses a context and its oldest ready task. -/
  | taskChoice (c : CellLoc) (eng : Nat)
  /-- SLOT_ENTRY (R68): The engine enters a ring slot once its FILLED mark is set, checking its format and SAXIS. -/
  | slotEntry (c : CellLoc) (eng : Nat) (sideB : Bool)
  /-- RANK_ONE_STEP (R61): One rank-one step of an engine adds an outer product into the accumulator tile. -/
  | rankOneStep (c : CellLoc) (eng : Nat)
  /-- SPILL_POINT (R79): A spilling OPA reaches s mod N = 0 and the tile is spilled into its Cask image. -/
  | spillPoint (c : CellLoc) (eng : Nat)
  /-- LAST_SLICE (R126): The last slice of an OPA enters, freeing its tile-task slot and starting the drain schedule. -/
  | lastSlice (c : CellLoc) (eng : Nat)
  /-- DRAIN_READ (R78): The drain unit's input stage accepts a tile or image read, one per 8 beats. -/
  | drainRead (c : CellLoc) (op : Reader)
  /-- DRAIN_RESULT_WRITE (R77): The converted drain result is written to its slot or cell-store destination. -/
  | drainResultWrite (c : CellLoc) (op : Nat)
  /-- GROUP_FETCH (R99): A collector reads a block group from the banks for the engine. -/
  | groupFetch (c : CellLoc) (eng : Nat) (sideB : Bool) (perr : Bool)
  /-- PARITY_RETRY_WRITE (R117): The re-read lines from the cell store are rewritten into the slot and the read continues. -/
  | parityRetryWrite (c : CellLoc) (eng : Nat) (sideB : Bool)
  /-- STREAM_START (R182): START action: the stream runs from STREAM_PC with an empty loop stack. -/
  | streamStart (agent : Nat) (l : StreamLoc)
  /-- STREAM_RETRY (R182): RETRY action: the excepted instruction is re-issued or the OPA continues. -/
  | streamRetry (agent : Nat) (l : StreamLoc)
  /-- STREAM_SKIP (R182): SKIP action: the excepted instruction retires with no effect and issue continues. -/
  | streamSkip (agent : Nat) (l : StreamLoc)
  /-- STREAM_STOP (R114): STOP action or stop line: issue halts and transfers and OPAs in flight stop at their next boundary. -/
  | streamStop (agent : Nat) (l : StreamLoc)
  /-- STREAM_RESUME (R182): RESUME action: a stopped stream continues its transfers, OPAs and issue. -/
  | streamResume (agent : Nat) (l : StreamLoc)
  /-- SFLT_RESUME (R112): RESUME of SFLT_ACT restarts every stopped transfer from its faulting row and resumes issue. -/
  | sfltResume (agent : Nat) (l : StreamLoc)
  /-- SFLT_CANCEL (R112): CANCEL of SFLT_ACT retires every stopped transfer and resumes issue. -/
  | sfltCancel (agent : Nat) (l : StreamLoc)
  /-- STREAM_PC_WRITE (R182): Write of STREAM_PC, applied only in IDLE and HALTED. -/
  | streamPcWrite (agent : Nat) (l : StreamLoc) (v : W64)
  /-- SR_STATE_WRITE (R44): Write of SR_STATE, which runs sr_seed on the value. -/
  | srStateWrite (agent : Nat) (l : StreamLoc) (v : W64)
  /-- SCHED_CTL_WRITE (R131): Write of the scheduler controls, with the priorities applied only if distinct. -/
  | schedCtlWrite (agent : Nat) (c : CellLoc) (v : W32)
  /-- ENG_CTL_WRITE (R89): Write of ENG_EN, which stops or allows new bindings to engines. -/
  | engCtlWrite (agent : Nat) (c : CellLoc) (v : W32)
  /-- DTAB_WRITE (R175): Write of a programmable table register, held until no DRAIN or EW uses the table. -/
  | dtabWrite (agent : Nat) (c : CellLoc) (deriv : Bool) (idx : Nat) (v : W32)
  /-- GRANT_START (R134): A memory gate starts a grant that holds a cell's store for an external transfer. -/
  | grantStart (d : DieId) (group : Nat) (r : GrantReq)
  /-- GRANT_END (R135): A grant ends, releasing the cell store to internal accesses. -/
  | grantEnd (d : DieId) (group : Nat)
  /-- MIN_GAP_EXPIRY (R136): The MIN_GAP after a cell's grant runs out and the gate may grant to it again. -/
  | minGapExpiry (c : CellLoc)
  /-- MASK_LINE_FILL (R256): A missed mask line arrives in the cell's mask cache and the held OPA issues. -/
  | maskLineFill (l : StreamLoc)
  /-- SECTOR_CHECK (R19): The die manager's periodic check of a sector controller, at least every 20 µs. -/
  | sectorCheck (d : DieId) (sec : Nat) (answers : Bool)
  /-- SECTOR_FAILED (R19): A sector controller gives no answer for 100 µs and its sites become absent. -/
  | sectorFailed (d : DieId) (sec : Nat)
  /-- BROADCAST_WRITE (R17): Register write through a group-mask or sector-mask aperture, applied to every selected enabled site. -/
  | broadcastWrite (agent : Nat) (d : DieId) (sector : Bool) (mask : Nat) (off : Nat) (size : Nat) (v : W64)
  /-- LINE_SEND (R190): A line or token with a credit leaves its source port onto the Floor. -/
  | lineSend (d : DieId) (slot : Nat) (route : Reader)
  /-- ITEM_PRESENT (R191): The last line of an item arrives and the input port presents it to its station. -/
  | itemPresent (d : DieId) (slot : Nat) (route : Nat)
  /-- CREDIT_RETURN (R193): A consumed line returns a credit to the route's source. -/
  | creditReturn (d : DieId) (slot : Nat) (route : Nat)
  /-- MICRO_BATCH_BEGIN (R195): A station begins its next micro-batch once the previous one has ended and every gating token has arrived. -/
  | microBatchBegin (d : DieId) (slot : Nat) (station : Nat) (ctx : Nat)
  /-- MICRO_BATCH_END (R197): A station or cell context ends its micro-batch and emits its DONE tokens. -/
  | microBatchEnd (d : DieId) (slot : Nat) (station : Nat) (ctx : Nat)
  /-- ROUTE_RELEASE (R199): The grant writing a delivered item's last line ends and the route's semaphore is released. -/
  | routeRelease (d : DieId) (slot : Nat) (route : Nat)
  /-- DRAIN_STAGE_ITEM (R200): A DRAIN_STAGE writes a received tile item to external memory through its descriptor. -/
  | drainStageItem (d : DieId) (slot : Nat) (station : Nat)
  /-- BILL_LOAD_BEGIN (R212): The die's loader starts an accepted load when its turn comes. -/
  | billLoadBegin (d : DieId)
  /-- BILL_LOAD_COMPLETE (R212): The loader finishes reading and checking a Bill, leaving the slot LOADED or EMPTY. -/
  | billLoadComplete (d : DieId)
  /-- SWITCH_QUIESCENCE (R215): Every station of the outgoing Bill has ended the micro-batches begun before the select, and phase 1 starts. -/
  | switchQuiescence (d : DieId) (part : Nat)
  /-- SWITCH_CLOSE (R215): Phase 1 of a switch stops sources, empties routes and discards open buckets. -/
  | switchClose (d : DieId) (part : Nat)
  /-- SWITCH_RESET (R215): Phase 2 re-initialises the cells and clears the partition's shared contexts. -/
  | switchReset (d : DieId) (part : Nat)
  /-- SWITCH_CONFIGURE (R215): Phase 3 writes the incoming records and cell parameters. -/
  | switchConfigure (d : DieId) (part : Nat)
  /-- SWITCH_TABLES (R215): Phase 4 loads the programmable tables of the incoming cells. -/
  | switchTables (d : DieId) (part : Nat)
  /-- SWITCH_OPEN (R215): Phase 5 turns the incoming stations ON and the slot becomes ACTIVE. -/
  | switchOpen (d : DieId) (part : Nat)
  /-- HELD_SELECT_START (R218): A held BILL_SELECT starts as soon as the current switch ends. -/
  | heldSelectStart (d : DieId) (part : Nat)
  /-- COMMAND_WRITE (R233): A write to a queue aperture is accepted as a command or dropped, possibly halting the queue. -/
  | commandWrite (agent : Nat) (d : DieId) (q : Nat) (off : Nat) (data : List Byte)
  /-- COMMAND_START (R234): The next command of a queue starts in CSEQ order, leaving its entry. -/
  | commandStart (d : DieId) (q : Nat)
  /-- COMMAND_COMPLETE (R245): A command completes, its record and ring header are written, and an interrupt may be sent. -/
  | commandComplete (d : DieId) (q : Nat) (cseq : Nat)
  /-- RUN (R238): Command taken by the queue fetch station, which emits a micro-batch token on each of its routes. -/
  | run (d : DieId) (q : Nat) (cseq : Nat)
  /-- BILL_LOAD (R212): Command that copies a Bill from HBM into a bill slot. -/
  | billLoad (d : DieId) (q : Nat) (cseq : Nat)
  /-- BILL_UNLOAD (R213): Command that empties a LOADED bill slot. -/
  | billUnload (d : DieId) (q : Nat) (cseq : Nat)
  /-- BILL_SELECT (R215): Command that switches the partition's Floor to a loaded slot or to NONE, with or without ABORT. -/
  | billSelect (d : DieId) (q : Nat) (cseq : Nat)
  /-- DESC_CREATE (R240): Command that creates descriptor entries from images and writes their handles. -/
  | descCreate (d : DieId) (q : Nat) (cseq : Nat)
  /-- DESC_UPDATE (R240): Command that rewrites valid descriptor entries, keeping version fields. -/
  | descUpdate (d : DieId) (q : Nat) (cseq : Nat)
  /-- DESC_FREE (R240): Command that clears VALID in a range of descriptor entries. -/
  | descFree (d : DieId) (q : Nat) (cseq : Nat)
  /-- COPY (R241): Command that copies bytes from memory or flash into a version of a tensor, measuring it when asked. -/
  | copy (d : DieId) (q : Nat) (cseq : Nat)
  /-- STEP_COMMIT (R261): Command that holds an epoch group's writes, settles, votes and flips its versions on a commit verdict. -/
  | stepCommit (d : DieId) (q : Nat) (cseq : Nat)
  /-- STEP_ABANDON (R263): Command that holds and settles an epoch group and clears the step-level flag without changing it. -/
  | stepAbandon (d : DieId) (q : Nat) (cseq : Nat)
  /-- STEP_SETTLE_END (R261): The last captured write of the group completes; the die votes, and without a barrier reaches its commit point. -/
  | stepSettleEnd (d : DieId) (eg : Nat)
  /-- BARRIER_VERDICT (R262): The verdict barrier ends the vote's micro-batch and every participant reaches the commit point under its verdict. -/
  | barrierVerdict (d : DieId) (eg : Nat)
  /-- BARRIER_TIMEOUT (R262): BAR_TMO expires without a verdict and the commit completes with BARRIER_FAIL. -/
  | barrierTimeout (d : DieId) (eg : Nat)
  /-- VERSION_WAIT (R243): Command that completes once a descriptor's version number reaches a value. -/
  | versionWait (d : DieId) (q : Nat) (cseq : Nat)
  /-- STREAM_CTL (R242): Command that applies a stream action to one stream of one cell. -/
  | streamCtl (d : DieId) (q : Nat) (cseq : Nat)
  /-- QUEUE_RESUME (R251): RESUME of QUEUE_ACT clears HALTED so that writes and starts proceed. -/
  | queueResume (agent : Nat) (d : DieId) (q : Nat)
  /-- QUEUE_FLUSH (R251): FLUSH of QUEUE_ACT completes every unstarted command with CANCELLED. -/
  | queueFlush (agent : Nat) (d : DieId) (q : Nat)
  /-- QUEUE_ENABLE (R250): Write of QUEUE_CTL.EN that enables or disables a command queue. -/
  | queueEnable (agent : Nat) (d : DieId) (q : Nat) (en : Bool) (irqEn : Bool)
  /-- CELL_ENABLE (R400): Write of CELL_CTL.EN that enables or disables a cell function. -/
  | cellEnable (agent : Nat) (c : CellLoc) (en : Bool)
  /-- CELL_INIT (R402): Write of CELL_CTL.INIT that re-initialises a cell, restarting its micro-batches under an active Bill. -/
  | cellInit (agent : Nat) (c : CellLoc)
  /-- CP_FN_ENABLE (R399): Write of CP_FN.EN that enables or disables a chain port. -/
  | cpFnEnable (agent : Nat) (d : DieId) (port : Nat) (en : Bool)
  /-- FL_ENABLE (R340): Write of FL_CTL.EN that enables or disables the flash store. -/
  | flEnable (agent : Nat) (v : W32)
  /-- FUNCTION_START_END (R399): A function's start work ends and it becomes ON, or DRAINING with a disable held. -/
  | functionStartEnd (f : FnId)
  /-- FUNCTION_DRAIN_END (R399): A function's drain ends and it becomes OFF, or STARTING with an enable pending. -/
  | functionDrainEnd (f : FnId)
  /-- RED_ITEM_JUDGE (R281): A presented reduction item is judged by its tag once a place is free: fold, open or stale. -/
  | redItemJudge (d : DieId) (slot : Nat) (route : Nat)
  /-- RED_FOLD (R275): The link's adder folds an item into its bucket's place in ORDER. -/
  | redFold (d : DieId) (slot : Nat) (station : Nat)
  /-- RED_EMIT (R278): The bucket's result is emitted on its outputs and the bucket closes. -/
  | redEmit (d : DieId) (slot : Nat) (station : Nat) (tag : Nat)
  /-- BUCKET_TIMEOUT (R283): A bucket reaches BKT_TMO and is emitted as a FAULT bucket. -/
  | bucketTimeout (d : DieId) (place : Nat) (tag : Nat)
  /-- RL_CTL_WRITE (R283): Write of BKT_TMO, which applies at once to buckets already open. -/
  | rlCtlWrite (agent : Nat) (d : DieId) (place : Nat) (v : W32)
  /-- RELAY_ITEM (R289): A weight relay sends an arrived item on every output and writes it to its sink. -/
  | relayItem (d : DieId) (slot : Nat) (station : Nat)
  /-- GATE_TRANSFER (R307): A memory gate issues a transfer of 32 B to 2,048 B within one page. -/
  | gateTransfer (d : DieId) (group : Nat) (client : GateReq)
  /-- GATE_TRANSFER_COMPLETE (R307): A transfer's data arrives or its write is accepted. -/
  | gateTransferComplete (d : DieId) (group : Nat) (xfer : XferEnd)
  /-- PAGE_WALK (R303): A translation walk through the partition's page tables succeeds or faults. -/
  | pageWalk (d : DieId) (group : Nat) (site : Option Nat) (part : Nat) (va : Nat) (write : Bool)
  /-- TLB_INVALIDATE (R305): START of TLB_INV_CTL begins invalidation of a range from every translation cache. -/
  | tlbInvalidate (agent : Nat) (d : DieId) (part : Nat)
  /-- TLB_INVALIDATE_DONE (R305): No cache holds an entry of the range, BUSY clears and DONE is set. -/
  | tlbInvalidateDone (d : DieId) (part : Nat)
  /-- SCHEDULE_DELIVERY (R310): A MEMORY_GATE context delivers a tile of its schedule block as an item. -/
  | scheduleDelivery (d : DieId) (slot : Nat) (station : Nat)
  /-- CACHE_EVICT (R463): A die-cache home line is evicted, written back, or lost when uncorrectable. -/
  | cacheEvict (d : DieId) (line : Nat) (bad : Bool)
  /-- PATROL_READ (R299): The patrol reads and corrects a line of the channel. -/
  | patrolRead (d : DieId) (mc : Nat) (off : Nat) (r : EccResult)
  /-- ODECC_POLL (R295): The controller polls the stack's on-die ECC severity report every 1 ms. -/
  | odeccPoll (d : DieId) (mc : Nat) (corrected : Nat) (severe : Bool)
  /-- HBM_RATE_CHANGE (R300): All controllers of a die enter RATE_CHANGE, self-refresh and retrain at the new rate. -/
  | hbmRateChange (d : DieId) (quiet : Bool)
  /-- HBM_RATE_CHANGE_END (R300): The rate change ends and the controllers return to ON, or a stack becomes FAILED. -/
  | hbmRateChangeEnd (d : DieId) (failed : Nat)
  /-- MC_BROADCAST_WRITE (R299): Write through a stack, die or module broadcast aperture to memory controllers. -/
  | mcBroadcastWrite (agent : Nat) (t : McTarget) (off : Nat) (size : Nat) (v : W64)
  /-- HBM_RGN_WRITE (R301): Write of a region register, accepted only from the security core and only without overlap. -/
  | hbmRgnWrite (agent : Nat) (d : DieId) (i : Nat) (v : W32)
  /-- MOVER_BLOCK (R314): A checkpoint mover reads or writes one 64 KiB image block with its check value. -/
  | moverBlock (d : DieId) (slot : Nat) (station : Nat)
  /-- FLASH_UNIT_READ (R336): A unit is read from its stripe, decoded and checked before delivery. -/
  | flashUnitRead (unit : Nat) (decodes : Bool)
  /-- READ_RETRY (R338): A failing unit is read with retry voltages and soft decoding, or marked UNCORR. -/
  | readRetry (unit : Nat) (decodes : Bool)
  /-- FLASH_PROGRAM (R327): A unit is programmed to a stripe, and a failing block is retired. -/
  | flashProgram (cseq : Nat) (place : Nat) (ok : Bool)
  /-- FLASH_MOVE (R328): A unit is moved to a fresh stripe, checked, and its map entry changed in one step. -/
  | flashMove (unit : Nat) (p : Programmed)
  /-- FLASH_SCAN (R326): After enable and every 24 h, every block is scanned and weak blocks are moved. -/
  | flashScan (weak : List (Nat × Nat))
  /-- MAP_READY (R324): The flash processors finish rebuilding the map in HBM and MAP_READY is set. -/
  | mapReady
  /-- FLASH_HEALTH_CHANGE (R339): The flash store's health state rises, writing a record and raising an interrupt. -/
  | flashHealthChange (stops : Bool) (first : Nat) (last : Nat)
  /-- FL_COMMAND_WRITE (R331): A write to FL_CMD is accepted as a flash command or dropped. -/
  | flCommandWrite (agent : Nat) (off : Nat) (data : List Byte)
  /-- FL_READ (R332): Flash command that reads units into host memory. -/
  | flRead (cseq : Nat)
  /-- FL_WRITE (R332): Flash command that writes units from host memory. -/
  | flWrite (cseq : Nat)
  /-- FL_TRIM (R332): Flash command that clears MAPPED for units. -/
  | flTrim (cseq : Nat)
  /-- FL_FLUSH (R332): Flash command that completes when every completed write and trim is durable. -/
  | flFlush (cseq : Nat)
  /-- FL_QUEUE_RESUME (R341): RESUME of FL_QACT clears HALTED of the flash aperture. -/
  | flQueueResume (agent : Nat)
  /-- FL_QUEUE_FLUSH (R341): FLUSH of FL_QACT cancels every unstarted flash command. -/
  | flQueueFlush (agent : Nat)
  /-- FL_EXT_WRITE (R330): Write of a flash extent register, accepted only from the security core and only without overlap. -/
  | flExtWrite (agent : Nat) (i : Nat) (v : W64)
  /-- PROGRAM_SUSPEND (R332): A read reaches a programming or erasing die and suspends the operation. -/
  | programSuspend (pkg : Nat) (nand : Nat)
  /-- COMMAND_MEMORY_STORE (R345): A core's store to command memory fills its gather buffer, sending a CMD_WR or MEM_WR. -/
  | commandMemoryStore (core : Nat) (st : CoreStore)
  /-- MEM_RD (R343): UCIe read of up to 256 B within one line. -/
  | memRd (d : DieId) (agent : Nat) (tag : Nat) (addr : Nat) (rd : MemRead)
  /-- MEM_WR (R343): UCIe posted write of up to 256 B within one line. -/
  | memWr (d : DieId) (agent : Nat) (addr : Nat) (data : List Byte)
  /-- CMD_WR (R343): UCIe posted 64-byte command write to a queue aperture. -/
  | cmdWr (d : DieId) (agent : Nat) (addr : Nat) (data : List Byte)
  /-- REG_RD (R343): UCIe register read from the host die. -/
  | regRd (d : DieId) (agent : Nat) (tag : Nat) (addr : Nat) (size : Nat)
  /-- REG_WR (R343): UCIe register write from the host die, answered by CPL. -/
  | regWr (d : DieId) (agent : Nat) (tag : Nat) (addr : Nat) (size : Nat) (v : W64)
  /-- CPL (R343): UCIe completion, with data for reads. -/
  | cpl (d : DieId) (tag : Nat) (status : Nat) (data : List Byte)
  /-- MSG_IRQ (R343): UCIe 32-bit message interrupt write to an IMSIC. -/
  | msgIrq (d : DieId) (addr : Nat) (eiid : Nat)
  /-- FLASH_REQ (R343): UCIe request for units by a flash reader. -/
  | flashReq (d : DieId) (slot : Nat) (station : Nat) (unit : Nat)
  /-- FLASH_DLV (R343): UCIe delivery of checked unit bytes to a flash reader. -/
  | flashDlv (d : DieId) (slot : Nat) (station : Nat)
  /-- UCIE_RESERVED_TYPE (R343): A UCIe transaction of reserved type is discarded and recorded. -/
  | ucieReservedType (d : DieId) (module : Nat) (flit : UcieFlit)
  /-- UCIE_TRAINING (R346): A UCIe module trains at x64 or x32 or goes DOWN with its traffic substituted. -/
  | ucieTraining (d : DieId) (module : Nat) (state : Nat) (tx : Nat) (rx : Nat)
  /-- BRIDGE_LINE (R351): A 256-byte line is offered on a bridge segment direction. -/
  | bridgeLine (d : DieId) (seg : Nat) (vc : Nat) (src : Option (Nat × Nat × Nat)) (data : List Byte)
  /-- ACK_OK (R351): The receiver acknowledges a good bridge line. -/
  | ackOk (d : DieId) (seg : Nat)
  /-- ACK_RETRY (R351): The receiver rejects a bridge line and the sender resends it and later lines, failing the segment after 8 retries. -/
  | ackRetry (d : DieId) (seg : Nat)
  /-- BRIDGE_ACK_TIMEOUT (R351): An acknowledge missing for 1 µs counts as ACK_RETRY. -/
  | bridgeAckTimeout (d : DieId) (seg : Nat)
  /-- BRIDGE_RETRAIN (R351): The bridge retrains at power-on or a compute-die reset, restoring failed segments. -/
  | bridgeRetrain (up : Nat)
  /-- ITEM (R358): Chain frame carrying up to 32 lines of an item is received and sequenced. -/
  | item (d : DieId) (port : Nat) (f : Frame)
  /-- TOKEN (R358): Chain frame carrying a token is received and sequenced. -/
  | token (d : DieId) (port : Nat) (f : Frame)
  /-- CREDIT (R360): Chain frame carrying cumulative line grants is received. -/
  | credit (d : DieId) (port : Nat) (f : Frame)
  /-- ACK (R358): Chain frame acknowledging frames before ACK_SEQ is received. -/
  | ack (d : DieId) (port : Nat) (f : Frame)
  /-- NACK (R358): Chain frame requesting resend from ACK_SEQ is received. -/
  | nack (d : DieId) (port : Nat) (f : Frame)
  /-- MARK (R388): Chain timing mark is received and used for timebase following or measurement. -/
  | mark (d : DieId) (port : Nat) (f : Frame)
  /-- MEM_REQ (R361): Chain frame requesting access to this die's HBM is checked and served. -/
  | memReq (d : DieId) (port : Nat) (f : Frame)
  /-- MEM_RSP (R361): Chain frame answering a peer memory request is received. -/
  | memRsp (d : DieId) (port : Nat) (f : Frame)
  /-- RTO_TIMEOUT (R358): The oldest unacknowledged frame reaches RTO and is resent, failing the entry after eight. -/
  | rtoTimeout (d : DieId) (peer : Nat)
  /-- STANDALONE_ACK (R358): A standalone ACK is sent within 2 µs of an accepted frame that nothing else acknowledged. -/
  | standaloneAck (d : DieId) (peer : Nat)
  /-- CREDIT_PERIODIC (R360): A CREDIT frame is sent on change and at least every 8.192 µs. -/
  | creditPeriodic (d : DieId) (peer : Nat)
  /-- MARK_SEND (R362): Every 8.192 µs a port with CP_MARK_DST sends a MARK frame. -/
  | markSend (d : DieId) (port : Nat)
  /-- PEER_CFG_WRITE (R357): Write of a peer entry, which on a valid entry changes only VALID and on setting VALID resets sequences. -/
  | peerCfgWrite (agent : Nat) (d : DieId) (n : Nat) (v : W64)
  /-- BAR2_ACCESS (R366): PCIe access through a VF's BAR2 to partition virtual addresses. -/
  | bar2Access (vf : Nat) (va : Nat) (acc : Bar2)
  /-- PERST_N (R489): PERST_N changes, gating PCIe training in the endpoint role. -/
  | perstN (p : PcieReset)
  /-- GET_STATUS (R398): Management command returning boot, floor, flash and time status. -/
  | getStatus (m : MgmtMsg)
  /-- REG_READ (R481): Management command that reads a register with the management partition's rights. -/
  | regRead (m : MgmtMsg) (addr : Nat)
  /-- REG_WRITE (R481): Management command that writes a register with the management partition's rights. -/
  | regWrite (m : MgmtMsg) (addr : Nat) (v : W64)
  /-- TELEMETRY (R384): Management command returning the telemetry block. -/
  | telemetry (m : MgmtMsg)
  /-- FW_UPDATE (R420): Management command that carries a firmware service on channel 0. -/
  | fwUpdate (m : MgmtMsg) (arg : Nat) (r : FwReq)
  /-- CAL_EXPORT (R413): Management command returning up to 48 bytes of the calibration set. -/
  | calExport (m : MgmtMsg) (off : Nat) (r : CalRead)
  /-- IDCODE (R369): TAP instruction selecting the identification register. -/
  | idcode (tap : Nat)
  /-- SAMPLE_PRELOAD (R369): TAP boundary-scan sample and preload. -/
  | samplePreload (tap : Nat) (pins : Nat) (preload : Nat)
  /-- EXTEST (R369): TAP external test of the J_MGT boundary cells. -/
  | extest (tap : Nat)
  /-- CLAMP (R369): TAP clamp instruction. -/
  | clamp (tap : Nat)
  /-- HIGHZ (R369): TAP high-impedance instruction. -/
  | highz (tap : Nat)
  /-- HOLTUTH_DEBUG (R369): TAP debug instruction, acting only while debug is authorised and never on confidential units. -/
  | holtuthDebug (tap : Nat) (code : Nat)
  /-- BYPASS (R369): TAP bypass instruction. -/
  | bypass (tap : Nat) (code : Nat)
  /-- LAYOUT_SET (R416): Security service that checks and installs a partition layout image. -/
  | layoutSet (ch : Nat)
  /-- SCRUB (R427): Security service that resets and zero-writes a partition, or unassigned granules. -/
  | scrub (ch : Nat)
  /-- SPARGE_ZERO_WRITE (R427): The Sparge finishes zero-writing a granule and sets its SCRUB_MAP bit. -/
  | spargeZeroWrite (d : DieId) (granule : Nat)
  /-- CONF_SET (R431): Security service that installs page tables and puts a clean partition in confidential mode. -/
  | confSet (ch : Nat)
  /-- ATTEST (R425): Security service that writes a signed partition or platform report. -/
  | attest (ch : Nat)
  /-- FW_STAGE (R435): Security service that checks a firmware bundle and stages it. -/
  | fwStage (r : SecReq)
  /-- FW_APPLY (R436): Security service that applies the staged bundle live or by warm reset. -/
  | fwApply (r : SecReq)
  /-- FW_DISCARD (R435): Security service that discards the staged bundle. -/
  | fwDiscard (r : SecReq)
  /-- KEY_REVOKE (R422): Security service that revokes a key slot by blowing its fuse. -/
  | keyRevoke (ch : Nat)
  /-- DEBUG_AUTH (R432): Security service that grants debug authorisation from a signed token. -/
  | debugAuth (ch : Nat)
  /-- CAL_COMMIT (R412): COMMIT of CAL_CTL checks a staged calibration set and writes it to both boot-region copies. -/
  | calCommit (agent : Nat)
  /-- XTAL_GOOD (R372): Y1 passes 100 counting windows and the islands ramp onto it. -/
  | xtalGood
  /-- NO_XTAL (R372): Y1 is not good within 20 ms and the islands run on trimmed IOSC. -/
  | noXtal
  /-- XTAL_LOST (R373): Y1 gives no edge for 50 ns and every Y1 island switches to IOSC. -/
  | xtalLost
  /-- XTAL_RETRY (R373): Write of CLK_CTL.XTAL_RETRY retests Y1 and ramps back onto it if it passes. -/
  | xtalRetry (agent : Nat) (passes : Bool)
  /-- CLOCK_RAMP_STEP (R375): One of eight frequency steps of an island changing source or frequency. -/
  | clockRampStep (island : Nat)
  /-- TRIM_WINDOW (R376): The trim engine ends a measurement window and moves the trim code. -/
  | trimWindow (count : Nat)
  /-- GOVERNOR_TICK (R378): Every 10 µs the governor sets the VDD_FAB target to the lowest of its terms. -/
  | governorTick (d : DieId) (g : GovIn)
  /-- DUTY_TICK (R378): Every 100 µs the dispatch duty falls or rises with the power average. -/
  | dutyTick (d : DieId) (power : Nat)
  /-- PWR_CTL_WRITE (R382): Write of PWR_CTL requesting a power-mode change on both dies. -/
  | pwrCtlWrite (agent : Nat) (v : W32)
  /-- POWER_MODE_CHANGE_END (R382): A power-mode change ends and any held request runs. -/
  | powerModeChangeEnd
  /-- THERMAL_SAMPLE (R383): Every 100 µs sensors and stack reports are sampled and throttle or limit acts. -/
  | thermalSample (where_ : Option DieId) (sensors : List Int) (stackTs : List Int)
  /-- THERMAL_TRIP (R383): A sensor reaches 110 °C and a comparator turns off every regulator. -/
  | thermalTrip
  /-- TELEMETRY_REFRESH (R384): The telemetry block is refreshed every 1 ms. -/
  | telemetryRefresh (block : List Byte)
  /-- TIMEBASE_FOLLOW (R385): A compute die's timebase follows the host die's over the UCIe sideband, recording divergence. -/
  | timebaseFollow (d : DieId) (diverged : Int)
  /-- PPS_EDGE (R388): A rising REFSYNC_IN edge at 1 PPS steps or slews the timebase. -/
  | ppsEdge (error : Int)
  /-- TB_HOLDOVER (R388): No reference arrives for 16 intervals and HOLDOVER is set. -/
  | tbHoldover
  /-- TB_MEAS_START (R389): START of TB_MEAS_CTL captures the next sent and received marks on a port. -/
  | tbMeasStart (agent : Nat) (d : DieId) (port : Nat)
  /-- MOD_EN_RISE (R391): MOD_EN rises with PWR48_IN in range: straps are latched and the host-die rails start. -/
  | modEnRise (role : Bool) (addr : Nat)
  /-- PWR48_THRESHOLD (R492): PWR48_IN reaches 39 V with its capacitance charged, starting a pending boot. -/
  | pwr48Threshold
  /-- FIRMWARE_VERIFY (R393): The boot ROM reads and verifies the firmware bundle from a boot-region copy. -/
  | firmwareVerify (copy0 : BootRead) (copy1 : BootRead)
  /-- SEC_FW_START (R391): The security core reads calibration, sets the boot host region, starts compute rails and loads DM0. -/
  | secFwStart (r : SecStart)
  /-- LINK_TRAINING (R391): DM1 trains UCIe, HBM4 and the bridge, and HBM_ILV is set. -/
  | linkTraining (r : LinkTrain)
  /-- SERVICE_FLOOR_TEST (R396): The security core tests the service floor, entering NO_SERVICE or loading the bootloader. -/
  | serviceFloorTest (r : FloorTest)
  /-- HOST_START (R391): Application core 0 starts and runs the bootloader. -/
  | hostStart
  /-- MOD_EN_FALL (R492): MOD_EN falls and every rail turns off. -/
  | modEnFall
  /-- UNDERVOLTAGE (R487): PWR48_IN stays below 37 V for 200 µs and the module turns off. -/
  | undervoltage
  /-- OVERVOLTAGE (R487): PWR48_IN stays above 62 V for 10 µs and the module turns off. -/
  | overvoltage
  /-- REGULATOR_FAULT (R492): A regulator leaves regulation, MOD_PWRGD falls and the module turns off. -/
  | regulatorFault
  /-- PART_RST (R404): START of PART_RST resets one partition's Floor, queues, cells, links and step flags. -/
  | partRst (agent : Nat) (part : Nat)
  /-- DIE_RESET (R405): A compute-die reset requested in MOD_RST writes back, resets and retrains one die. -/
  | dieReset (agent : Nat) (d : DieId)
  /-- WARM_RESET (R406): A warm reset requested in MOD_RST resets the module and reboots from stage ROM. -/
  | warmReset (agent : Nat)
  /-- COUNTER_WRAP (R438): A counter's COUNT wraps, setting OVF or LOST and sending the overflow message. -/
  | counterWrap (d : DieId) (set : Nat) (n : Nat)
  /-- CNT_CLEAR (R439): CLEAR of CNT_CTL zeroes every counter of the set in one beat. -/
  | cntClear (agent : Nat) (d : DieId) (set : Nat)
  /-- CNT_HOLD (R439): Write of CNT_CTL.HOLD captures or releases the counter set's view. -/
  | cntHold (agent : Nat) (d : DieId) (set : Nat) (hold : Bool)
  /-- CNT_SNAP_ARM (R441): ARM of CNT_SNAP_CTL arms a die-wide counter snapshot at a time. -/
  | cntSnapArm (agent : Nat) (d : DieId)
  /-- CNT_SNAP_TRIGGER (R441): The timebase reaches CNT_SNAP.TIME and every counter set of the die holds. -/
  | cntSnapTrigger (d : DieId)
  /-- TAP_RECORD (R447): A Tap emits a trace record that is written, or lost with a GAP record following. -/
  | tapRecord (d : DieId) (r : TapRec)
  /-- TRACE_ENABLE (R449): Write of TRC_CTL.EN that checks and starts or stops the trace buffer. -/
  | traceEnable (agent : Nat) (d : DieId) (v : W64)
  /-- TRACE_TRIGGER (R450): A software, record or error trigger writes a TRIGGER record in TRIGGER mode. -/
  | traceTrigger (d : DieId) (cause : Nat)
  /-- TRC_MARK_WRITE (R447): Write of TRC_MARK emits a MARK trace record. -/
  | trcMarkWrite (agent : Nat) (d : DieId) (v : W64)
  /-- RD_SEQ_WRITE (R460): Write of ELOG_ST.RD_SEQ, ignored outside the log's bounds. -/
  | rdSeqWrite (agent : Nat) (log : Option DieId) (v : W32)
  /-- READ_CLEAR (R9): Read of an RC field, which returns and clears it. -/
  | readClear (agent : Nat) (addr : Nat) (size : Nat)
  /-- REGISTER_WRITE (R9): Write of a register that has no row of its own, under its access codes. -/
  | registerWrite (agent : Nat) (addr : Nat) (size : Nat) (v : W64)
  /-- RESERVED_OPCODE_ISSUE (R145): A stream issues a word whose opcode is reserved, or not allowed to its stream kind, and raises ILLEGAL_OP. -/
  | reservedOpcodeIssue (l : StreamLoc)
  /-- INTERNAL_ACCESS (R133): The cell-store port serves one line of a TLD, TST or CASK move, and the last line completes the move, setting FILLED and SRC_VALID for a full TLD. -/
  | internalAccess (c : CellLoc) (op : Nat) (perr : Bool)
  /-- RESERVED_FRAME_TYPE (R356): A chain frame of reserved TYPE, or a PAUSE, PFC or VLAN frame, arrives and is dropped and counted. -/
  | reservedFrameType (d : DieId) (port : Nat) (f : Frame)
  /-- CHAIN_LINK_STATE_CHANGE (R357): The link of a chain port goes down or comes back, and the peer entries on that port leave or regain UP. -/
  | chainLinkStateChange (d : DieId) (port : Nat) (up : Bool)
  /-- REFRESH_MANAGEMENT_REQUEST (R295): A stack requests refresh management, the controller serves it and sets MC_ST.RFM_SEEN. -/
  | refreshManagementRequest (d : DieId) (mc : Nat)
  /-- SET_ENDPOINT_ID (R367): The bus owner's MCTP Set Endpoint ID message sets the module's endpoint ID. -/
  | setEndpointId (eid : Nat)
  /-- UNSUPPORTED_COMMAND (R367): A Holtuth management message with a reserved command code is answered with status UNSUPPORTED. -/
  | unsupportedCommand (m : MgmtMsg) (cmd : UnknownCmd)
  /-- TAP_RESET (R369): TRST_N is asserted, or the TAP is otherwise reset, and each TAP selects IDCODE. -/
  | tapReset (trst : Bool)
  /-- TURN_OFF_RESTART (R487): 100 ms after an undervoltage, overvoltage or regulator turn-off, with PWR48_IN in range and MOD_EN high, the module starts again. -/
  | turnOffRestart
  deriving DecidableEq, Repr

end Sys2Proof
end

