-- ==== Sys2Proof/Decode.lean ====
section
/-! DEFINITION. The table of operations and events gives no row any bits, so no word spells a command. -/

namespace Sys2Proof

/-- The command that a word spells by the table's bits: none, since no row of the table has bits. -/
def decodeTableWord (_nbits _w : Nat) : Option Instr := none

/-! ### UCIe transactions (R343) -/

/-- The fields of a transaction's header granule (Table 13.2). -/
structure UcieHeader where
  type : Nat
  dlen : Nat
  tag : Nat
  addr : Nat
  agent : Nat
  len : Nat
  status : Nat
  deriving DecidableEq, Repr

/-- Bits `hi` to `lo` of a granule. -/
def granuleField (w hi lo : Nat) : Nat := (w / 2 ^ lo) % 2 ^ (hi + 1 - lo)

/-- The header that a granule's 128 bits spell; reserved bits are not read. -/
def ucieHeader (w : Nat) : UcieHeader :=
  { type := granuleField w 3 0, dlen := granuleField w 8 4, tag := granuleField w 31 16, addr := granuleField w 79 32
    agent := granuleField w 87 80, len := granuleField w 96 88 + 1, status := granuleField w 111 104 }

/-- Little-endian data of a transaction as a number. -/
def dataNumber (bs : List (BitVec 8)) : Nat := bs.foldr (fun b n => b.toNat + 256 * n) 0

/-- The command that a transaction on a module of a compute die gives, its data granules as bytes (Table 13.3); filler gives none.
FLASH_REQ and FLASH_DLV name the reader's PLACE in their header (`readerOf` finds its slot and station). PRESUMED (assumption 111): the
first data bytes of MSG_IRQ are its identity, and those of FLASH_REQ its unit. -/
def ucieCommand (d : DieId) (module w : Nat) (data : List (BitVec 8)) (readerOf : Nat → Option (Nat × Nat)) : Option Instr :=
  let h := ucieHeader w
  let bytes := data.take (min h.len (16 * h.dlen))
  match h.type with
  | 1 => some (.memRd d h.agent h.tag h.addr { len := h.len, ecc := [] })
  | 2 => some (.memWr d h.agent h.addr bytes)
  | 3 => some (.cmdWr d h.agent h.addr (data.take (16 * h.dlen)))
  | 4 => some (.regRd d h.agent h.tag h.addr h.len)
  | 5 => some (.regWr d h.agent h.tag h.addr h.len (BitVec.ofNat 64 (dataNumber (data.take 8))))
  | 6 => some (.cpl d h.tag h.status bytes)
  | 9 => (readerOf (h.addr % 16)).map (fun e => .flashDlv d e.1 e.2)
  | 0 => none
  | 7 => some (.msgIrq d h.addr (dataNumber (data.take 4)))
  | 8 => (readerOf (h.addr % 16)).map (fun e => .flashReq d e.1 e.2 (dataNumber (data.take 4)))
  | _ => some (.ucieReservedType d module { header := w })

end Sys2Proof
end

