-- ==== Sys2Proof/Machine/Bits.lean ====
section
/-! DEFINITION. Bit fields of natural numbers, byte order and sign extension: everything little-endian (R7). -/

namespace Sys2Proof.Machine

/-- Bits `[hi:lo]` of a number. -/
def fld (x hi lo : Nat) : Nat := (x >>> lo) % 2 ^ (hi + 1 - lo)

/-- Bit `n` of a number. -/
def bit (x n : Nat) : Bool := x.testBit n

/-- A bit as a number. -/
def b2n (b : Bool) : Nat := if b then 1 else 0

/-- A number of `w` bits read as two's complement. -/
def signed (w x : Nat) : Int := if x % 2 ^ w < 2 ^ (w - 1) then ((x % 2 ^ w : Nat) : Int) else ((x % 2 ^ w : Nat) : Int) - (2 ^ w : Nat)

/-- The low `w` bits of an integer in two's complement. -/
def unsigned (w : Nat) (x : Int) : Nat := (x % ((2 ^ w : Nat) : Int)).toNat

/-- The number of little-endian bytes (R7). -/
def leNat : List Byte → Nat
  | [] => 0
  | b :: bs => b.toNat + 256 * leNat bs

/-- The low `n` bytes of a number, little-endian (R7). -/
def leBytes : Nat → Nat → List Byte
  | 0, _ => []
  | n + 1, x => BitVec.ofNat 8 x :: leBytes n (x / 256)

/-- `x` with bits `[hi:lo]` replaced by `v`. -/
def setFld (x hi lo v : Nat) : Nat :=
  x - (fld x hi lo) * 2 ^ lo + (v % 2 ^ (hi + 1 - lo)) * 2 ^ lo

/-- A count that stays at its largest value (the saturating counts of R52, R118, R299). -/
def satAdd (w x n : Nat) : Nat := if x + n < 2 ^ w then x + n else 2 ^ w - 1

/-- Rounding up of a quotient. -/
def ceilDiv (a b : Nat) : Nat := (a + b - 1) / b

/-- The next multiple of `m` at or above `a`. -/
def alignUp (a m : Nat) : Nat := ceilDiv a m * m

/-- The 32 indices of a mask in which bits are set, lowest first. -/
def bitsSet (w x : Nat) : List Nat := (List.range w).filter (bit x)

end Sys2Proof.Machine
end

