-- ==== Sys2Proof/Config.lean ====
section
/-! DEFINITION. What the spec leaves open: constants with no body, so that no proof can lean on a value. -/

namespace Sys2Proof.Config

/-- A free value of any width below `2 ^ w`, by the number of the draw (State.fresh); see assumption 13. -/
opaque freeBits : (draw : Nat) → (w : Nat) → Nat

/-- The FP32 value of a fixed function, by function number and FP32 input; R172 fixes one value for every cell and bounds it, which
Machine/Approx.lean holds it to, but does not state it (assumption 20). -/
opaque fixedFn : (fn : Nat) → (input : Nat) → BitVec 32

/-- The FP32 value of a fixed function's derivative (R171, R172; assumption 20). -/
opaque fixedDeriv : (fn : Nat) → (input : Nat) → BitVec 32

/-- The sign of a result NaN when two NaN inputs differ in sign; R34 does not choose (assumption 21). -/
opaque nanSign : (first second : Bool) → Bool

/-- The sign of the zero that MAX or MIN of unlike zeros gives; R33 and R168 do not choose (assumption 22). -/
opaque zeroSign : (isMax : Bool) → (firstNeg : Bool) → Bool

/-- The set, of 768 in a slice of the die cache, that a line has its home in; R306 gives 16 ways in 3 MiB and no index
(assumption 90). -/
opaque cacheSet : (line : Nat) → Nat

/-- The sideband of a bridge line by its channel, its kind, the item header that it carries and its data bytes: R347 names what the 96
wires carry and gives them no coding (assumption 92). -/
opaque bridgeSideband : (vc kind header bytes : Nat) → List (BitVec 8)

/-- Blocks in the spare pool of a package as the module was made: R339 counts in percent of it and no table gives it
(assumption 94). -/
opaque sparePool : (package : Nat) → Nat

/-- The low mark of a package's free-block pool: R328 names it and no table gives it (assumption 20). -/
opaque lowMark : (package : Nat) → Nat

/-- The blocks that carry factory marks, which R327 reads at the first enable: what each module was made with (assumption 73). -/
opaque factoryMarks : List Nat

/-- Holtuth's JEDEC manufacturer code, which R369 names and no table gives (assumption 20). -/
opaque jedecCode : Nat

/-- The Holtuth header that a management message carries before its body (Table 13.16); R367 names its parts, MCTP message type 0x7E
and the PCI vendor ID that PCIE_IDS reports, and gives no layout (assumption 45). -/
opaque holtuthHeader : List (BitVec 8)

end Sys2Proof.Config
end

