-- ==== Sys2Proof/Machine/Num.lean ====
section
/-! DEFINITION. The seventeen number formats, exact arithmetic, rounding and conversion (spec/02_formats.md). -/

namespace Sys2Proof.Machine

/-- The formats of Table 2.1, in code order. -/
inductive Fmt where
  | fp32 | fp19 | bf16 | fp16 | e4m3 | e5m2 | e3m2 | e2m3 | e2m1 | e8m0
  | int8 | uint8 | int4 | uint4 | int32 | lx128 | lx64
  deriving DecidableEq, Repr

/-- The format of a 5-bit code; a reserved code names none (R25, Table 2.1). -/
def fmtOfCode : Nat → Option Fmt
  | 0x00 => some .fp32 | 0x01 => some .fp19 | 0x02 => some .bf16 | 0x03 => some .fp16
  | 0x04 => some .e4m3 | 0x05 => some .e5m2 | 0x06 => some .e3m2 | 0x07 => some .e2m3
  | 0x08 => some .e2m1 | 0x09 => some .e8m0 | 0x0A => some .int8 | 0x0B => some .uint8
  | 0x0C => some .int4 | 0x0D => some .uint4 | 0x0E => some .int32 | 0x0F => some .lx128
  | 0x10 => some .lx64
  | _ => none

/-- The 5-bit code of a format (Table 2.1). -/
def fmtCode : Fmt → Nat
  | .fp32 => 0x00 | .fp19 => 0x01 | .bf16 => 0x02 | .fp16 => 0x03 | .e4m3 => 0x04
  | .e5m2 => 0x05 | .e3m2 => 0x06 | .e2m3 => 0x07 | .e2m1 => 0x08 | .e8m0 => 0x09
  | .int8 => 0x0A | .uint8 => 0x0B | .int4 => 0x0C | .uint4 => 0x0D | .int32 => 0x0E
  | .lx128 => 0x0F | .lx64 => 0x10

/-- Width of a packed element in bits (Table 2.1, R30). -/
def fmtBits : Fmt → Nat
  | .fp32 | .fp19 | .int32 => 32
  | .bf16 | .fp16 => 16
  | .e4m3 | .e5m2 | .e8m0 | .int8 | .uint8 => 8
  | .e3m2 | .e2m3 => 6
  | .e2m1 | .int4 | .uint4 => 4
  | .lx128 => 128
  | .lx64 => 64

/-- The integer formats of Table 2.3. -/
def fmtIsInt : Fmt → Bool
  | .int8 | .uint8 | .int4 | .uint4 | .int32 => true
  | _ => false

/-- The Operand column of Table 2.1. -/
def fmtOperand : Fmt → Bool
  | .fp32 | .fp19 | .bf16 | .fp16 | .e4m3 | .e5m2 | .e3m2 | .e2m3 | .e2m1
  | .int8 | .uint8 | .int4 | .uint4 => true
  | _ => false

/-- The Output column of Table 2.1. -/
def fmtOutput : Fmt → Bool
  | .fp32 | .fp19 | .bf16 | .fp16 | .e4m3 | .e5m2 | .e3m2 | .e2m3 | .e2m1
  | .int8 | .uint8 | .int4 | .uint4 | .int32 => true
  | _ => false

/-- The Storage column of Table 2.1. -/
def fmtStorage (f : Fmt) : Bool := fmtOutput f || f == .lx128

/-- The formats that always carry block scales (R37). -/
def fmtAlwaysScaled : Fmt → Bool
  | .e3m2 | .e2m3 | .e2m1 => true
  | _ => false

/-- The formats that may carry block scales (R37). -/
def fmtMayScale : Fmt → Bool
  | .e4m3 | .e5m2 | .e3m2 | .e2m3 | .e2m1 => true
  | _ => false

/-- Width of the exponent field (Table 2.2). -/
def expBits : Fmt → Nat
  | .fp32 | .fp19 | .bf16 => 8
  | .fp16 | .e5m2 => 5
  | .e4m3 => 4
  | .e3m2 => 3
  | .e2m3 | .e2m1 => 2
  | _ => 0

/-- Width M of the mantissa field (Table 2.2). -/
def manBits : Fmt → Nat
  | .fp32 => 23 | .fp19 => 10 | .bf16 => 7 | .fp16 => 10 | .e4m3 => 3 | .e5m2 => 2
  | .e3m2 => 2 | .e2m3 => 3 | .e2m1 => 1
  | _ => 0

/-- Exponent bias (Table 2.2). -/
def fmtBias : Fmt → Int
  | .fp32 | .fp19 | .bf16 => 127
  | .fp16 | .e5m2 => 15
  | .e4m3 => 7
  | .e3m2 => 3
  | .e2m3 | .e2m1 => 1
  | _ => 0

/-- Limits of an integer format (Table 2.3). -/
def intMin : Fmt → Int
  | .int8 => -128 | .int4 => -8 | .int32 => -2147483648 | _ => 0

def intMax : Fmt → Int
  | .int8 => 127 | .uint8 => 255 | .int4 => 7 | .uint4 => 15 | .int32 => 2147483647 | _ => 0

/-- An exact value: NaN with a sign, an infinity, or `(-1)^neg * mag * 2^exp` (zeros keep a sign, R33). -/
inductive Val where
  | nan (neg : Bool)
  | inf (neg : Bool)
  | fin (neg : Bool) (mag : Nat) (exp : Int)
  deriving DecidableEq, Repr

/-- +0. -/
def Val.zero : Val := .fin false 0 0

/-- An exact integer. -/
def Val.ofInt (x : Int) : Val := .fin (decide (x < 0)) x.natAbs 0

/-- The value of the bits of a floating-point or integer format (R28, R29, R32). -/
def decodeVal (f : Fmt) (bits : Nat) : Val :=
  if fmtIsInt f then
    match f with
    | .int8 => .ofInt (signed 8 bits)
    | .int4 => .ofInt (signed 4 bits)
    | .int32 => .ofInt (signed 32 bits)
    | .uint8 => .ofInt (bits % 256 : Nat)
    | _ => .ofInt (bits % 16 : Nat)
  else
    let x := if f = .fp19 then bits >>> 13 else bits
    let M := manBits f
    let E := expBits f
    let m := x % 2 ^ M
    let e := (x >>> M) % 2 ^ E
    let neg := x.testBit (M + E)
    let isNan := match f with
      | .e4m3 => e == 15 && m == 7
      | .e3m2 | .e2m3 | .e2m1 => false
      | _ => e == 2 ^ E - 1 && m != 0
    let isInf := match f with
      | .e4m3 | .e3m2 | .e2m3 | .e2m1 => false
      | _ => e == 2 ^ E - 1 && m == 0
    if isNan then .nan neg
    else if isInf then .inf neg
    else if e = 0 then .fin neg m (1 - fmtBias f - M)
    else .fin neg (2 ^ M + m) ((e : Int) - fmtBias f - M)

/-- The value of an E8M0 scale; 0xFF is NaN (R36). -/
def decodeScale (c : Nat) : Val :=
  if c % 256 = 255 then .nan false else .fin false 1 ((c % 256 : Nat) - 127)

/-- A NaN result of two inputs of which at least one is a NaN (R34). -/
def nanOf : Val → Val → Val
  | .nan a, .nan b => .nan (if a = b then a else Config.nanSign a b)
  | .nan a, _ => .nan a
  | _, .nan b => .nan b
  | _, _ => .nan false

/-- The exact product (R40); 0 times infinity is a positive NaN (R34). -/
def mulVal : Val → Val → Val
  | .fin a m e, .fin b n f => .fin (a != b) (m * n) (e + f)
  | .inf a, .inf b => .inf (a != b)
  | .inf a, .fin b n _ => if n = 0 then .nan false else .inf (a != b)
  | .fin a m _, .inf b => if m = 0 then .nan false else .inf (a != b)
  | x, y => nanOf x y

/-- The exact sum; an exact zero is +0, or -0 toward minus infinity, and like zeros keep their sign (R33). -/
def addVal (rd : Bool) : Val → Val → Val
  | .fin a m e, .fin b n f =>
    if m = 0 ∧ n = 0 then (if a = b then .fin a 0 0 else .fin rd 0 0)
    else
      let g := min e f
      let x : Int := (if a then -1 else 1) * ((m * 2 ^ (e - g).toNat : Nat) : Int)
      let y : Int := (if b then -1 else 1) * ((n * 2 ^ (f - g).toNat : Nat) : Int)
      let s := x + y
      if s = 0 then .fin rd 0 0 else .fin (decide (s < 0)) s.natAbs g
  | .inf a, .inf b => if a = b then .inf a else .nan false
  | .inf a, .fin _ _ _ => .inf a
  | .fin _ _ _, .inf b => .inf b
  | x, y => nanOf x y

/-- Negation (EW NEG and SUB, Table 6.8); a NaN keeps its sign (R34). -/
def negVal : Val → Val
  | .nan a => .nan a
  | .inf a => .inf (!a)
  | .fin a m e => .fin (!a) m e

/-- Absolute value (EW ABS); a NaN keeps its sign (R34). -/
def absVal : Val → Val
  | .nan a => .nan a
  | .inf _ => .inf false
  | .fin _ m e => .fin false m e

def Val.isNan : Val → Bool
  | .nan _ => true
  | _ => false

/-- A NaN or an infinity (R58). -/
def Val.nonfinite : Val → Bool
  | .fin _ _ _ => false
  | _ => true

def Val.isZero : Val → Bool
  | .fin _ m _ => m == 0
  | _ => false

def Val.neg : Val → Bool
  | .nan a => a
  | .inf a => a
  | .fin a _ _ => a

/-- Order of two values that are not NaN: -1, 0 or 1; zeros compare equal (R33). -/
def cmpVal (x y : Val) : Int :=
  let key : Val → Int → Int := fun v g => match v with
    | .fin a m e => (if a then -1 else 1) * ((m * 2 ^ (e - g).toNat : Nat) : Int)
    | _ => 0
  match x, y with
  | .inf a, .inf b => if a = b then 0 else if a then -1 else 1
  | .inf a, _ => if a then -1 else 1
  | _, .inf b => if b then 1 else -1
  | .fin a m e, .fin b n f =>
    let g := min e f
    let u := key (.fin a m e) g
    let v := key (.fin b n f) g
    if u < v then -1 else if u = v then 0 else 1
  | _, _ => 0

/-- MAX and MIN: the other operand for a NaN, NaN for two (R169); unlike zeros give a zero of open sign. -/
def maxMin (isMax : Bool) (x y : Val) : Val :=
  if x.isNan && y.isNan then nanOf x y
  else if x.isNan then y
  else if y.isNan then x
  else if x.isZero && y.isZero && x.neg != y.neg then .fin (Config.zeroSign isMax x.neg) 0 0
  else if isMax then (if cmpVal x y < 0 then y else x)
  else (if cmpVal x y > 0 then y else x)

/-- Integer square root by bits: `n` rounds of the digit method. -/
def isqrtAux : Nat → Nat → Nat → Nat
  | 0, _, r => r
  | n + 1, x, r =>
    let t := r + 2 ^ n
    if t * t ≤ x then isqrtAux n x t else isqrtAux n x r

/-- The largest `r` with `r * r ≤ x`. -/
def isqrt (x : Nat) : Nat := isqrtAux (Nat.log2 x / 2 + 1) x 0

/-- Bits of quotient or root kept before the sticky bit; above every precision and the 24 bits of R43. -/
def guardBits : Nat := 128

/-- The quotient, exact in its leading bits, with a sticky bit below them for the remainder. -/
def divVal : Val → Val → Val
  | .fin a m e, .fin b n f =>
    if n = 0 then (if m = 0 then .nan false else .inf (a != b))
    else if m = 0 then .fin (a != b) 0 0
    else
      let sh := guardBits + Nat.log2 n
      let q := (m * 2 ^ sh) / n
      let r := (m * 2 ^ sh) % n
      .fin (a != b) (2 * q + (if r = 0 then 0 else 1)) (e - f - sh - 1)
  | .inf _, .inf _ => .nan false
  | .inf a, .fin b _ _ => .inf (a != b)
  | .fin a _ _, .inf b => .fin (a != b) 0 0
  | x, y => nanOf x y

/-- The square root, exact in its leading bits, with a sticky bit; a negative input is invalid (R34). -/
def sqrtVal : Val → Val
  | .fin a m e =>
    if m = 0 then .fin a 0 0
    else if a then .nan false
    else
      let odd := e % 2 = 1
      let m1 := if odd then 2 * m else m
      let e1 := if odd then e - 1 else e
      let x := m1 * 2 ^ (2 * guardBits)
      let r := isqrt x
      .fin false (2 * r + (if r * r = x then 0 else 1)) (e1 / 2 - guardBits - 1)
  | .inf a => if a then .nan false else .inf false
  | .nan a => .nan a

/-- Rounding modes of Table 2.5; a reserved code names none (R41). -/
inductive Rnd where
  | rne | rz | ru | rd | sr
  deriving DecidableEq, Repr

def rndOfCode : Nat → Option Rnd
  | 0 => some .rne | 1 => some .rz | 2 => some .ru | 3 => some .rd | 4 => some .sr
  | _ => none

/-- The magnitude `mag * 2^exp` as a number of units `2^lsb`, rounded under a mode; `u` is the draw of R43. -/
def roundMag (r : Rnd) (neg : Bool) (mag : Nat) (exp lsb : Int) (u : Nat) : Nat :=
  if lsb ≤ exp then mag * 2 ^ (exp - lsb).toNat
  else
    let sh := (lsb - exp).toNat
    let q := mag >>> sh
    let rem := mag % 2 ^ sh
    let up := match r with
      | .rne => decide (2 * rem > 2 ^ sh) || (decide (2 * rem = 2 ^ sh) && q % 2 == 1)
      | .rz => false
      | .ru => !neg && rem != 0
      | .rd => neg && rem != 0
      | .sr =>
        let d := if 24 ≤ sh then rem >>> (sh - 24) else rem <<< (24 - sh)
        decide (2 ^ 24 ≤ d + u)
    if up then q + 1 else q

/-- The numeric flags that one element raises (Table 2.7). -/
structure Flg where
  nonfinite : Bool := false
  intSat : Bool := false
  convSat : Bool := false
  lxOvf : Bool := false
  lxInexact : Bool := false
  lxUnder : Nat := 0
  deriving DecidableEq, Repr

/-- Flags gathered over elements. -/
def Flg.join (a b : Flg) : Flg :=
  { nonfinite := a.nonfinite || b.nonfinite, intSat := a.intSat || b.intSat, convSat := a.convSat || b.convSat,
    lxOvf := a.lxOvf || b.lxOvf, lxInexact := a.lxInexact || b.lxInexact, lxUnder := a.lxUnder + b.lxUnder }

/-- Places the sign, exponent and mantissa of a format; FP19 lies in bits [31:13] of its container (R29). -/
def packFp (f : Fmt) (neg : Bool) (body : Nat) : Nat :=
  let x := body + (if neg then 2 ^ (manBits f + expBits f) else 0)
  if f = .fp19 then x <<< 13 else x

/-- The largest finite magnitude's exponent and mantissa fields (Table 2.2). -/
def maxBody : Fmt → Nat
  | .e4m3 => 0x7E
  | .e3m2 => 0x1F
  | .e2m3 => 0x1F
  | .e2m1 => 0x7
  | f => (2 ^ expBits f - 1) * 2 ^ manBits f - 1

/-- The canonical NaN of a format (Table 2.4). -/
def canonNan (f : Fmt) (neg : Bool) : Nat :=
  match f with
  | .e4m3 => packFp f neg 0x7F
  | _ => packFp f neg ((2 ^ expBits f - 1) * 2 ^ manBits f + 2 ^ (manBits f - 1))

/-- An infinite or overflowed result under Table 2.6: its bits and whether it was a clamp. -/
def overflowBits (f : Fmt) (sat : Bool) (r : Rnd) (neg : Bool) (wasInf : Bool) : Nat × Bool :=
  match f with
  | .e4m3 => if sat then (packFp f neg (maxBody f), true) else (canonNan f neg, false)
  | .e3m2 | .e2m3 | .e2m1 => (packFp f neg (maxBody f), true)
  | _ =>
    let infBits := packFp f neg ((2 ^ expBits f - 1) * 2 ^ manBits f)
    let maxBits := packFp f neg (maxBody f)
    if wasInf then (infBits, false)
    else if sat then (maxBits, true)
    else match r with
      | .rz => (maxBits, true)
      | .ru => if neg then (maxBits, true) else (infBits, false)
      | .rd => if neg then (infBits, false) else (maxBits, true)
      | _ => (infBits, false)

/-- Whether the bits of a floating-point format are a NaN or an infinity. -/
def bitsNonfinite (f : Fmt) (bits : Nat) : Bool :=
  if fmtIsInt f then false else (decodeVal f bits).nonfinite

/-- One conversion into a floating-point format, rounded once (R42, R46, R47). -/
def convFp (f : Fmt) (r : Rnd) (sat : Bool) (u : Nat) (v : Val) : Nat × Flg :=
  match v with
  | .nan a => (canonNan f a, { nonfinite := true })
  | .inf a =>
    let (b, c) := overflowBits f sat r a true
    (b, { nonfinite := true, convSat := c })
  | .fin a m e =>
    if m = 0 then (packFp f a 0, {})
    else
      let M : Int := manBits f
      let emin : Int := 1 - fmtBias f
      let top : Int := Nat.log2 m + e
      let lsb : Int := max top emin - M
      let q := roundMag r a m e lsb u
      let body := (lsb - (emin - M)).toNat * 2 ^ (manBits f) + q
      if body ≤ maxBody f then (packFp f a body, {})
      else
        let (b, c) := overflowBits f sat r a false
        (b, { convSat := c, nonfinite := bitsNonfinite f b })

/-- One conversion into an integer format (R48, R49). -/
def convInt (f : Fmt) (r : Rnd) (u : Nat) (v : Val) : Nat × Flg :=
  let out : Int → Nat := unsigned (fmtBits f)
  match v with
  | .nan _ => (0, { nonfinite := true })
  | .inf a => (out (if a then intMin f else intMax f), { nonfinite := true, convSat := true })
  | .fin a m e =>
    let q : Int := roundMag r a m e 0 u
    let x : Int := if a then -q else q
    if x < intMin f then (out (intMin f), { convSat := true })
    else if intMax f < x then (out (intMax f), { convSat := true })
    else (out x, {})

/-- One conversion into any unscaled output format. -/
def conv (f : Fmt) (r : Rnd) (sat : Bool) (u : Nat) (v : Val) : Nat × Flg :=
  if fmtIsInt f then convInt f r u v else convFp f r sat u v

/-- Rounding of an exact value into FP32 under RNE (R40, R42). -/
def toFp32 (v : Val) : Nat := (convFp .fp32 .rne false 0 v).1

/-- One addition into an FP32 accumulator (R40). -/
def accAddFp (acc : Nat) (v : Val) : Nat := toFp32 (addVal false (decodeVal .fp32 acc) v)

/-- One addition into an INT32 accumulator, clamped (R40); true when it clamped. -/
def accAddInt (acc : Nat) (x : Int) : Nat × Bool :=
  let s := signed 32 acc + x
  if s < intMin .int32 then (unsigned 32 (intMin .int32), true)
  else if intMax .int32 < s then (unsigned 32 (intMax .int32), true)
  else (unsigned 32 s, false)

/-- The exact integer of an integer value. -/
def Val.toInt : Val → Int
  | .fin a m e => (if a then -1 else 1) * ((m * 2 ^ e.toNat : Nat) : Int)
  | _ => 0

/-- E of R38: the exponent of the format's largest magnitude. -/
def scaleE : Fmt → Int
  | .e4m3 => 8 | .e5m2 => 15 | .e3m2 => 4 | _ => 2

/-- floor(log2) of a non-zero finite magnitude. -/
def floorLog2 : Val → Int
  | .fin _ m e => Nat.log2 m + e
  | _ => 0

/-- The larger magnitude of a list of finite values. -/
def amaxOf : List Val → Val
  | [] => .zero
  | v :: vs => let w := amaxOf vs; if cmpVal (absVal v) w < 0 then w else absVal v

/-- One block of a block-scaled output: its scale code, element bits and flags (R38); `us` are the draws. -/
def convBlock (f : Fmt) (r : Rnd) (vs : List Val) (us : List Nat) : Nat × List Nat × Flg :=
  if vs.any Val.nonfinite then (0xFF, vs.map (fun _ => 0), { nonfinite := true })
  else
    let amax := amaxOf vs
    if amax.isZero then (0x7F, vs.map (fun v => packFp f v.neg 0), {})
    else
      let X : Int := max (-127) (min 127 (floorLog2 amax - scaleE f))
      let elems := (vs.zip (us ++ List.replicate vs.length 0)).map
        (fun p => convFp f r true p.2 (mulVal p.1 (.fin false 1 (-X))))
      ((X + 127).toNat, elems.map Prod.fst, (elems.map Prod.snd).foldl Flg.join {})

/-- Seeding of the generator (R44). -/
def srSeed (v : W64) : W64 := if v = 0 then 0x9E3779B97F4A7C15 else v

/-- The generator's next state (R44). -/
def srStep (s : W64) : W64 :=
  let a := s ^^^ (s >>> 12)
  let b := a ^^^ (a <<< 25)
  b ^^^ (b >>> 27)

/-- u of R43: bits [63:40] of the output for a stepped state. -/
def srDraw (s : W64) : Nat := (s * 0x2545F4914F6CDD1D).toNat >>> 40

/-- `n` draws in order, and the state after them (R45). -/
def srDraws (s : W64) : Nat → List Nat × W64
  | 0 => ([], s)
  | n + 1 =>
    let s1 := srStep s
    let (us, s2) := srDraws s1 n
    (srDraw s1 :: us, s2)

/-- A contribution entering an LX value of `w` bits with window `L` (R52): the new X, and its flags. -/
def lxEnter (w : Nat) (L : Int) (x : Int) (v : Val) : Int × Flg :=
  match v with
  | .fin a m e =>
    let q := roundMag .rz a m e L 0
    if m ≠ 0 ∧ q = 0 then (x, { lxUnder := 1 })
    else if 2 ^ (w - 1) ≤ q then (x, { lxOvf := true })
    else
      let s := x + (if a then -(q : Int) else q)
      (signed w (unsigned w s), { lxOvf := signed w (unsigned w s) != s })
  | _ => (x, { lxOvf := true, nonfinite := true })

/-- The exact sum of two LX values of equal windows, modulo the width (R53). -/
def lxAdd (w : Nat) (x y : Int) : Int × Bool :=
  let s := x + y
  (signed w (unsigned w s), signed w (unsigned w s) != s)

/-- Conversion between windows and widths (R55). -/
def lxConv (w : Nat) (L1 L2 : Int) (x : Int) : Int × Flg :=
  let (y, inexact) : Int × Bool :=
    if L2 ≤ L1 then (x * 2 ^ (L1 - L2).toNat, false)
    else
      let d : Nat := 2 ^ (L2 - L1).toNat
      let q : Int := (x.natAbs / d : Nat)
      (if x < 0 then -q else q, x.natAbs % d != 0)
  (signed w (unsigned w y), { lxInexact := inexact, lxOvf := signed w (unsigned w y) != y })

/-- The exact value of an LX integer, or a positive NaN where its LX_OVF is set (R54). -/
def lxVal (L : Int) (ovf : Bool) (x : Int) : Val :=
  if ovf then .nan false else .fin (decide (x < 0)) x.natAbs L

/-- Element `i` of packed bits of width `w` (R30). -/
def elemAt (w bits i : Nat) : Nat := (bits >>> (w * i)) % 2 ^ w

/-- Packs element bits, element 0 lowest (R30). -/
def packElems (w : Nat) : List Nat → Nat
  | [] => 0
  | x :: xs => x % 2 ^ w + 2 ^ w * packElems w xs

end Sys2Proof.Machine
end

