-- ==== Sys2Proof/Machine/CellState.lean ====
section
/-! DEFINITION. The state of one cell: streams, tile registers, accumulators, Cask, tables and instructions in flight. -/

namespace Sys2Proof.Machine

/-- STREAM_ST.STATE (Table 6.14), in code order. -/
inductive StreamState where
  | idle | running | halted | exception | faulted | stopped
  deriving DecidableEq, Repr

/-- Why a RUNNING stream's next instruction does not issue (R121, R123, R143, R161, R256). -/
inductive Wait where
  | none | queueEmpty | queueFull | scoreboard | memoryLate | semaphore | version | taskSlot | fence | grant | halt | owner
  deriving DecidableEq, Repr

/-- One level of a stream's loop stack (R150). -/
structure LoopLevel where
  first : Nat
  last : Nat
  left : Nat
  iter : Nat
  deriving DecidableEq, Repr

/-- SFLT_INFO, SFLT_VA and SFLT_PC of an access stream (Tables 4.8 to 4.11). -/
structure Sflt where
  kind : Nat := 0
  slot : Nat := 0
  row : Nat := 0
  store : Bool := false
  more : Bool := false
  valid : Bool := false
  actIgnored : Bool := false
  va : Nat := 0
  pc : Nat := 0
  deriving DecidableEq, Repr

/-- One instruction stream (R120, R179). -/
structure Stream where
  st : StreamState := .idle
  exc : Nat := 0
  nonfinite : Bool := false
  actIgnored : Bool := false
  xkind : Nat := 0
  pc : W32 := 0
  excPc : W32 := 0
  /-- The instruction behind the issue point that raised the exception; none for an issue exception (R180). -/
  excOp : Option Nat := none
  regs : Tab W64 := []
  /-- Innermost level first. -/
  loops : List LoopLevel := []
  sr : W64 := 0x9E3779B97F4A7C15
  /-- Index of the stream's image in the directory of the active Bill; none for no image (Table 7.7). -/
  image : Option Nat := none
  entry : Nat := 0
  wait : Wait := .none
  sflt : Sflt := {}
  /-- Stopped by request with transfers or OPAs held (R114). -/
  asyncStop : Bool := false
  /-- The nanoseconds of the die's timebase at which the stream last entered EXCEPTION and STOPPED, for coincidence (R183). -/
  excAt : Option Nat := none
  stopAt : Option Nat := none
  deriving DecidableEq, Repr

/-- Configuration and status of a tile slot (Tables 4.5, 4.6, R117). -/
structure Slot where
  fmt : Nat := 0
  rows : Nat := 0
  cols : Nat := 0
  saxis : Nat := 0
  base : Nat := 0
  words : Nat := 0
  filled : Bool := false
  srcValid : Bool := false
  invalid : Bool := false
  gen : Nat := 0
  /-- Cell-store place, pitch and orientation of the TLD that filled it (R117). -/
  srcOff : Nat := 0
  srcPitch : Nat := 0
  srcCol : Bool := false
  deriving DecidableEq, Repr

/-- The fields of TNSTAT (Table 2.9). -/
structure Tnstat where
  nonfinite : Bool := false
  intSat : Bool := false
  convSat : Bool := false
  lxOvf : Bool := false
  lxInexact : Bool := false
  lxUnder : Nat := 0
  deriving DecidableEq, Repr

/-- One accumulator tile; ACCSTAT is computed from it (R71, R76). -/
structure Acc where
  /-- Binding instance that holds the tile; none when FREE. -/
  inst : Option Nat := none
  ctx : Nat := 3
  an : Nat := 0
  typed : Bool := false
  itype : Bool := false
  repro : Bool := false
  spillN : Nat := 0
  img : Option Nat := none
  /-- Steps taken since ACC_OPEN (R79). -/
  steps : Nat := 0
  /-- The age of the tile at the drain unit's input: the cell's slice count when its last slice entered (R137). -/
  lastSlice : Nat := 0
  /-- Row `i` holds its 64 elements of 32 bits, element 0 lowest. -/
  rows : Tab Nat := []
  stat : Tnstat := {}
  deriving DecidableEq, Repr

/-- One Cask image (R81, R85). -/
structure Cask where
  isOpen : Bool := false
  window : Nat := 0
  owner : Nat := 3
  an : Nat := 0
  pt : Nat := 0
  repro : Bool := false
  /-- The spill interval fixed for the image; none while SPILL alone opened it (R81). -/
  n : Option Nat := none
  ovf : Bool := false
  /-- Row `i` holds its 64 elements of 128 bits, element 0 lowest. -/
  rows : Tab Nat := []
  deriving DecidableEq, Repr

/-- What an accumulator name of a pass context stands for (R72, R74, R89). -/
inductive NameSt where
  | unbound
  | bound (inst : Nat)
  | absent
  deriving DecidableEq, Repr

/-- A binding instance, from its ACC_OPEN until its tile is FREE again. -/
structure Chain where
  inst : Nat
  ctx : Nat
  an : Nat
  /-- None until an ACC_OPEN with ANY is placed (R72, R129). -/
  pt : Option Nat
  deriving DecidableEq, Repr

/-- Tile task states of Table 5.2. -/
inductive TaskSt where
  | waiting | ready | running | stopped
  deriving DecidableEq, Repr

/-- A ring's position inside an OPA (R67). -/
structure Ring where
  slot : Nat
  len : Nat
  /-- Vectors run along columns when false (COL), along rows when true (ROW). -/
  row : Bool
  fmt : Nat
  /-- Place in the ring, and vector index within the current slot. -/
  pos : Nat := 0
  vec : Nat := 0
  entered : Bool := false
  deriving DecidableEq, Repr

/-- An OPA in flight (R65, R126). -/
structure Task where
  /-- The ENG field: 0 to 3, or 4 for ANY. -/
  eng : Nat
  a : Ring
  b : Ring
  k : Nat
  spillN : Nat
  cask : Nat
  win : Nat
  repro : Bool
  int : Bool
  step : Nat := 0
  /-- Steps of the current period taken: a period folds 2 steps at W8, 4 at W4, else 1 (R63, R88). -/
  phase : Nat := 0
  st : TaskSt := .waiting
  needSpill : Bool := false
  deriving DecidableEq, Repr

/-- A TFETCH or TSTORE in flight (R107 to R109). -/
structure Transfer where
  store : Bool
  slot : Nat
  cfg : Slot
  /-- The captured entry of the Tensor Descriptor Table (R223), as one number of 512 bits. -/
  ent : Nat
  coord : Nat
  /-- Next row to commit or to be accepted. -/
  row : Nat := 0
  /-- Rows whose data has arrived: row number and packed bits, scales above them; or a fault kind. -/
  arrived : Tab (Option (Nat × Nat)) := []
  faults : Tab Nat := []
  /-- The next row to request (R107). -/
  asked : Nat := 0
  /-- A TSTORE that stops after its next accepted row (R114). -/
  stopReq : Bool := false
  /-- The fault kind at which the transfer stopped, or ASYNC_STOP. -/
  stopped : Option Nat := none
  deriving DecidableEq, Repr

/-- A TLD or TST in flight (R157). -/
structure Move where
  store : Bool
  slot : Nat
  cfg : Slot
  col : Bool
  off : Nat
  pitch : Nat
  line : Nat := 0
  deriving DecidableEq, Repr

/-- An XFETCH in flight (R158). -/
structure Xfetch where
  ent : Nat
  coord : Nat
  off : Nat
  nt : Nat
  /-- Bytes granted so far, and gate transfers issued and arrived (R307). -/
  done : Nat := 0
  asked : Nat := 0
  got : Nat := 0
  fault : Option Nat := none
  deriving DecidableEq, Repr

/-- Destination of a DRAIN or EW (DKIND, R164): a slot, the store, or the store through a captured descriptor. -/
inductive Dest where
  | slot (t : Nat)
  | store (off : Nat)
  | desc (off : Nat) (ent : Nat)
  deriving DecidableEq, Repr

/-- What the drain unit has read of a tile or image (R83): rows, window, kind, and the image's LX_OVF. -/
structure Taken where
  /-- Rows of 64 elements: 128 bits each for an image, else 32 bits. -/
  rows : Tab Nat
  image : Bool
  int : Bool
  win : Nat
  ovf : Bool
  /-- The accumulator tile that was read, for TNSTAT. -/
  pt : Nat
  deriving DecidableEq, Repr

/-- A DRAIN in flight (R164 to R166). -/
structure DrainOp where
  dest : Dest
  fmt : Nat
  rnd : Nat
  sat : Bool
  fn : Nat
  fmode : Nat
  zslot : Nat
  /-- Destination configuration read at issue (R104). -/
  cfg : Slot
  zcfg : Slot
  draws : List Nat := []
  /-- The stream's generator before and after the draws (R45). -/
  srWas : W64 := 0
  srNow : W64 := 0
  taken : Option Taken := none
  deriving DecidableEq, Repr

/-- The fields of an EW word (Table 6.2). -/
structure EwArgs where
  dslot : Nat
  sa : Nat
  sb : Nat
  sc : Nat
  bc : Nat
  scalar : W64
  fmt : Nat
  rnd : Nat
  sat : Bool
  dkind : Nat
  dreg : Nat
  deriving DecidableEq, Repr

/-- An EW that has issued (R168): its operation, fields and destination, the configuration that it read at issue (R104), its
draws (R45), and its age at the drain unit's input (R137). -/
structure EwOp where
  op : Nat
  g : EwArgs
  d : Dest
  /-- Its store range, and its slots' configurations: those of SA, SB and SC, and the destination's. -/
  range : Option (Nat × Nat × Bool)
  a : Slot
  b : Slot
  c : Slot
  z : Slot
  draws : List Nat := []
  srWas : W64 := 0
  srNow : W64 := 0
  age : Nat
  /-- Lines of its result (Table 17.6). -/
  lines : Nat
  /-- The result in the output stage, which a grant keeps from the store: bytes by offset, and whether it is non-finite (R135). -/
  out : Option (List (Nat × List Byte) × Bool) := none
  deriving DecidableEq, Repr

/-- What an instruction in flight is. -/
inductive OpKind where
  | transfer (t : Transfer)
  | move (m : Move)
  | xfetch (x : Xfetch)
  | cask (store : Bool) (img : Nat) (off : Nat) (line : Nat)
  | tcfg (slot : Nat) (cfg : Slot)
  | task (t : Task)
  /-- An OPA with K = 0: its fields as a task of no steps (R69). -/
  | opaZero (t : Task)
  | spill (cask win : Nat)
  | resume
  | close
  | drain (d : DrainOp)
  | redAcc (wfmt tag win : Nat) (taken : Option Taken)
  | redSlot (slot wfmt tag : Nat) (cfg : Slot)
  | semrel (sem : Nat)
  | fence (ts cs ext : Bool)
  /-- An EW that waits for the drain unit, for its destination, or behind a parity error (R117, R135, R137). -/
  | ew (e : EwOp)
  deriving DecidableEq, Repr

/-- An instruction in flight, by its place in the global issue order (R121). -/
structure Op where
  id : Nat
  stream : Nat
  pc : Nat
  /-- Binding instance whose chain it has joined; none outside the AN chains. -/
  inst : Option Nat
  kind : OpKind
  /-- It has raised an exception behind the issue point and waits for RETRY or SKIP (R180). -/
  bad : Bool := false
  deriving DecidableEq, Repr

/-- A block group as a collector holds it: its slot and number, its eight vectors as packed elements, and a scale code per lane. -/
structure Group where
  slot : Nat
  group : Nat
  vecs : List Nat
  scales : Nat
  deriving DecidableEq, Repr

/-- One operand collector: the block groups held (R99). -/
structure Collector where
  cur : Option Group := none
  nxt : Option Group := none
  /-- The engine has taken a vector of the current group. -/
  begun : Bool := false
  /-- A parity retry is in progress on this slot (R117). -/
  retry : Option Nat := none
  deriving DecidableEq, Repr

/-- A reuse latch: its tag of slot, generation, orientation, vector and slice, and the vector held as packed elements with a
scale code per lane (R102). -/
structure Latch where
  slot : Nat
  gen : Nat
  row : Bool
  vec : Nat
  slice : Nat
  bits : Nat
  scales : Nat
  deriving DecidableEq, Repr

/-- One outer-product engine (03, 04). -/
structure Engine where
  /-- The tile task that the engine is running. -/
  cur : Option Nat := none
  collA : Collector := {}
  collB : Collector := {}
  latchA : Option Latch := none
  latchB : Option Latch := none
  /-- The tile in use has reached a spill point and the engine has not yet chosen (R82). -/
  turn : Bool := false
  creditF : Nat := 0
  creditB : Nat := 0
  creditU : Nat := 0
  /-- last[e] of R130: 0 F, 1 B, 2 U. -/
  last : Nat := 2
  deriving DecidableEq, Repr

/-- One programmable table (R173). -/
structure Dtab where
  xmin : W32 := 0
  sw : BitVec 8 := 0
  extrap : Bool := false
  valid : Bool := false
  coef : Tab W32 := []
  deriving DecidableEq, Repr

/-- The states of a function (R399). -/
inductive Fstate where
  | off | starting | on | draining
  deriving DecidableEq, Repr

/-- A function's enable state: EN as written, a pending enable or a held disable, and the last status (R399). -/
structure Func where
  en : Bool := false
  st : Fstate := .off
  pend : Bool := false
  held : Bool := false
  status : Nat := 0
  deriving DecidableEq, Repr

/-- SCHED_CTL (Table 5.3). -/
structure Sched where
  mode : Bool := false
  wF : Nat := 4
  wB : Nat := 4
  wU : Nat := 2
  p1 : Nat := 1
  p2 : Nat := 0
  p3 : Nat := 2
  deriving DecidableEq, Repr

/-- A grant that holds the cell's store (R134): its kind, cell-store offset and bytes, and what waits on its end. -/
structure Grant where
  kind : Nat
  off : Nat
  data : List Byte
  /-- The XFETCH that it serves. -/
  op : Option Nat
  /-- The route whose item it delivers, as the route record's index, with true for the item's last part. -/
  route : Option (Nat × Bool)
  /-- A mover has moved its block under the grant. -/
  used : Bool := false
  deriving DecidableEq, Repr

/-- A line of the mask cache (R256): its partition virtual address and its 64 bytes as a number. -/
structure MaskLine where
  va : Nat
  data : Nat
  deriving DecidableEq, Repr

/-- A translation cached by a cell or a gate (R304): virtual page, size in bits, and the leaf entry. -/
structure Tlb where
  part : Nat
  vpage : Nat
  bits : Nat
  pte : Nat
  deriving DecidableEq, Repr

/-- A register access that has reached a cell and waits, since a table write before it is held back (R17, R175): who asked, with 256
times the number of its broadcast; its offset and size; and for a write the bits covered and their value. -/
structure CellAccess where
  agent : Nat
  /-- The tag of the UCIe transaction that carried it (R344). -/
  tag : Option Nat := none
  write : Bool
  off : Nat
  size : Nat := 8
  mask : Nat := 0
  val : Nat := 0
  deriving DecidableEq, Repr

/-- One cell at one enabled site. -/
structure Cell where
  fn : Func := {}
  initBusy : Bool := false
  engEn : BitVec 4 := 0xF
  /-- The stop line of a failed sector controller holds the cell (R19). -/
  stopLine : Bool := false
  sched : Sched := {}
  minGap : BitVec 8 := 0
  /-- The MIN_GAP after a grant is running (R136). -/
  gapRun : Bool := false
  grant : Option Grant := none
  f_a : Stream := {}
  f_x : Stream := {}
  b_a : Stream := {}
  b_x : Stream := {}
  u_a : Stream := {}
  u_x : Stream := {}
  ctxNfF : Bool := false
  ctxNfB : Bool := false
  ctxNfU : Bool := false
  /-- Data queues by pass context * 8 + queue, oldest entry first (R122). -/
  queues : Tab (List W64) := []
  sems : Tab (BitVec 8) := []
  /-- Route releases still to be applied (R199): route record index and semaphore, oldest first. -/
  semWait : List (Nat × Nat) := []
  tregs : Tab Nat := []
  scales : Tab Byte := []
  slots : Tab Slot := []
  slotStat : Tab Tnstat := []
  accs : Tab Acc := []
  casks : Tab Cask := []
  names : Tab NameSt := []
  chains : List Chain := []
  deriving DecidableEq, Repr

/-- The rest of a cell: engines, instructions in flight, store, tables and caches. -/
structure CellMem where
  e0 : Engine := {}
  e1 : Engine := {}
  e2 : Engine := {}
  e3 : Engine := {}
  ops : List Op := []
  nextOp : Nat := 1
  /-- Slices entered so far, the clock of the drain unit's ages (R137). -/
  slices : Nat := 0
  /-- The DRAIN or EW whose result waits in the drain unit's output stage for the store (R135, R137). -/
  outHeld : Option Nat := none
  /-- Instructions whose internal access waited when a grant ended and has not been served since (R135). -/
  waits : List Nat := []
  perrRetried : BitVec 16 := 0
  perrFailed : BitVec 16 := 0
  /-- Register accesses that wait, in the order in which they reached the cell (R17). -/
  access : List CellAccess := []
  store : Tab Byte := []
  ftab : Dtab := {}
  dtab : Dtab := {}
  mask : List MaskLine := []
  tlb : List Tlb := []
  /-- Instruction regions: 64-bit words by region * 2048 + word (R208), region r for bill slot r. -/
  iregion : Tab W64 := []
  /-- Directory index to first word of each image placed in a region: region * 1024 + index (R208). -/
  imageAt : Tab (Nat × Nat) := []
  /-- The active Bill's region pointer (Table 7.16, phase 3). -/
  region : Option Nat := none
  deriving DecidableEq, Repr

/-- A whole cell: control state and memory state. -/
structure CellAll where
  c : Cell := {}
  m : CellMem := {}
  deriving DecidableEq, Repr

end Sys2Proof.Machine
end

