-- ==== Sys2Proof/Machine/DieState.lean ====
section
/-! DEFINITION. The state of one compute die's Floor, Bills, queues, descriptors, reduction links, gates and memory controllers. -/

namespace Sys2Proof.Machine

/-- BSLOT_ST.STATE (Table 7.9), in code order. -/
inductive BslotSt where
  | empty | loading | loaded | entering | active | leaving
  deriving DecidableEq, Repr

/-- One bill slot (R211): the held Bill's bytes stay readable as records, images and parameters. -/
structure BillSlot where
  st : BslotSt := .empty
  lastStatus : Nat := 0
  /-- The held Bill; empty when none is held. -/
  bill : List Byte := []
  meas : Nat := 0
  /-- Image measurements by directory index (R204). -/
  imgMeas : Tab Nat := []
  deriving DecidableEq, Repr

/-- A command by its queue (64 for FL_CMD) and CSEQ. -/
structure CmdRef where
  q : Nat
  cseq : Nat
  deriving DecidableEq, Repr

/-- An accepted load (R212). -/
structure Load where
  slot : Nat
  part : Nat
  va : Nat
  cmd : CmdRef
  running : Bool := false
  /-- Gate transfers issued and arrived (R307). -/
  asked : Nat := 0
  got : Nat := 0
  deriving DecidableEq, Repr

/-- A BILL_SELECT in hand: the slot or NONE, ABORT, and the command (R215, R218). -/
structure Select where
  target : Option Nat
  abort : Bool
  cmd : CmdRef
  deriving DecidableEq, Repr

/-- A switch in progress: the select, the outgoing slot and PHASE (Table 7.15: 0 waiting for a load, 1 to 6). -/
structure Switch where
  sel : Select
  out : Option Nat
  phase : Nat
  /-- Quiescence was needed after the acceptance (R217). -/
  waited : Bool := false
  /-- Sites of the cells that the outgoing Bill names, for phase 2. -/
  outCells : List Nat := []
  deriving DecidableEq, Repr

/-- The state of one partition on one die. -/
structure PartDie where
  active : Option Nat := none
  sw : Option Switch := none
  held : Option Select := none
  stepNf : Bool := false
  lastVerdict : Nat := 0
  nfSite : Nat := 0
  nfCtx : Nat := 0
  nfTime : W64 := 0
  barTmo : BitVec 16 := 0x3E8
  ptEn : Bool := false
  ptRoot : BitVec 28 := 0
  tlbVa : W32 := 0
  tlbCount : BitVec 16 := 0
  tlbBusy : Bool := false
  /-- The range of the invalidation in progress: VA in 64 KiB pages, and COUNT. -/
  tlbNow : Nat × Nat := (0, 0)
  tlbDone : Bool := false
  /-- STARTs written while BUSY, whose acknowledgements wait (R305): agents. -/
  tlbHeld : List Nat := []
  irqEn : Bool := false
  irqAddr : BitVec 46 := 0
  irqEiid : BitVec 11 := 0
  /-- STREAM_EVT0 to STREAM_EVT4 as one bit per physical site (Table 6.22). -/
  evt : Nat := 0
  deriving DecidableEq, Repr

/-- What travels on a route (R192). -/
inductive Item where
  | token (seq : W32) (arg : W64)
  /-- Header, the cell-store offset that its source's parameters give (R207), and its bytes. -/
  | tile (hdr : W64) (off : Nat) (data : List Byte)
  deriving DecidableEq, Repr

/-- The running state of a route of an enabled Bill (R191, R193). -/
structure Route where
  credits : Nat := 0
  /-- Items waiting at the source port, with the lines of the first already sent. -/
  outq : List Item := []
  sentLines : Nat := 0
  /-- Items whose last line is on the ring, oldest first. -/
  flight : List Item := []
  /-- For each line on the ring, oldest first, the ring links of its route that it has taken (R189). -/
  transit : List Nat := []
  /-- Items presented at the destination and not yet consumed, oldest first. -/
  inbox : List Item := []
  /-- Tokens consumed by the destination's micro-batches (R195). -/
  taken : Nat := 0
  /-- Consumed lines whose credits have not yet returned. -/
  owed : Nat := 0
  /-- Items delivered into a cell since the Bill was enabled (R207). -/
  delivered : Nat := 0
  /-- Lines of the newest item at a bridge port's output that have not yet crossed (R352). -/
  lacks : Nat := 0
  deriving DecidableEq, Repr

/-- One piece of a micro-batch still to do: a scheduled tile, a read-list entry or a relay candidate (R289, R310, R335). -/
structure Work where
  port : Nat := 0
  /-- The captured entry and the version base it resolved to (R223). -/
  ent : Nat := 0
  base : Nat := 0
  coord : Nat := 0
  /-- Cell-store offset of the next item. -/
  off : Nat := 0
  /-- Lines per item of a read list, or a candidate's number. -/
  n : Nat := 0
  /-- Next unit and units left of a read-list entry. -/
  unit : Nat := 0
  left : Nat := 0
  /-- Units of the entry, and those not yet delivered. -/
  whole : Nat := 0
  due : Nat := 0
  sink : Bool := false
  deriving DecidableEq, Repr

/-- The running state of a station, or of a cell's pass context (R195). -/
structure Station where
  begun : Nat := 0
  ended : Nat := 0
  /-- ARG and MB_SEQ of the micro-batch in progress. -/
  arg : W64 := 0
  seq : W32 := 0
  halted : Bool := false
  /-- Items handled in the micro-batch in progress. -/
  count : Nat := 0
  /-- The handle's captured entry for the micro-batch (R223). -/
  ent : Nat := 0
  /-- Votes given to a barrier's next micro-batches, oldest first: true for abandon (R292). -/
  votes : List Bool := []
  /-- LAST_ARG0 of a barrier (Table 10.10), and ARG[0] of each token that it has emitted, newest first. -/
  lastArg0 : Bool := false
  verdicts : List (Bool × Nat) := []
  work : List Work := []
  /-- Captured entries of a mover's ENTRY list. -/
  ents : List Nat := []
  /-- Data routes into the station whose items wait, in the order of presentation (R191). -/
  order : List Nat := []
  /-- Transfers of its memory gate that the station has issued and that have arrived, for the work before it (R307). -/
  asked : Nat := 0
  got : Nat := 0
  /-- Units that a flash reader has asked for, with the bytes of those read: 0 asked, 1 read, 2 failed (R335). -/
  units : List (Nat × Nat × List Byte) := []
  /-- Unit bytes that do not yet make an item. -/
  buf : List Byte := []
  /-- By input port of a chain or bridge port: items sent whole and not acknowledged, lines sent of the item after them, and
  lines of the oldest item acknowledged (R352, R360). -/
  sentItems : Tab Nat := []
  sentLines : Tab Nat := []
  ackLines : Tab Nat := []
  deriving DecidableEq, Repr

/-- A bucket place of a reduction link (R275, R279). -/
structure Place where
  tag : Nat
  fmt : Nat
  win : Nat
  hdr : Nat
  /-- Row sums: 64 elements of 32 bits (BF16, FP32) or 64 bits (LX64). -/
  rows : Tab Nat := []
  /-- Items counted by route index, and items presented and not yet folded. -/
  counts : Tab Nat := []
  waiting : List (Nat × Nat × List Byte) := []
  folded : Tab Nat := []
  fault : Bool := false
  /-- No item has been folded yet. -/
  first : Bool := true
  opened : Nat := 0
  /-- The time at which its last item so far was presented (R283). -/
  lastAt : Nat := 0
  /-- The link has faulted the bucket: its record is written and the step-level flag set (R276). -/
  faulted : Bool := false
  /-- The result has been put on its outputs, and the outputs that still have to send it (R278). -/
  emitted : Bool := false
  left : Nat := 0
  deriving DecidableEq, Repr

/-- One reduction link instance (R281, R285): its registers outlive the Bills. -/
structure Link where
  tmo : BitVec 16 := 0x3E8
  /-- The time of the last write of BKT_TMO (R283). -/
  tmoAt : Nat := 0
  headValid : Bool := false
  head : Nat := 0
  /-- The CLOSED bit of each tag value. -/
  closed : Nat := 0
  places : List Place := []
  stale : BitVec 16 := 0
  misrouted : BitVec 16 := 0
  faulted : BitVec 16 := 0
  discarded : BitVec 16 := 0
  deriving DecidableEq, Repr

/-- How far a started command has come. -/
inductive CmdPhase where
  | fresh
  | wait
  | done (status : Nat) (result : Nat)
  deriving DecidableEq, Repr

/-- A started command (R234): its 64 bytes as a number, progress and what it captured. -/
structure Started where
  cseq : Nat
  word : Nat
  phase : CmdPhase := .fresh
  /-- Entries or bytes done, or the RUN's MB_SEQ. -/
  prog : Nat := 0
  /-- Captured entry and version base (R223). -/
  ent : Nat := 0
  errlog : Bool := false
  /-- Entries that a DESC_FREE skipped (R240). -/
  skipped : Nat := 0
  /-- Gate transfers issued and arrived: of a COPY, or of the entry that a descriptor command handles (R307). -/
  asked : Nat := 0
  got : Nat := 0
  deriving DecidableEq, Repr

/-- A completion record that the ring has still to take (R246): its command, STATUS and RESULT; once it is written, its header. -/
structure RingRec where
  cmd : Started
  status : Nat
  result : Nat
  time : Nat
  written : Bool := false
  deriving DecidableEq, Repr

/-- One command queue (R249), also the form of the flash command aperture (R331). -/
structure Queue where
  fn : Func := {}
  irqEn : Bool := false
  halted : Bool := false
  cause : Nat := 0
  actIgnored : Bool := false
  free : Nat := 512
  accSeq : W32 := 0
  startSeq : W32 := 0
  dropped : W32 := 0
  logN : BitVec 4 := 0
  ringBase : BitVec 36 := 0
  irqAddr : BitVec 46 := 0
  irqEiid : BitVec 11 := 0
  /-- QRING and QIRQ in force since the last enable (R250). -/
  logNNow : Nat := 0
  ringNow : Nat := 0
  /-- The queue has been enabled: QRING gives a ring whose header is written (R246, R250). -/
  ringOn : Bool := false
  irqAddrNow : Nat := 0
  irqEiidNow : Nat := 0
  nextRseq : W32 := 1
  rseqLast : W32 := 0
  hdrDropped : W32 := 0
  /-- Records that wait for the ring, oldest first, and a header that is due. -/
  ringWait : List RingRec := []
  hdrDue : Bool := false
  offReported : Bool := false
  /-- Accepted commands that have not started, oldest first. -/
  entries : List Nat := []
  started : List Started := []
  /-- RUNs taken since the Bill was enabled (R194). -/
  runs : Nat := 0
  deriving DecidableEq, Repr

/-- A commit or abandon in progress (R261). -/
structure Commit where
  cmd : CmdRef
  abandon : Bool
  barrier : Nat
  /-- Writes captured before the hold: site and instruction, or queue + 1,000 and CSEQ. -/
  settle : List (Nat × Nat)
  /-- The vote has been given to the barrier, at this time. -/
  voted : Option Nat := none
  /-- The number of the micro-batch that the vote begins (R292); none where a switch discarded it. -/
  mb : Option Nat := none
  deriving DecidableEq, Repr

/-- One epoch group (R260). -/
structure Epoch where
  ver : W32 := 0
  commit : Option Commit := none
  deriving DecidableEq, Repr

/-- Who a gate transfer belongs to (R307, Table 11.14). -/
inductive Client where
  | fetchRow (site op row : Nat)
  | storeRow (site op row : Nat)
  | xfetchPiece (site op : Nat)
  | maskLine (site va : Nat)
  | station (slot station : Nat)
  | walk (site : Option Nat) (part va : Nat) (write : Bool)
  | command (q cseq : Nat)
  | loader
  /-- A trace record, by the HPA of its slot. -/
  | trace (hpa : Nat)
  deriving DecidableEq, Repr

/-- What has transfers to ask a memory gate for: an instruction of a cell, a held OPA's stream, a station, a COPY or descriptor
command, the Bill loader, or the trace unit (R307, R308). -/
inductive Want where
  | cell (site op : Nat)
  | mask (site stream : Nat)
  | station (slot station : Nat)
  | command (q cseq : Nat)
  | loader
  | trace
  deriving DecidableEq, Repr

/-- One outstanding transfer of a memory gate (R307). -/
structure Xfer where
  id : Nat
  level : Nat
  client : Client
  /-- The lines of the peer die's HBM that it crosses the bridge for, by HPA, and how many have not yet come back (R350). -/
  addrs : List Nat := []
  lines : Nat := 0
  /-- The time of its issue, in ns of the die's clock (R311). -/
  since : Nat := 0
  deriving DecidableEq, Repr

/-- One memory gate (R304, R311, R134). -/
structure Gate where
  memThr : BitVec 12 := 0x3E8
  peerThr : BitVec 16 := 0x2710
  tlb : List Tlb := []
  xfers : List Xfer := []
  nextXfer : Nat := 0
  /-- Who has transfers to ask for, in order of arrival, with the time of arrival (R308). -/
  wants : List (Want × Nat) := []
  /-- Requests for grants in order of arrival, the parts of a large one after each other (R134). -/
  reqs : List GrantReq := []
  /-- The site whose store the gate's grant holds. -/
  grantSite : Option Nat := none
  deriving DecidableEq, Repr

/-- MC_ST.STATE (Table 11.4), in code order. -/
inductive McState where
  | off | training | on | rateChange | failed
  deriving DecidableEq, Repr

/-- One memory controller (R299). -/
structure Mc where
  patrolEn : Bool := true
  patrolH : BitVec 8 := 0x18
  st : McState := .off
  rate : Bool := false
  rfmSeen : Bool := false
  odeccSev : Bool := false
  corrected : BitVec 16 := 0
  odecc : BitVec 16 := 0
  uncorr : BitVec 16 := 0
  deriving DecidableEq, Repr

/-- One region register (Table 11.6). -/
structure Region where
  base : BitVec 10 := 0
  limit : BitVec 10 := 0
  part : BitVec 4 := 0
  host : Bool := false
  valid : Bool := false
  deriving DecidableEq, Repr

/-- One UCIe module of a compute die (R346). -/
structure Ucie where
  st : BitVec 2 := 0
  txRep : BitVec 3 := 0
  rxRep : BitVec 3 := 0
  servedBy : BitVec 2 := 0
  retries : BitVec 16 := 0
  deriving DecidableEq, Repr

/-- A line on a bridge segment direction (R347, R351): its channel, line sequence, bytes, and for FLOOR its slot, station and
input port. -/
structure BrgLine where
  vc : Nat
  seq : Nat
  data : List Byte
  src : Option (Nat × Nat × Nat) := none
  /-- The gate and the transfer of a memory line (R350). -/
  mem : Option (Nat × Nat) := none
  /-- What the check wires carry (R351, R364). -/
  check : Nat := 0
  /-- The line kind, 0 of no item, 1 of a token, 2 of a tile item, and the item header that the first line of a tile item carries (R192,
  R347). -/
  kind : Nat := 0
  header : Nat := 0
  deriving DecidableEq, Repr

/-- BRG_SEG_ST.STATE (Table 13.7), in code order. -/
inductive SegState where
  | down | up | failed
  deriving DecidableEq, Repr

/-- One bridge segment, in the direction that leaves this die (R347 to R353). -/
structure Seg where
  st : SegState := .down
  subst : BitVec 4 := 0
  retries : BitVec 16 := 0
  /-- Lines offered and not yet acknowledged, oldest first, at most four. -/
  flight : List BrgLine := []
  /-- Lines of a failed segment that this one sends again (R351). -/
  resend : List BrgLine := []
  nextSeq : Nat := 0
  tries : Nat := 0
  credReq : Nat := 64
  credRsp : Nat := 128
  credCtl : Nat := 4
  /-- FLOOR credits by port pair (Table 13.6). -/
  credFloor : Tab Nat := []
  /-- Requests and responses of peer-die transfers that wait to be sent, oldest first, and the response lines reserved (R349). -/
  waitReq : List BrgLine := []
  waitRsp : List BrgLine := []
  rspDue : Nat := 0
  /-- Of MEM_REQ and FLOOR, MEM_REQ sent last (R349). -/
  lastReq : Bool := false
  deriving DecidableEq, Repr

/-- A request sent to another module's HBM and its answer (R361). -/
structure PeerTxn where
  tag : Nat
  hpa : Nat
  len : Nat
  write : Bool
  /-- None while waiting; a fault kind, or the data. -/
  done : Option (Nat × List Byte) := none
  deriving DecidableEq, Repr

/-- A sequenced frame held until acknowledged. `rt` is 1 plus the key of the route whose item's lines it carries, else 0; `last` is
set on the frame that ends the item (R360). -/
structure Held where
  f : Frame
  rt : Nat := 0
  lines : Nat := 0
  last : Bool := false
  /-- When it was last sent, in ns of the die's clock (R358). -/
  sentAt : Nat := 0
  deriving DecidableEq, Repr

/-- One entry of the peer table (R357 to R361). -/
structure Peer where
  mac : BitVec 48 := 0
  port : BitVec 4 := 0
  part : BitVec 4 := 0
  farPart : BitVec 4 := 0
  memEn : Bool := false
  valid : Bool := false
  farId : W32 := 0
  failed : Bool := false
  txNext : W32 := 0
  rxExpect : W32 := 0
  /-- Sequenced frames sent and not acknowledged, oldest first. -/
  unacked : List Held := []
  tries : Nat := 0
  /-- An accepted frame waits for an acknowledgement. -/
  ackDue : Bool := false
  nackAt : Option Nat := none
  /-- Most advanced CREDIT totals received, and lines sent, by far output (R360). -/
  credTotal : Tab Nat := []
  linesSent : Tab Nat := []
  /-- Lines freed on this die's outputs that this peer feeds, and the totals last sent. -/
  freed : Tab Nat := []
  freedSent : Tab Nat := []
  /-- Frames of an item being received, by CHAN: header and bytes so far. -/
  partial_ : Tab (Nat × List Byte) := []
  txns : List PeerTxn := []
  nextTag : Nat := 0
  /-- Requests of the peer that wait while the memory controllers change their rate, oldest first (R300). -/
  reqHeld : List Frame := []
  deriving DecidableEq, Repr

/-- Chain-port registers and values in force (R370). -/
structure ChainRegs where
  cfgMode : BitVec 4 := 0
  cfgIface : BitVec 4 := 0
  mac : Tab (BitVec 48) := []
  id : W32 := 0
  etype : BitVec 16 := 0x88B5
  cvsel : BitVec 2 := 0
  rto : BitVec 16 := 0x14
  markDst : Tab (BitVec 48) := []
  fns : Tab Func := []
  /-- Values in force per port since its last start: MODE, MAC, ID, ETYPE, CVSEL. -/
  inForce : Tab (Bool × Nat × Nat × Nat × Nat) := []
  linkUp : Nat := 0
  /-- Frames dropped and counted, by port. -/
  dropped : Tab Nat := []
  deriving DecidableEq, Repr

/-- An error log (R459, R460) and SRAM_ECC of a die. -/
structure Elog where
  wr : W32 := 0
  rd : W32 := 0
  lost : W32 := 0
  irqEn : Bool := false
  irqAddr : BitVec 46 := 0
  irqEiid : BitVec 11 := 0
  /-- Records as numbers of 512 bits, by slot. -/
  recs : Tab Nat := []
  sramCorr : W32 := 0
  sramUncorr : BitVec 16 := 0
  deriving DecidableEq, Repr

/-- One counter (R438): COUNT, OVF and EXT. -/
structure Counter where
  count : BitVec 48 := 0
  ovf : Bool := false
  ext : BitVec 15 := 0
  deriving DecidableEq, Repr

/-- One counter set: CNT_CTL, its counters, and the held view (R438, R439). -/
structure CntSet where
  en : Bool := true
  hold : Bool := false
  ovfIrq : Bool := true
  lost : Bool := false
  counters : Tab Counter := []
  view : Tab Counter := []
  deriving DecidableEq, Repr

/-- The trace unit of a die (Tables 17.11 to 17.16): its registers field by field, and what R450 and R451 keep beside them. -/
structure Trace where
  en : Bool := false
  mode : BitVec 2 := 0
  part : BitVec 4 := 0
  status : BitVec 8 := 0
  groups : BitVec 16 := 0xFFFF
  kinds : BitVec 16 := 0xFFFE
  log2sz : BitVec 5 := 0
  base : BitVec 24 := 0
  pre : BitVec 27 := 0
  post : BitVec 27 := 0
  tkind : BitVec 8 := 0
  tclass : BitVec 8 := 0
  tindex : BitVec 16 := 0xFFFF
  onError : Bool := false
  idx : BitVec 27 := 0
  wrapped : Bool := false
  st : BitVec 2 := 0
  trigIdx : BitVec 27 := 0
  lost : W32 := 0
  /-- SEQ of the next record. -/
  seq : BitVec 16 := 0
  /-- MODE, LOG2SZ and BASE in force since the enable. -/
  modeNow : BitVec 2 := 0
  sizeNow : BitVec 5 := 0
  baseNow : BitVec 24 := 0
  /-- Records lost since the last one written, the time of the first, and records left to write after a trigger. -/
  gap : Nat := 0
  gapTime : Nat := 0
  after : Nat := 0
  /-- Trigger causes not yet taken (bit 0 a record match, bit 1 software), and WR_SEQ of the error log when last looked at. -/
  causes : Nat := 0
  errWr : W32 := 0
  /-- Records in their slots, by HPA, that the memory gates have still to write, oldest first (R449). -/
  waiting : List (Nat × List Byte) := []
  deriving DecidableEq, Repr

end Sys2Proof.Machine
end

