-- ==== Sys2Proof/Machine/HostState.lean ====
section
/-! DEFINITION. The state of the host die and the fused, clock and observation state of the compute dies. -/

namespace Sys2Proof.Machine

/-- Fuse-map state of a compute die (R14, R19, Tables 19.10 and 19.11). -/
structure DieFuse where
  /-- Site-enable mask of each group, 17 bits; fused (assumption 2). -/
  en : Tab (BitVec 17) := []
  absent : Tab (BitVec 17) := []
  failed : BitVec 16 := 0
  /-- Timebase of each sector controller's last answer (R19). -/
  lastAnswer : Tab Nat := []
  deriving DecidableEq, Repr

/-- Clock enables, governor, thermal and timebase state of a compute die (spec/14_clocks_power.md). -/
structure DieClk where
  /-- Host rails and compute rails reach the die, and its reset is released (R391, R405). -/
  running : Bool := false
  /-- Stage of Table 15.1 that the die passes through alone after its reset: 4 or 5; 0 outside (R405). -/
  stage : Nat := 0
  enMc : BitVec 10 := 0
  enUcie : BitVec 4 := 0
  enCp : BitVec 4 := 0
  enDm : BitVec 3 := 0
  rateCap : BitVec 12 := 0
  vdd : BitVec 8 := 0
  rate : BitVec 12 := 0
  limiter : BitVec 2 := 0
  share : BitVec 16 := 0
  /-- Calibrated minimum rates at the seven voltages of Table 3.13, in M beats/s (R379). -/
  govMin : List Nat := [680, 780, 1140, 1370, 1600, 1780, 2020]
  /-- The last average of module input power that the governor used, in W, and the power voltage in 5 mV steps (R378). -/
  power : Nat := 0
  /-- Module input current in mA, and the beat monitors of the groups in M beats/s (R378, R380). -/
  current : Nat := 0
  monitors : List Nat := []
  powerV : Nat := 70
  /-- Duty of the power throttle, and whether the thermal limit acts (R378, R383). -/
  duty2 : Nat := 15
  limiting : Bool := false
  /-- Throttle ceiling in 5 mV steps, samples since it last moved, and the highest stack report. -/
  thermCeil : Nat := 40
  thermTick : Nat := 0
  stackT : Int := 0
  maxT : BitVec 8 := 0
  maxSensor : BitVec 4 := 0
  throttle : Bool := false
  limit : Bool := false
  tb : Nat := 0
  measPort : BitVec 4 := 0
  measDone : Bool := false
  measTx : Bool := false
  measRx : Bool := false
  meas : Tab W64 := []
  deriving DecidableEq, Repr

/-- Counters, snapshot and trace of a compute die (spec/17_observation.md). -/
structure DieObs where
  snapTime : W64 := 0
  snapArmed : Bool := false
  snapDone : Bool := false
  /-- Counter sets by kind * 65,536 + index (chapter 17's order). -/
  sets : Tab CntSet := []
  trace : Trace := {}
  deriving DecidableEq, Repr

/-- Identity and fuses (R421, R482); fused values are DESIGN CHOICE (assumption 2). -/
structure HdIdent where
  grade : BitVec 2 := 0
  hdRev : BitVec 4 := 0
  cd0Rev : BitVec 4 := 0
  cd1Rev : BitVec 4 := 0
  serial : W64 := 0
  vendorId : BitVec 16 := 0
  pfWin : W32 := 0x02000000
  uds : BitVec 256 := 0
  keyDigest : Tab (BitVec 512) := []
  keyRevoked : BitVec 4 := 0
  fwSvn : Nat := 0
  debugDisable : Bool := false
  deriving DecidableEq, Repr

/-- The 48 V input as the input comparators see it (R487, R492). -/
inductive Pwr48 where
  | absent | low | inRange | high
  deriving DecidableEq, Repr

/-- Pins and rails (spec/20_module_hardware.md); unpowered at reset (assumption 3). -/
structure HdPower where
  modEn : Bool := false
  pwr48 : Pwr48 := .absent
  pwrgd : Bool := false
  /-- Straps as the pins hold them, and as latched when MOD_EN rose. -/
  rolePin : Bool := false
  addrPin : BitVec 2 := 0
  role : Bool := false
  addr : BitVec 2 := 0
  perstN : Bool := false
  trstN : Bool := false
  hostRails : Bool := false
  computeRails : Bool := false
  tripLatch : Bool := false
  /-- A boot that waits for PWR48_IN (R492), and a turn-off with a restart due (R487). -/
  bootPending : Bool := false
  restartDue : Bool := false
  deriving DecidableEq, Repr

/-- Boot and reset registers (spec/15_bringup.md). -/
structure HdBoot where
  stage : BitVec 4 := 1
  reason : BitVec 4 := 0
  copy : Bool := false
  calBad : Bool := false
  bootDie : Bool := false
  cause : BitVec 3 := 0
  degraded : BitVec 16 := 0
  count : BitVec 16 := 0
  busyCd0 : Bool := false
  busyCd1 : Bool := false
  refused : Bool := false
  prPart : BitVec 4 := 0
  prBusy : Bool := false
  prDone : Bool := false
  prHeld : List Nat := []
  calSave : Bool := false
  calBusy : Bool := false
  calDone : Bool := false
  calResult : BitVec 3 := 0
  calSrc : BitVec 36 := 0
  /-- The bridge has still to retrain (R351). -/
  brgWait : Bool := false
  /-- Application cores that failed their self-test, and whether PCIe failed to train (R396). -/
  badCores : Nat := 0
  badPcie : Bool := false
  /-- A COMMIT waits to read its set (R300, R412). -/
  calPend : Bool := false
  deriving DecidableEq, Repr

/-- One security service channel (R420). -/
structure SecChan where
  arg : BitVec 42 := 0
  op : Nat := 0
  /-- The argument block that a management command carried, in place of one in memory. -/
  block : Option (List Byte) := none
  busy : Bool := false
  done : Bool := false
  rejected : Bool := false
  status : BitVec 8 := 0
  result : W32 := 0
  /-- The management request that started it, by OP and argument block, and the report that its result holds. -/
  asked : Option (Nat × List Byte) := none
  report : List Byte := []
  deriving DecidableEq, Repr

/-- One measurement list entry or other measured load (R424). -/
structure Meas where
  index : Nat
  vers : Nat
  doff : Nat
  len : Nat
  digest : Nat
  deriving DecidableEq, Repr

/-- The partition states of PART_SEC_ST (R419), in code order. -/
inductive PartState where
  | absent | clean | active | scrubbing
  deriving DecidableEq, Repr

/-- Security state of one partition (R419, R424, R431). -/
structure PartSec where
  st : PartState := .absent
  conf : Bool := false
  resetting : Bool := false
  /-- Dies in reset that held its units (R419). -/
  diesReset : Nat := 0
  ovf0 : Bool := false
  ovf1 : Bool := false
  meas0 : List Meas := []
  meas1 : List Meas := []
  /-- The tables that CONF_SET supplied: their digest, PT_DST and PT_LEN. -/
  ptMeas : Option (Nat × Nat × Nat) := none
  refusedOnce : Bool := false
  deriving DecidableEq, Repr

/-- Die section of a partition record of the layout image (Table 16.3). -/
structure LayoutDie where
  cells : Nat := 0
  queues : Nat := 0
  slots : Nat := 0
  gateCtx : Nat := 0
  gateGroups : Nat := 0
  tdtBase : Nat := 0
  tdtCount : Nat := 0
  egBase : Nat := 0
  egCount : Nat := 0
  rl : Nat := 0
  ds : Nat := 0
  bar : Nat := 0
  wr : Nat := 0
  cm : Nat := 0
  fr : Nat := 0
  cp : Nat := 0
  bp : Nat := 0
  peerBase : Nat := 0
  peerCount : Nat := 0
  deriving DecidableEq, Repr

/-- Partition record of the layout in force (Table 16.2). -/
structure LayoutRec where
  exists_ : Bool := false
  die0 : LayoutDie := {}
  die1 : LayoutDie := {}
  deriving DecidableEq, Repr

/-- A scrub in progress: the partition, none for the unassigned granules; TRIM_FLASH; and the granules of each die still to
be zero-written (R427). -/
structure Scrub where
  part : Option Nat
  trim : Bool
  left0 : List Nat
  left1 : List Nat
  deriving DecidableEq, Repr

/-- Security core state (spec/16_security.md). -/
structure HdSec where
  ch0 : SecChan := {}
  ch1 : SecChan := {}
  parts : Tab PartSec := []
  layout : Tab LayoutRec := []
  nonce : W64 := 0
  debugScope : BitVec 3 := 0
  scrub : Option Scrub := none
  /-- The die whose live apply window is open, plus 1 (R436). -/
  applying : Nat := 0
  deriving DecidableEq, Repr

/-- Clocks, power and time of the host die (spec/14_clocks_power.md). -/
structure HdClk where
  src : BitVec 2 := 0
  xtalGood : Bool := false
  xtalLost : Bool := false
  /-- Y1 was not declared good within 20 ms (R372). -/
  noXtal : Bool := false
  /-- Island frequencies in kHz by island number; ramps in progress as start, end and steps done; and changes held, plus 1. -/
  freq : Tab Nat := []
  ramps : Tab (Nat × Nat × Nat) := []
  rampHeld : Tab Nat := []
  enHd : BitVec 28 := 0
  trimEn : Bool := false
  trimRef : BitVec 2 := 0
  trimCode : BitVec 12 := 0x800
  locked : Bool := false
  refLost : Bool := false
  trimErr : BitVec 16 := 0
  trimGood : Nat := 0
  trimBad : Nat := 0
  /-- PWR_CTL as written, the mode in force, the mode that a change leads to, and a held request (R382). -/
  modeCtl : BitVec 2 := 0
  mode : BitVec 2 := 0
  modeReq : BitVec 2 := 0
  changing : Bool := false
  heldMode : Option (BitVec 2) := none
  /-- The power term is held until this timebase. -/
  powerHeld : Nat := 0
  /-- Steps of 300 MHz by which the throttle holds HD.CPU down, samples since, and whether the limit acts (R383). -/
  cpuDown : Nat := 0
  thermTick : Nat := 0
  limiting : Bool := false
  maxT : BitVec 8 := 0
  maxSensor : BitVec 4 := 0
  throttle : Bool := false
  limit : Bool := false
  telemetry : Tab Byte := []
  /-- Thermal offsets in force, in 1/16 °C, by sensor of CD0, CD1 and the host die; none are zero (R410, R411). -/
  thermOff : List Int := []
  deriving DecidableEq, Repr

/-- The timebase of the host die and its synchronisation (R385 to R389). -/
structure HdTime where
  tb : Nat := 0
  mode : BitVec 2 := 0
  ref10m : Bool := false
  die : Bool := false
  port : BitVec 4 := 0
  peer : BitVec 12 := 0
  delay : BitVec 16 := 0
  ppsTod : W64 := 0
  locked : Bool := false
  holdover : Bool := false
  stepped : Bool := false
  offset : BitVec 16 := 0
  step : W32 := 0
  first : Bool := true
  good : Nat := 0
  bad : Nat := 0
  lastRef : Nat := 0
  /-- Slew still to be applied, in hundredths of a nanosecond (R388). -/
  slew : Int := 0
  deriving DecidableEq, Repr

/-- A NAND stripe: its unit, bytes and check value (R322, R336). -/
structure Stripe where
  unit : Nat
  data : List Byte
  check : Nat
  deriving DecidableEq, Repr

/-- Who asked for a run of units: the reader of a die, slot and station, or a started command (R332, R337). -/
inductive ReadBy where
  | reader (d : DieId) (slot station : Nat)
  | cmd (d : DieId) (q cseq : Nat)
  deriving DecidableEq, Repr

/-- A read of units that waits at their packages (R332). -/
structure FlRun where
  first : Nat
  count : Nat
  by_ : ReadBy
  deriving DecidableEq, Repr

/-- A move under way: its unit, the place that it programs, and the map entry that it captured (R328). -/
structure FlMove where
  unit : Nat
  place : Nat
  ent : Nat
  deriving DecidableEq, Repr

/-- The flash store (spec/12_flash.md). -/
structure HdFlash where
  fn : Func := {}
  irqEn : Bool := false
  lateThr : BitVec 8 := 0xC8
  mapReady : Bool := false
  mapBase : BitVec 28 := 0
  mapNow : Nat := 0
  health : BitVec 3 := 0
  failedPkg : BitVec 16 := 0
  spareMin : BitVec 7 := 0
  peMax : BitVec 16 := 0
  q : Queue := { free := 256 }
  ext : Tab W64 := []
  /-- Stripes by package, die, block and page packed into one number. -/
  nand : Tab (Option Stripe) := []
  /-- The durable copy of the map, and the map entries not yet durable, each plus 1 (R324). -/
  durable : Tab Nat := []
  journal : Tab Nat := []
  /-- Retired blocks: package, die and block packed as a stripe's key with page 0 (R327). -/
  retired : List Nat := []
  /-- Factory marks have been read (R327). -/
  marksRead : Bool := false
  /-- Erases of each block, and its reads since the last (R325, R326). -/
  erases : Tab Nat := []
  reads : Tab Nat := []
  /-- Blocks whose units are due to move (R326). -/
  refresh : List Nat := []
  /-- The time of the last scan since the enable (R326). -/
  scanned : Option Nat := none
  /-- Reads of levels 1 to 3, oldest first (R332, R337). -/
  queue : List FlRun := []
  /-- Units in their read retries, with the captured map entry plus 1 (R324, R338). -/
  retries : Tab Nat := []
  /-- What the retries of a unit gave the command that waits for it: 1 and the bytes, 2 uncorrectable, 3 a failed check (R324, R338). -/
  decoded : Tab (Nat × List Byte) := []
  /-- Moves under way (R328). -/
  moves : List FlMove := []
  /-- The controller's buffer of a unit whose program failed, by the WRITE's CSEQ (R327). -/
  wbuf : Tab (List Byte) := []
  /-- Dies whose program or erase is suspended: package * 8 + die (R332). -/
  suspended : List Nat := []
  /-- The two copies of the boot region. -/
  boot0 : Tab Byte := []
  boot1 : Tab Byte := []
  /-- Pages of the boot region that fail and have not been rewritten (R329). -/
  bootBad : List BootPage := []
  /-- Spare blocks used in each copy, and the reads of each block since its erase, by copy * 1,024 + block (R326, R329). -/
  bootSpare : Tab Nat := []
  bootReads : Tab Nat := []
  /-- Writes of the first copy that the second has not yet taken (R329). -/
  bootLater : List (Nat × List Byte) := []
  deriving DecidableEq, Repr

/-- A core's gather buffer for command memory (R345): block address, byte mask and bytes. -/
structure Gather where
  block : Option Nat := none
  mask : Nat := 0
  data : Nat := 0
  deriving DecidableEq, Repr

/-- TAPs, boundary cells, management endpoint and gather buffers (R345, R367, R369). -/
structure HdLink where
  gather : Tab Gather := []
  eid : BitVec 8 := 0
  ir : Tab (BitVec 8) := []
  boundary : BitVec 8 := 0
  boundaryOut : BitVec 8 := 0
  pcieTraining : Bool := false
  /-- The link's width in lanes and its speed, as its training found them (R23). -/
  pcieWidth : Nat := 0
  pcieSpeed : Nat := 0
  deriving DecidableEq, Repr

/-- The host die. -/
structure HostDie where
  ident : HdIdent := {}
  power : HdPower := {}
  boot : HdBoot := {}
  sec : HdSec := {}
  clk : HdClk := {}
  time : HdTime := {}
  flash : HdFlash := {}
  link : HdLink := {}
  elog : Elog := {}
  deriving DecidableEq, Repr

end Sys2Proof.Machine
end

