-- ==== Sys2Proof/Machine/State.lean ====
section
/-! DEFINITION. The state of the module: the waiting commands, three dies, HBM, flash and the record of what left the module. -/

namespace Sys2Proof.Machine

/-- The model stops with a fault for nothing: every fault of the manual is state. The type is closed and has this one
constructor; no meaning raises it (safe). -/
inductive Fault where
  | none
  deriving DecidableEq, Repr

/-- Why a step has no meaning. -/
inductive Refusal where
  /-- Raised by an arm of exec whose command has no meaning yet; safe, since the machine only stops. -/
  | notModelled (mnemonic : String)
  /-- Raised by HOLTUTH_DEBUG while debug is authorised: the spec names no effect of TAP codes 0x10 to 0x1F (R369); safe. -/
  | debugUnspecified
  deriving DecidableEq, Repr

/-- One compute die. -/
structure Die where
  fuse : DieFuse := {}
  clk : DieClk := {}
  obs : DieObs := {}
  ilvEn : BitVec 10 := 0
  ilvValid : Bool := false
  rgns : Tab Region := []
  scrubMap : Nat := 0
  ucie : Tab Ucie := []
  segs : Tab Seg := []
  chain : ChainRegs := {}
  peers : Tab Peer := []
  cells : Tab CellAll := []
  queues : Tab Queue := []
  slots : Tab BillSlot := []
  loads : List Load := []
  parts : Tab PartDie := []
  epochs : Tab Epoch := []
  /-- Tensor Descriptor Table entries as numbers of 512 bits. -/
  tdt : Tab Nat := []
  gates : Tab Gate := []
  mcs : Tab Mc := []
  /-- The lines of the die's HBM in their homes, least recently used first, and those of them that are dirty, by HPA / 256 (R306). -/
  cacheLines : List Nat := []
  cacheDirty : List Nat := []
  cacheLost : List Nat := []
  links : Tab Link := []
  /-- Station and route runtime by slot * 65,536 + record index * 4 + context, and slot * 65,536 + record index. -/
  stations : Tab Station := []
  routes : Tab Route := []
  /-- The route that each ring link served last, by node * 2 + direction, as 1 + index * 8 + slot (R191). -/
  ringLast : Tab Nat := []
  elog : Elog := {}
  dmBcast : Tab (BitVec 17) := []
  deriving DecidableEq, Repr

/-- What the module sends out or answers, newest first: the model's own record (assumption 12). -/
inductive Out where
  /-- The answer to an agent's register or memory read. -/
  | readData (agent : Nat) (value : W64)
  | memData (agent : Nat) (data : List Byte)
  /-- A write's acknowledgement. -/
  | ack (agent : Nat)
  | busError (agent : Nat)
  | uncorr (agent : Nat)
  /-- A UCIe completion: die, tag and STATUS. -/
  | cpl (die : Nat) (tag : Nat) (status : Nat) (data : List Byte)
  /-- A 32-bit message interrupt write: address and identity. -/
  | irq (addr : Nat) (eiid : Nat)
  | frame (die : Nat) (port : Nat) (f : Frame)
  | mgmt (iface : Nat) (code : Nat) (status : Nat) (body : List Byte) (check : Nat)
  | tap (index : Nat) (bits : Nat)
  /-- The counter-overflow message to the die manager: die, set and counter (R440). -/
  | overflow (die : Nat) (set : Nat) (n : Nat)
  | pin (name : String) (level : Bool)
  deriving DecidableEq, Repr

/-- The whole module. -/
structure State where
  /-- Commands that wait, first in, first out. -/
  pending : List Instr := []
  /-- Accesses from outside the gates that wait, oldest first: for the change of data rate of a die's HBM to end (R300), or, with no
  die, for another module's answer (R361). -/
  held : List (Option DieId × HostAsk) := []
  hd : HostDie := {}
  cd0 : Die := {}
  cd1 : Die := {}
  /-- HBM contents by HPA; an unlisted address reads as zero (assumption 11). -/
  hbm : List Host.Cell := []
  /-- 32-byte accesses that are uncorrectable, by HPA / 32 (R296). -/
  hbmBad : List Nat := []
  out : List Out := []
  /-- Messages pending in the host die's IMSIC files: address and identity, no repeats. -/
  imsic : List (Nat × Nat) := []
  /-- Draws of free values so far (assumption 13). -/
  fresh : Nat := 0
  deriving DecidableEq, Repr

/-- The module right after power-on, before MOD_EN rises: every register at its Reset column. -/
def State.reset : State := {}

end Sys2Proof.Machine
end

