-- ==== Sys2Proof/Machine/Tab.lean ====
section
/-! DEFINITION. Sparse tables in one canonical form: strictly rising keys, no entry equal to the default. -/

namespace Sys2Proof.Machine

/-- The entry at `k`; an unlisted key reads as the default `d`. -/
def tabGet {α : Type} (d : α) : Tab α → Nat → α
  | [], _ => d
  | (a, v) :: r, k => if a = k then v else tabGet d r k

/-- Writing the default removes the entry, so equal tables are equal data. -/
def tabSet {α : Type} [DecidableEq α] (d : α) : Tab α → Nat → α → Tab α
  | [], k, v => if v = d then [] else [(k, v)]
  | (a, x) :: r, k, v =>
    if k < a then (if v = d then (a, x) :: r else (k, v) :: (a, x) :: r)
    else if k = a then (if v = d then r else (a, v) :: r)
    else (a, x) :: tabSet d r k v

/-- Every key lies at or above `n`. -/
def tabAbove {α : Type} (n : Nat) : Tab α → Bool
  | [] => true
  | (a, _) :: r => decide (n ≤ a) && tabAbove n r

/-- The canonical form. -/
def tabWf {α : Type} [DecidableEq α] (d : α) : Tab α → Bool
  | [] => true
  | (a, v) :: r => decide (v ≠ d) && tabAbove (a + 1) r && tabWf d r

/-- The entries whose keys a test keeps. -/
def tabKeep {α : Type} (p : Nat → Bool) : Tab α → Tab α
  | [] => []
  | (a, v) :: r => if p a then (a, v) :: tabKeep p r else tabKeep p r

/-- Every entry changed by a function that keeps the default. -/
def tabMap {α : Type} [DecidableEq α] (d : α) (f : α → α) : Tab α → Tab α
  | [] => []
  | (a, v) :: r => if f v = d then tabMap d f r else (a, f v) :: tabMap d f r

/-- `n` consecutive entries from `k`. -/
def tabRead {α : Type} (d : α) (t : Tab α) (k : Nat) : Nat → List α
  | 0 => []
  | n + 1 => tabGet d t k :: tabRead d t (k + 1) n

/-- Consecutive entries written from `k`. -/
def tabWrite {α : Type} [DecidableEq α] (d : α) (t : Tab α) (k : Nat) : List α → Tab α
  | [] => t
  | v :: vs => tabWrite d (tabSet d t k v) (k + 1) vs

end Sys2Proof.Machine
end

