-- ==== Sys2Proof/Machine/Ops.lean ====
section
/-! DEFINITION. Named operations over the state: dies, cells, tables, the layout, error records, interrupts and free values. -/

namespace Sys2Proof.Machine

/-- A step's outcome. -/
abbrev Res := Host.Outcome State Fault Refusal

/-- The number of a die: 0 for CD0, 1 for CD1. -/
def dieNum : DieId → Nat
  | .cd0 => 0
  | .cd1 => 1

def dieOfNum (n : Nat) : DieId := if n = 0 then .cd0 else .cd1

def otherDie : DieId → DieId
  | .cd0 => .cd1
  | .cd1 => .cd0

def getDie (s : State) : DieId → Die
  | .cd0 => s.cd0
  | .cd1 => s.cd1

def setDie (s : State) (d : DieId) (x : Die) : State :=
  match d with
  | .cd0 => { s with cd0 := x }
  | .cd1 => { s with cd1 := x }

def modDie (s : State) (d : DieId) (f : Die → Die) : State := setDie s d (f (getDie s d))

/-! ### Cells -/

def getCell (s : State) (c : CellLoc) : CellAll := tabGet {} (getDie s c.die).cells c.site

def setCell (s : State) (c : CellLoc) (x : CellAll) : State :=
  modDie s c.die (fun d => { d with cells := tabSet {} d.cells c.site x })

def modCell (s : State) (c : CellLoc) (f : CellAll → CellAll) : State := setCell s c (f (getCell s c))

/-- Changes the control state of a cell. -/
def modC (s : State) (c : CellLoc) (f : Cell → Cell) : State := modCell s c (fun x => { x with c := f x.c })

/-- Changes the memory state of a cell. -/
def modM (s : State) (c : CellLoc) (f : CellMem → CellMem) : State := modCell s c (fun x => { x with m := f x.m })

/-- The stream numbered as in R121; other numbers name none and read as an idle stream. -/
def streamOf (c : Cell) : Nat → Stream
  | 0 => c.f_a
  | 1 => c.f_x
  | 2 => c.b_a
  | 3 => c.b_x
  | 4 => c.u_a
  | 5 => c.u_x
  | _ => {}

def setStreamOf (c : Cell) (n : Nat) (x : Stream) : Cell :=
  match n with
  | 0 => { c with f_a := x }
  | 1 => { c with f_x := x }
  | 2 => { c with b_a := x }
  | 3 => { c with b_x := x }
  | 4 => { c with u_a := x }
  | 5 => { c with u_x := x }
  | _ => c

def cellOf (l : StreamLoc) : CellLoc := { die := l.die, site := l.site }

def getStream (s : State) (l : StreamLoc) : Stream := streamOf (getCell s (cellOf l)).c l.stream

def modStream (s : State) (l : StreamLoc) (f : Stream → Stream) : State :=
  modC s (cellOf l) (fun c => setStreamOf c l.stream (f (streamOf c l.stream)))

/-- The pass context of a stream: 0 F, 1 B, 2 U (R120). -/
def ctxOf (stream : Nat) : Nat := stream / 2

/-- An execute stream (R120). -/
def isExec (stream : Nat) : Bool := stream % 2 == 1

/-! ### The tables of a die -/

def getQueue (d : Die) (q : Nat) : Queue := tabGet {} d.queues q
def setQueue (d : Die) (q : Nat) (x : Queue) : Die := { d with queues := tabSet {} d.queues q x }
def getSlot (d : Die) (i : Nat) : BillSlot := tabGet {} d.slots i
def setSlot (d : Die) (i : Nat) (x : BillSlot) : Die := { d with slots := tabSet {} d.slots i x }
def getPart (d : Die) (p : Nat) : PartDie := tabGet {} d.parts p
def setPart (d : Die) (p : Nat) (x : PartDie) : Die := { d with parts := tabSet {} d.parts p x }
def getEpoch (d : Die) (g : Nat) : Epoch := tabGet {} d.epochs g
def setEpoch (d : Die) (g : Nat) (x : Epoch) : Die := { d with epochs := tabSet {} d.epochs g x }
def getGate (d : Die) (g : Nat) : Gate := tabGet {} d.gates g
def setGate (d : Die) (g : Nat) (x : Gate) : Die := { d with gates := tabSet {} d.gates g x }
def getMc (d : Die) (i : Nat) : Mc := tabGet {} d.mcs i
def setMc (d : Die) (i : Nat) (x : Mc) : Die := { d with mcs := tabSet {} d.mcs i x }
def getLink (d : Die) (i : Nat) : Link := tabGet {} d.links i
def setLink (d : Die) (i : Nat) (x : Link) : Die := { d with links := tabSet {} d.links i x }
def getPeer (d : Die) (i : Nat) : Peer := tabGet {} d.peers i
def setPeer (d : Die) (i : Nat) (x : Peer) : Die := { d with peers := tabSet {} d.peers i x }
def getSeg (d : Die) (i : Nat) : Seg := tabGet {} d.segs i
def setSeg (d : Die) (i : Nat) (x : Seg) : Die := { d with segs := tabSet {} d.segs i x }
def getRgn (d : Die) (i : Nat) : Region := tabGet {} d.rgns i
def setRgn (d : Die) (i : Nat) (x : Region) : Die := { d with rgns := tabSet {} d.rgns i x }
def stKey (slot station ctx : Nat) : Nat := slot * 65536 + station * 4 + ctx
def rtKey (slot route : Nat) : Nat := slot * 65536 + route
def getStation (d : Die) (slot station ctx : Nat) : Station := tabGet {} d.stations (stKey slot station ctx)
def setStation (d : Die) (slot station ctx : Nat) (x : Station) : Die :=
  { d with stations := tabSet {} d.stations (stKey slot station ctx) x }
def getRoute (d : Die) (slot route : Nat) : Route := tabGet {} d.routes (rtKey slot route)
def setRoute (d : Die) (slot route : Nat) (x : Route) : Die := { d with routes := tabSet {} d.routes (rtKey slot route) x }
def getSet (d : Die) (i : Nat) : CntSet := tabGet {} d.obs.sets i
def setSet (d : Die) (i : Nat) (x : CntSet) : Die := { d with obs := { d.obs with sets := tabSet {} d.obs.sets i x } }

def modQueue (s : State) (d : DieId) (q : Nat) (f : Queue → Queue) : State :=
  modDie s d (fun x => setQueue x q (f (getQueue x q)))
def modSlot (s : State) (d : DieId) (i : Nat) (f : BillSlot → BillSlot) : State :=
  modDie s d (fun x => setSlot x i (f (getSlot x i)))
def modPart (s : State) (d : DieId) (p : Nat) (f : PartDie → PartDie) : State :=
  modDie s d (fun x => setPart x p (f (getPart x p)))
def modEpoch (s : State) (d : DieId) (g : Nat) (f : Epoch → Epoch) : State :=
  modDie s d (fun x => setEpoch x g (f (getEpoch x g)))
def modGate (s : State) (d : DieId) (g : Nat) (f : Gate → Gate) : State :=
  modDie s d (fun x => setGate x g (f (getGate x g)))
def modMc (s : State) (d : DieId) (i : Nat) (f : Mc → Mc) : State :=
  modDie s d (fun x => setMc x i (f (getMc x i)))
def modLink (s : State) (d : DieId) (i : Nat) (f : Link → Link) : State :=
  modDie s d (fun x => setLink x i (f (getLink x i)))
def modPeer (s : State) (d : DieId) (i : Nat) (f : Peer → Peer) : State :=
  modDie s d (fun x => setPeer x i (f (getPeer x i)))
def modSeg (s : State) (d : DieId) (i : Nat) (f : Seg → Seg) : State :=
  modDie s d (fun x => setSeg x i (f (getSeg x i)))
def modStation (s : State) (d : DieId) (slot st ctx : Nat) (f : Station → Station) : State :=
  modDie s d (fun x => setStation x slot st ctx (f (getStation x slot st ctx)))
def modRoute (s : State) (d : DieId) (slot r : Nat) (f : Route → Route) : State :=
  modDie s d (fun x => setRoute x slot r (f (getRoute x slot r)))

/-! ### Time -/

/-- The timebase of a die (R385): CD0, CD1 or, for none, the host die. -/
def timeOf (s : State) : Option DieId → Nat
  | some d => (getDie s d).clk.tb
  | none => s.hd.time.tb

/-! ### Sites, sectors and absent units -/

def groupOf (site : Nat) : Nat := site / 17

/-- The sector of a site (R18). -/
def sectorOf (site : Nat) : Nat :=
  if site % 17 ≤ 15 then (site / 17 + site % 17) % 16 else site / 17

/-- The position of a site in its sector (R18). -/
def positionOf (site : Nat) : Nat := if site % 17 ≤ 15 then site / 17 else 16

/-- The fused site-enable mask of a group; DESIGN CHOICE sites 0 to 15 of each group (assumption 2). -/
def siteMask (d : Die) (g : Nat) : BitVec 17 := tabGet 0xFFFF d.fuse.en g

/-- The fuses map the site to a logical cell (R14). -/
def siteEnabled (d : Die) (site : Nat) : Bool :=
  decide (site < 272) && (siteMask d (groupOf site)).toNat.testBit (site % 17)

/-- The site's sector has failed (R19). -/
def sectorFailed (d : Die) (site : Nat) : Bool := d.fuse.failed.toNat.testBit (sectorOf site)

/-- An enabled site that is not absent by a failed sector or a failed boot test (Table 19.10). -/
def sitePresent (d : Die) (site : Nat) : Bool :=
  siteEnabled d site && !sectorFailed d site
    && !(tabGet 0 d.fuse.absent (groupOf site)).toNat.testBit (site % 17)

/-- Every sector controller counts as having answered now: its 100 us start (R19). -/
def sectorsAnswered (x : Die) : Die :=
  { x with fuse := { x.fuse with lastAnswer := (List.range 16).foldl (fun t i => tabSet 0 t i x.clk.tb) x.fuse.lastAnswer } }

/-- The logical slot of an enabled site: its rank among the enabled sites of its group (R14). -/
def logicalSlot (d : Die) (site : Nat) : Nat :=
  ((List.range (site % 17)).filter (fun i => (siteMask d (groupOf site)).toNat.testBit i)).length

/-- The logical cell number of an enabled site (R5). -/
def logicalCell (d : Die) (site : Nat) : Nat := groupOf site * 16 + logicalSlot d site

/-! ### The partition layout (R414 to R417) -/

def layoutRec (s : State) (p : Nat) : LayoutRec := tabGet {} s.hd.sec.layout p

def layoutDie (s : State) (p : Nat) : DieId → LayoutDie
  | .cd0 => (layoutRec s p).die0
  | .cd1 => (layoutRec s p).die1

/-- The partition, 0 to 15, whose record passes a test. -/
def ownerWhere (s : State) (d : DieId) (f : LayoutDie → Bool) : Option Nat :=
  (List.range 16).find? (fun p => (layoutRec s p).exists_ && f (layoutDie s p d))

def ownerCell (s : State) (c : CellLoc) : Option Nat := ownerWhere s c.die (fun l => l.cells.testBit c.site)
def ownerQueue (s : State) (d : DieId) (q : Nat) : Option Nat := ownerWhere s d (fun l => decide (q < 64) && l.queues.testBit q)
def ownerSlot (s : State) (d : DieId) (i : Nat) : Option Nat := ownerWhere s d (fun l => decide (i < 8) && l.slots.testBit i)
def ownerEpoch (s : State) (d : DieId) (g : Nat) : Option Nat :=
  ownerWhere s d (fun l => decide (l.egBase ≤ g) && decide (g < l.egBase + l.egCount))
def ownerTdt (s : State) (d : DieId) (i : Nat) : Option Nat :=
  ownerWhere s d (fun l => decide (l.tdtBase * 1024 ≤ i) && decide (i < (l.tdtBase + l.tdtCount) * 1024))
def ownerPeer (s : State) (d : DieId) (n : Nat) : Option Nat :=
  ownerWhere s d (fun l => decide (l.peerBase * 64 ≤ n) && decide (n < (l.peerBase + l.peerCount) * 64))

/-- The kinds of Table 7.1. -/
inductive Kind where
  | cell | queueFetch | memoryGate | drainStage | reductionLink | mover | relay | flashReader | chainPort | bridgePort | barrier
  deriving DecidableEq, Repr

def kindOfCode : Nat → Option Kind
  | 1 => some .cell | 2 => some .queueFetch | 3 => some .memoryGate | 4 => some .drainStage
  | 5 => some .reductionLink | 6 => some .mover | 7 => some .relay | 8 => some .flashReader
  | 9 => some .chainPort | 10 => some .bridgePort | 11 => some .barrier
  | _ => none

def kindCode : Kind → Nat
  | .cell => 1 | .queueFetch => 2 | .memoryGate => 3 | .drainStage => 4 | .reductionLink => 5 | .mover => 6
  | .relay => 7 | .flashReader => 8 | .chainPort => 9 | .bridgePort => 10 | .barrier => 11

/-- The partition that the layout gives a station instance (R186, Table 16.1). -/
def ownerInst (s : State) (d : DieId) (k : Kind) (place : Nat) : Option Nat :=
  match k with
  | .cell => ownerCell s { die := d, site := place }
  | .queueFetch => ownerQueue s d place
  | .memoryGate => ownerWhere s d (fun l => l.gateGroups.testBit (place / 4) && l.gateCtx % 4 == place % 4)
  | .drainStage => ownerWhere s d (fun l => l.ds.testBit place)
  | .reductionLink => ownerWhere s d (fun l => l.rl.testBit place)
  | .mover => ownerWhere s d (fun l => l.cm.testBit place)
  | .relay => ownerWhere s d (fun l => l.wr.testBit place)
  | .flashReader => ownerWhere s d (fun l => l.fr.testBit place)
  | .chainPort => ownerWhere s d (fun l => l.cp.testBit place)
  | .bridgePort => ownerWhere s d (fun l => l.bp.testBit place)
  | .barrier => ownerWhere s d (fun l => l.bar.testBit place)

def getSec (s : State) (p : Nat) : PartSec := tabGet {} s.hd.sec.parts p
def modSec (s : State) (p : Nat) (f : PartSec → PartSec) : State :=
  { s with hd := { s.hd with sec := { s.hd.sec with parts := tabSet {} s.hd.sec.parts p (f (getSec s p)) } } }

/-- The partition is in confidential mode (R431). -/
def confidential (s : State) (p : Nat) : Bool := (getSec s p).conf

/-! ### Answers, interrupts, error records -/

def emit (s : State) (o : Out) : State := { s with out := o :: s.out }

/-- A message interrupt: one pending identity in the interrupt file, however many messages arrive (R247). -/
def sendIrq (s : State) (addr eiid : Nat) : State :=
  let s := emit s (.irq addr eiid)
  if s.imsic.contains (addr, eiid) then s else { s with imsic := (addr, eiid) :: s.imsic }

/-- The fields of an error record (Table 18.1). -/
structure ErrRec where
  cls : Nat
  code : Nat
  part : Option Nat := none
  unitKind : Nat := 0
  unitSub : Nat := 0
  unitIndex : Nat := 0
  addrKind : Nat := 0
  addr : Nat := 0
  pc : Nat := 0
  pos : Nat := 0
  /-- DETAIL bytes [15:0] for a record of a command, and bytes [23:16]. -/
  cmd : Nat := 0
  detail : Nat := 0
  deriving DecidableEq, Repr

def getLog (s : State) : Option DieId → Elog
  | some d => (getDie s d).elog
  | none => s.hd.elog

def setLog (s : State) (w : Option DieId) (e : Elog) : State :=
  match w with
  | some d => modDie s d (fun x => { x with elog := e })
  | none => { s with hd := { s.hd with elog := e } }

def logNum : Option DieId → Nat
  | some .cd0 => 0
  | some .cd1 => 1
  | none => 2

/-- The 512 bits of an error record (Table 18.1). -/
def packErr (time seq die : Nat) (redact : Bool) (r : ErrRec) : Nat :=
  let partByte := match r.part with
    | some p => p % 16 + 16 + (if redact then 32 else 0)
    | none => 0
  time % 2 ^ 64 + 2 ^ 64 * (seq % 2 ^ 32) + 2 ^ 96 * (r.cls % 256) + 2 ^ 104 * (r.code % 256) + 2 ^ 112 * die
    + 2 ^ 120 * partByte + 2 ^ 128 * (r.unitKind % 256) + 2 ^ 136 * (r.unitSub % 256) + 2 ^ 144 * (r.unitIndex % 65536)
    + 2 ^ 160 * (if redact then 0 else r.addrKind % 256) + 2 ^ 192 * (if redact then 0 else r.addr % 2 ^ 64)
    + 2 ^ 256 * (if redact then 0 else r.pc % 2 ^ 32) + 2 ^ 288 * (if redact then 0 else r.pos % 2 ^ 32)
    + 2 ^ 320 * (r.cmd % 2 ^ 128) + 2 ^ 448 * (r.detail % 2 ^ 64)

/-- Writes one record into a die's log, with the interrupt of R460 (R456, R459). -/
def logErr (s : State) (w : Option DieId) (r : ErrRec) : State :=
  let e := getLog s w
  let redact := r.part.any (confidential s)
  let full := decide ((e.wr - e.rd).toNat = 1024)
  let wasEmpty := decide (e.wr = e.rd)
  let e' := { e with
    recs := tabSet 0 e.recs (e.wr.toNat % 1024) (packErr (timeOf s w) e.wr.toNat (logNum w) redact r)
    wr := e.wr + 1
    rd := if full then e.rd + 1 else e.rd
    lost := if full then BitVec.ofNat 32 (satAdd 32 e.lost.toNat 1) else e.lost }
  let s := setLog s w e'
  if wasEmpty && e.irqEn then sendIrq s (e.irqAddr.toNat * 4) e.irqEiid.toNat else s

/-- Counts a corrected or an uncorrectable SRAM error (Table 18.9). -/
def countSram (s : State) (w : Option DieId) (uncorr : Bool) : State :=
  let e := getLog s w
  setLog s w (if uncorr then { e with sramUncorr := BitVec.ofNat 16 (satAdd 16 e.sramUncorr.toNat 1) }
    else { e with sramCorr := BitVec.ofNat 32 (satAdd 32 e.sramCorr.toNat 1) })

/-- The code of a function's state (Table 8.15). -/
def fstateCode : Fstate → Nat
  | .off => 0
  | .starting => 1
  | .on => 2
  | .draining => 3

/-! ### Free values -/

/-- A free value of `w` bits, by a draw that no other use shares (assumption 13). -/
def drawFree (s : State) (w : Nat) : Nat × State :=
  (Config.freeBits s.fresh w % 2 ^ w, { s with fresh := s.fresh + 1 })

/-! ### The queues of a memory gate (R134, R308) -/

/-- Requests for grants join the gate's queue. -/
def askGrant (s : State) (d : DieId) (group : Nat) (rs : List GrantReq) : State :=
  modGate s d group (fun g => { g with reqs := g.reqs ++ rs })

/-- A user with transfers to ask for joins the gate's queue, with the time, unless it stands there. -/
def askTransfer (s : State) (d : DieId) (group : Nat) (w : Want) : State :=
  modGate s d group (fun g => if g.wants.any (fun x => x.1 == w) then g else { g with wants := g.wants ++ [(w, timeOf s (some d))] })

/-- An instruction of a cell asks for its transfers. -/
def cellWants (s : State) (c : CellLoc) (op : Nat) : State := askTransfer s c.die (groupOf c.site) (.cell c.site op)

/-! ### Counters (R438) -/

/-- Adds to a counter of a set; a wrap sets OVF, or LOST where OVF is set already. -/
def bumpSet (c : CntSet) (i n : Nat) : CntSet :=
  if !c.en then c
  else
    let x := tabGet {} c.counters i
    let t := x.count.toNat + n
    let y := { x with count := BitVec.ofNat 48 t, ovf := x.ovf || decide (2 ^ 48 ≤ t) }
    { c with counters := tabSet {} c.counters i y, lost := c.lost || (decide (2 ^ 48 ≤ t) && x.ovf) }

/-- Keys of the counter sets of a die. -/
def setEngine (site e : Nat) : Nat := site * 16 + e
def setStream (site n : Nat) : Nat := site * 16 + 4 + n
def setCellSet (site : Nat) : Nat := site * 16 + 10
def setStationSet (kind place : Nat) : Nat := 10000 + kind * 512 + place
def setQueueSet (q : Nat) : Nat := 20000 + q
def setChain (port : Nat) : Nat := 21000 + port

/-- The partition of the units that a counter set counts. -/
def setOwner (s : State) (d : DieId) (k : Nat) : Option Nat :=
  if k < 10000 then ownerCell s { die := d, site := k / 16 }
  else if k < 20000 then (kindOfCode ((k - 10000) / 512)).bind (fun x => ownerInst s d x ((k - 10000) % 512))
  else if k < 21000 then ownerQueue s d (k - 20000)
  else ownerInst s d .chainPort (k - 21000)

/-- A wrap of a counter with OVF_IRQ set sends the counter-overflow message (R440). -/
def sendOverflow (s : State) (d : DieId) (k i : Nat) : State :=
  if (getSet (getDie s d) k).ovfIrq then emit s (.overflow (dieNum d) k i) else s

/-- The port's quadrant has its clock (R374). -/
def cpClocked (d : Die) (port : Nat) : Bool := d.clk.enCp.toNat.testBit (port / 4)

/-- The unit that a set counts is not gated (R439): a chain port has its clock. -/
def setClocked (d : Die) (k : Nat) : Bool :=
  if 21000 ≤ k then cpClocked d (k - 21000) else (k - 10000) / 512 != 9 || decide (k < 10000) || cpClocked d ((k - 10000) % 512)

/-- Adds to a counter of a die's set; a gated unit counts nothing (R439), nor do those of a confidential partition (Table 16.21). -/
def bump (s : State) (d : DieId) (k i n : Nat) : State :=
  if (setOwner s d k).any (confidential s) || !setClocked (getDie s d) k then s
  else
    let c := getSet (getDie s d) k
    let s := if c.en && decide (2 ^ 48 ≤ (tabGet {} c.counters i).count.toNat + n) then sendOverflow s d k i else s
    modDie s d (fun x => setSet x k (bumpSet (getSet x k) i n))

/-- Buckets that a reduction link has closed (Table 17.7). -/
def countClosed (s : State) (d : DieId) (place n : Nat) : State := bump s d (setStationSet 5 place) 6 n

end Sys2Proof.Machine
end

