-- ==== Sys2Proof/Machine/Access.lean ====
section
/-! DEFINITION. Who may reach which registers, and how an access is answered (R16, R374, R417, R466, R474, R476). -/

namespace Sys2Proof.Machine

/-- Agents with the management partition's rights: security core, application cores, physical function, management requests
(Tables 16.5, 19.4; R481). -/
def mgmtAgent (a : Nat) : Bool := decide (a ≤ 0x18) || a == 0x20 || a == 0x38 || a == 0x39

/-- Agents that share the host physical map: those above and the flash processors (R469). -/
def hostAgent (a : Nat) : Bool := mgmtAgent a || a == 0x40

/-- A die-manager core of the die. -/
def dmAgent (d : DieId) (a : Nat) : Bool := decide (0x50 + 4 * dieNum d ≤ a) && decide (a < 0x54 + 4 * dieNum d)

/-- The partition of a virtual function. -/
def vfOf (a : Nat) : Option Nat := if 0x21 ≤ a ∧ a ≤ 0x30 then some (a - 0x21) else none

/-- The application core runs: it passed its self-test, and its clock is enabled (R396, Table 14.6). -/
def coreRuns (s : State) (core : Nat) : Bool :=
  decide (core < 24) && s.hd.power.hostRails && s.hd.clk.enHd.toNat.testBit core && !s.hd.boot.badCores.testBit core

/-- The PCIe controller runs: it trained, and its clock is enabled (R374, R396). -/
def pcieRuns (s : State) : Bool := s.hd.power.hostRails && s.hd.clk.enHd.toNat.testBit 25 && !s.hd.boot.badPcie

/-- The agent is there to make an access: a core, a die manager, a flash processor or a PCIe function without a clock makes none
(R374). -/
def agentRuns (s : State) (a : Nat) : Bool :=
  if 1 ≤ a ∧ a ≤ 0x18 then coreRuns s (a - 1)
  else if 0x20 ≤ a ∧ a ≤ 0x30 then pcieRuns s
  else if a = 0x40 then s.hd.clk.enHd.toNat.testBit 24
  else if 0x50 ≤ a ∧ a < 0x58 ∧ a % 4 ≠ 0 then (getDie s (dieOfNum ((a - 0x50) / 4))).clk.enDm.toNat.testBit (a % 4 - 1)
  else true

/-- A virtual function is served: its partition exists and is not being scrubbed (R366, R427). -/
def vfServed (s : State) (p : Nat) : Bool := (layoutRec s p).exists_ && decide ((getSec s p).st ≠ .scrubbing)

/-- A UCIe module of the die carries traffic: it is not DOWN and has its clock; until the die has trained, its modules are in their
training (R342, R346, R374). -/
def ucieCarries (x : Die) : Bool :=
  !x.ilvValid || (List.range 4).any (fun m => (tabGet {} x.ucie m).st != 0 && x.clk.enUcie.toNat.testBit m)

/-- The host die's accesses reach the compute die: it runs, the UCIe modules toward it are clocked and one of them is not DOWN (R346,
R374, R405). -/
def hostReaches (s : State) (d : DieId) : Bool :=
  (getDie s d).clk.running && s.hd.clk.enHd.toNat.testBit (26 + dieNum d) && ucieCarries (getDie s d)

/-- The agent reaches the register blocks of a compute die. -/
def reachesDie (s : State) (a : Nat) (d : DieId) : Bool :=
  agentRuns s a && ((hostAgent a && hostReaches s d) || (dmAgent d a && (getDie s d).clk.running))

/-- The agent reaches the host-die register block. -/
def reachesHost (s : State) (a : Nat) : Bool := agentRuns s a && hostAgent a && s.hd.power.hostRails

/-- The agent reaches the flash store's registers and aperture, in the block that FLASH_EN clocks (R374). -/
def reachesFlash (s : State) (a : Nat) : Bool := reachesHost s a && s.hd.clk.enHd.toNat.testBit 24

/-- The agent reaches the registers of a queue: a virtual function only those of its partition (R417, R480). -/
def reachesQueue (s : State) (a : Nat) (d : DieId) (q : Nat) : Bool :=
  reachesDie s a d || (agentRuns s a && hostReaches s d && (vfOf a).any (fun p => vfServed s p && ownerQueue s d q == some p))

/-- The agent reaches the cell's registers: the site is neither spare nor absent (R19, R466). -/
def reachesCell (s : State) (a : Nat) (c : CellLoc) : Bool := reachesDie s a c.die && sitePresent (getDie s c.die) c.site

/-- A write that is applied is acknowledged; one that finds no register is a bus error (R474). -/
def answer (ok : Bool) (a : Nat) (s t : State) : Res := .next (if ok then emit t (.ack a) else emit s (.busError a))

/-- Accesses to the cell wait behind a held table write (R17, R175). -/
def cellHeld (s : State) (c : CellLoc) : Bool := !(getCell s c).m.access.isEmpty

/-- The access takes its place behind those that reached the cell before it. -/
def holdAccess (s : State) (c : CellLoc) (a : CellAccess) : State := modM s c (fun m => { m with access := m.access ++ [a] })

/-- A write of value `v` to the whole of a cell's register, at an offset of its block, whose effect gives `t`; where accesses to the
cell wait, it waits behind them (R17). -/
def cellReg (s : State) (a : Nat) (c : CellLoc) (off v : Nat) (t : State) : Res :=
  if reachesCell s a c && cellHeld s c then
    .next (holdAccess s c { agent := a, write := true, off := off, mask := 2 ^ 64 - 1, val := v % 2 ^ 64 })
  else answer (reachesCell s a c) a s t

/-- A write to register `i` of a stream; a stream number above 5 names none. -/
def streamWrite (s : State) (a : Nat) (l : StreamLoc) (i v : Nat) (t : State) : Res :=
  if l.stream < 6 then cellReg s a (cellOf l) (0x2000 + 0x100 * l.stream + 8 * i) v t else .next (emit s (.busError a))

/-- A write to a compute die's registers. -/
def dieReg (s : State) (a : Nat) (d : DieId) (t : State) : Res := answer (reachesDie s a d) a s t

/-- A write to the flash store's registers. -/
def flashReg (s : State) (a : Nat) (t : State) : Res := answer (reachesFlash s a) a s t

/-- A write to the host die's registers. -/
def hostReg (s : State) (a : Nat) (t : State) : Res := answer (reachesHost s a) a s t

end Sys2Proof.Machine
end

