-- ==== Sys2Proof/Machine/Bill.lean ====
section
/-! DEFINITION. The Bill as a byte image: header, sections, station and route records, parameter blocks (R201 to R210). -/

namespace Sys2Proof.Machine

/-- `n` bytes of a Bill at an offset, as a number. -/
def bf (b : List Byte) (off n : Nat) : Nat := leNat ((b.drop off).take n)

def bMagic (b : List Byte) : Nat := bf b 0 4
def bVersion (b : List Byte) : Nat := bf b 4 2
def bFlags (b : List Byte) : Nat := bf b 6 2
def bLength (b : List Byte) : Nat := bf b 8 4
def bPart (b : List Byte) : Nat := bf b 0xC 1
def bDie (b : List Byte) : Nat := bf b 0xD 1
def bId (b : List Byte) : Nat := bf b 0x10 8
def bFuseDigest (b : List Byte) : Nat := bf b 0x20 64
def bBodyDigest (b : List Byte) : Nat := bf b 0x60 64
/-- OFFSET and SIZE of a section (Table 7.4). -/
def secOff (b : List Byte) (i : Nat) : Nat := bf b (0xA0 + 8 * i) 4
def secSize (b : List Byte) (i : Nat) : Nat := bf b (0xA4 + 8 * i) 4

def nStations (b : List Byte) : Nat := secSize b 0 / 32
def nRoutes (b : List Byte) : Nat := secSize b 1 / 16
def nImages (b : List Byte) : Nat := secSize b 2 / 16

/-- Fields of station record `i` (Table 7.5). -/
def stF (b : List Byte) (i off n : Nat) : Nat := bf b (secOff b 0 + 32 * i + off) n
def stKind (b : List Byte) (i : Nat) : Nat := stF b i 0 1
def stNin (b : List Byte) (i : Nat) : Nat := stF b i 1 1
def stNout (b : List Byte) (i : Nat) : Nat := stF b i 2 1
def stPlace (b : List Byte) (i : Nat) : Nat := stF b i 4 2
def stParamOff (b : List Byte) (i : Nat) : Nat := stF b i 8 4
def stParamLen (b : List Byte) (i : Nat) : Nat := stF b i 0xC 4
def stDepth (b : List Byte) (i p : Nat) : Nat := stF b i (0x10 + 2 * p) 2

/-- Fields of route record `i` (Table 7.6). -/
def rtF (b : List Byte) (i off n : Nat) : Nat := bf b (secOff b 1 + 16 * i + off) n
def rtSrc (b : List Byte) (i : Nat) : Nat := rtF b i 0 2
def rtSrcPort (b : List Byte) (i : Nat) : Nat := rtF b i 2 1
def rtDstPort (b : List Byte) (i : Nat) : Nat := rtF b i 3 1
def rtDst (b : List Byte) (i : Nat) : Nat := rtF b i 4 2
def rtClass (b : List Byte) (i : Nat) : Nat := rtF b i 6 1
def rtFlags (b : List Byte) (i : Nat) : Nat := rtF b i 7 1
def rtGating (b : List Byte) (i : Nat) : Bool := bit (rtFlags b i) 0
def rtDone (b : List Byte) (i : Nat) : Bool := bit (rtFlags b i) 1
def rtCtx (b : List Byte) (i : Nat) : Nat := fld (rtFlags b i) 3 2
def rtCredits (b : List Byte) (i : Nat) : Nat := rtF b i 8 2
def rtSem (b : List Byte) (i : Nat) : Nat := rtF b i 0xA 1
def rtDbase (b : List Byte) (i : Nat) : Nat := rtF b i 0xB 2
def rtDslots (b : List Byte) (i : Nat) : Nat := rtF b i 0xD 1

/-- Image directory entry `i` (R208). -/
def imOff (b : List Byte) (i : Nat) : Nat := bf b (secOff b 2 + 16 * i) 4
def imLen (b : List Byte) (i : Nat) : Nat := bf b (secOff b 2 + 16 * i + 4) 4

/-- Bytes of a station's parameter block. -/
def pf (b : List Byte) (st off n : Nat) : Nat := bf b (secOff b 4 + stParamOff b st + off) n

/-- The station of a kind at a place, if the Bill names one. -/
def findStation (b : List Byte) (kind place : Nat) : Option Nat :=
  (List.range (nStations b)).find? (fun i => stKind b i == kind && stPlace b i == place)

/-- The routes that leave a station, and those that enter it, by record index. -/
def routesFrom (b : List Byte) (st : Nat) : List Nat := (List.range (nRoutes b)).filter (fun r => rtSrc b r == st)
def routesInto (b : List Byte) (st : Nat) : List Nat := (List.range (nRoutes b)).filter (fun r => rtDst b r == st)

/-- The route that leaves an output port of a station. -/
def routeAt (b : List Byte) (st port : Nat) : Option Nat := (routesFrom b st).find? (fun r => rtSrcPort b r == port)

/-- Gating routes of a station, or of a cell's context (R194, R195, R197); every input of a barrier is gating (R200). -/
def gatingRoutes (b : List Byte) (st ctx : Nat) : List Nat :=
  (routesInto b st).filter (fun r => rtClass b r == 1 && (rtGating b r || stKind b st == 0xB)
    && (stKind b st != 1 || rtCtx b r == ctx))

/-- DONE routes of a station, or of a cell's context; every output of a barrier is DONE (R200). -/
def doneRoutes (b : List Byte) (st ctx : Nat) : List Nat :=
  (routesFrom b st).filter (fun r => rtClass b r == 1 && (rtDone b r || stKind b st == 0xB)
    && (stKind b st != 1 || rtCtx b r == ctx))

/-- Image index of stream `n` of a CELL station, none for 0xFFFF, and its entry address (Table 7.7). -/
def cellImage (b : List Byte) (st n : Nat) : Option Nat :=
  let i := pf b st (4 * n) 2
  if i = 0xFFFF then none else some i
def cellEntry (b : List Byte) (st n : Nat) : Nat := 8 * pf b st (4 * n + 2) 2
def cellTables (b : List Byte) (st : Nat) : Bool := bit (pf b st 0x24 4) 0

/-- The bill slot that is ACTIVE or LEAVING for a partition on a die, and its bytes. -/
def activeSlot (d : Die) (p : Nat) : Option Nat := (getPart d p).active
def activeBill (d : Die) (p : Nat) : Option (Nat × List Byte) := (activeSlot d p).map (fun i => (i, (getSlot d i).bill))

/-- The active Bill that holds a slot, for events that name a slot: the slot's bytes while its stations run. -/
def runningBill (d : Die) (slot : Nat) : Option (List Byte) :=
  let x := getSlot d slot
  match x.st with
  | .active => some x.bill
  | .leaving => some x.bill
  | _ => none

/-- The active Bill's route from the reduction output of a cell (R187). -/
def cellRedRoute (s : State) (c : CellLoc) : Option (Nat × Nat) :=
  match ownerCell s c with
  | none => none
  | some p => match activeBill (getDie s c.die) p with
    | none => none
    | some (slot, b) => match findStation b 1 c.site with
      | none => none
      | some st => (routeAt b st 0).map (fun r => (slot, r))

end Sys2Proof.Machine
end

