-- ==== Sys2Proof/Machine/Approx.lean ====
section
/-! DEFINITION. The exact values of the fixed functions, EXP, LOG, RSQRT and RECIP, in fixed point with 128 fraction bits, and the
bound of R172 that the free FP32 values keep. The approximations here err by less than 2^-90 x max(1, |exact|), which is far below
the spacing of FP32 values, so the bound of 2^-22 is taken as it stands (assumption 20). -/

namespace Sys2Proof.Machine

def fixOne : Int := 2 ^ 128
def fixMul (a b : Int) : Int := a * b / 2 ^ 128
def fixDiv (a b : Int) : Int := a * 2 ^ 128 / b

/-- A finite value in fixed point, and back. -/
def valFix : Val → Int
  | .fin a m e =>
    let k := e + 128
    let x : Int := if 0 ≤ k then ((m * 2 ^ k.toNat : Nat) : Int) else ((m / 2 ^ (-k).toNat : Nat) : Int)
    if a then -x else x
  | _ => 0
def fixVal (x : Int) : Val := .fin (decide (x < 0)) x.natAbs (-128)

/-- The sum over odd n of p z2^((n-1)/2) / n: the inverse hyperbolic tangent of z for z2 = z^2, the inverse tangent for z2 = -z^2. -/
def oddSeries (z2 : Int) : Nat → Int → Int → Int
  | 0, _, _ => 0
  | k + 1, n, p => p / n + oddSeries z2 k (n + 2) (fixMul p z2)

/-- ln m of a value from 1 to 2. -/
def lnFix (m : Int) : Int :=
  let z := fixDiv (m - fixOne) (m + fixOne)
  2 * oddSeries (fixMul z z) 50 1 z
def ln2Fix : Int := lnFix (2 * fixOne)

def expSeries (x : Int) : Nat → Int → Int → Int
  | 0, _, _ => 0
  | k + 1, n, t => t + expSeries x k (n + 1) (fixMul t x / n)

/-- e^x. -/
def expFix (x : Int) : Int :=
  let k := x / ln2Fix
  let y := expSeries (x - k * ln2Fix) 42 1 fixOne
  if 0 ≤ k then y * 2 ^ k.toNat else y / 2 ^ (-k).toNat

def atanInv (n : Int) : Int :=
  let z := fixOne / n
  oddSeries (-(fixMul z z)) 60 1 z
def piFix : Int := 16 * atanInv 5 - 4 * atanInv 239
def sqrtFix (x : Int) : Int := (isqrt (x.toNat * 2 ^ 128) : Nat)

def sigmaFix (x : Int) : Int :=
  let y := expFix (-x.natAbs)
  if 0 ≤ x then fixDiv fixOne (fixOne + y) else fixDiv y (fixOne + y)
def tanhFix (x : Int) : Int :=
  let y := expFix (-(2 * min (x.natAbs : Int) (100 * fixOne)))
  let t := fixDiv (fixOne - y) (fixOne + y)
  if 0 ≤ x then t else -t
def softplusFix (x : Int) : Int :=
  let l := lnFix (fixOne + expFix (-x.natAbs))
  if 0 ≤ x then x + l else l

/-- The density and the distribution function of the standard normal law. -/
def normPdf (x : Int) : Int := fixDiv (expFix (-(fixMul x x / 2))) (sqrtFix (2 * piFix))
def normSeries (x2 : Int) : Nat → Int → Int → Int
  | 0, _, _ => 0
  | k + 1, n, t => t + normSeries x2 k (n + 2) (fixMul t x2 / (n + 2))
def normCdf (x : Int) : Int :=
  if 9 * fixOne ≤ x then fixOne
  else if x ≤ -(9 * fixOne) then 0
  else fixOne / 2 + fixMul (normPdf x) (normSeries (fixMul x x) 260 1 x)

/-- u of GELU_T and its derivative (Table 6.9); 0.044715 is 44715 / 10^6. -/
def geluU (x : Int) : Int :=
  fixMul (sqrtFix (fixDiv (2 * fixOne) piFix)) (x + fixMul x (fixMul x x) * 44715 / 1000000)
def geluU' (x : Int) : Int :=
  fixMul (sqrtFix (fixDiv (2 * fixOne) piFix)) (fixOne + 3 * fixMul x x * 44715 / 1000000)

/-- Beyond 200 the functions of Table 6.9 equal their limits, or their input, to far within the bound. -/
def farFix : Int := 200 * fixOne

/-- f of Table 6.9, for the codes that R172 does not make exact. -/
def fnExact (fn : Nat) (v : Val) : Val :=
  let x := valFix v
  if farFix < x then (match fn with
    | 5 | 6 => .fin false 1 0
    | _ => v)
  else if x < -farFix then (if fn = 6 then .fin true 1 0 else .zero)
  else fixVal (match fn with
    | 2 => fixMul x (fixOne + tanhFix (geluU x)) / 2
    | 3 => fixMul x (normCdf x)
    | 4 => fixMul x (sigmaFix x)
    | 5 => sigmaFix x
    | 6 => tanhFix x
    | _ => softplusFix x)

/-- f' of Table 6.9, likewise. -/
def dfnExact (fn : Nat) (v : Val) : Val :=
  let x := valFix v
  if farFix < x then (match fn with
    | 5 | 6 => .zero
    | _ => .fin false 1 0)
  else if x < -farFix then .zero
  else fixVal (match fn with
    | 2 =>
      let t := tanhFix (geluU x)
      (fixOne + t + fixMul x (fixMul (fixOne - fixMul t t) (geluU' x))) / 2
    | 3 => normCdf x + fixMul x (normPdf x)
    | 4 =>
      let g := sigmaFix x
      fixMul g (fixOne + fixMul x (fixOne - g))
    | 5 =>
      let g := sigmaFix x
      fixMul g (fixOne - g)
    | 6 =>
      let t := tanhFix x
      fixOne - fixMul t t
    | _ => sigmaFix x)

/-- ln of a finite value above 0. -/
def lnExact (m : Nat) (e : Int) : Val :=
  let n := Nat.log2 m
  fixVal ((e + n) * ln2Fix + lnFix (fixDiv m ((2 ^ n : Nat) : Int)))

/-- EXP, LOG, RSQRT and RECIP by OP code; none at a pole, and where EXP is beyond FP32. -/
def transExact (op : Nat) (v : Val) : Option Val :=
  match v with
  | .fin a m e =>
    if op = 0x10 then
      let x := valFix v
      if farFix < x then none else if x < -farFix then some .zero else some (fixVal (expFix x))
    else if m = 0 then none
    else if op = 0x0F then some (divVal (.fin false 1 0) v)
    else if a then none
    else if op = 0x0E then some (divVal (.fin false 1 0) (sqrtVal v))
    else some (lnExact m e)
  | _ => none

/-- A value within the bound of R172 of an exact value. -/
def nearExact (v e : Val) : Bool :=
  let big := if cmpVal (absVal e) (.fin false 1 0) < 0 then .fin false 1 0 else absVal e
  !v.nonfinite && !e.nonfinite && decide (cmpVal (absVal (addVal false v (negVal e))) (mulVal big (.fin false 1 (-22))) ≤ 0)

/-- A free FP32 value held to the bound of R172: another one is replaced by the rounded exact value, which keeps the bound. Where no
FP32 value keeps it, or the exact value is not stated, the value is free. -/
def boundedFree (free : Nat) (exact : Option Val) : Nat :=
  match exact with
  | none => free
  | some e =>
    if nearExact (decodeVal .fp32 free) e then free
    else if nearExact (decodeVal .fp32 (toFp32 e)) e then toFp32 e
    else free

end Sys2Proof.Machine
end

