-- ==== Sys2Proof/Machine/Crc.lean ====
section
/-! DEFINITION. The check-value units: the four CRCs of Table 13.15 and the fold bytes of Table 13.16 (R364). -/

namespace Sys2Proof.Machine

/-- `n` shifts of a reflected CRC register. -/
def crcShiftR (poly : Nat) : Nat → Nat → Nat
  | 0, c => c
  | n + 1, c => crcShiftR poly n (if c % 2 = 1 then (c / 2) ^^^ poly else c / 2)

/-- `n` shifts of an unreflected CRC register of width `w`. -/
def crcShiftL (w poly : Nat) : Nat → Nat → Nat
  | 0, c => c
  | n + 1, c => crcShiftL w poly n (if c.testBit (w - 1) then ((c * 2) % 2 ^ w) ^^^ poly else (c * 2) % 2 ^ w)

def crcRunR (poly : Nat) (init : Nat) (bs : List Byte) : Nat :=
  bs.foldl (fun c b => crcShiftR poly 8 (c ^^^ b.toNat)) init

def crcRunL (w poly : Nat) (init : Nat) (bs : List Byte) : Nat :=
  bs.foldl (fun c b => crcShiftL w poly 8 (c ^^^ (b.toNat <<< (w - 8)))) init

/-- CRC-32C (Table 13.15), polynomial 0x1EDC_6F41 reflected. -/
def crc32c (bs : List Byte) : Nat := crcRunR 0x82F63B78 0xFFFFFFFF bs ^^^ 0xFFFFFFFF

/-- CRC-32 of IEEE 802.3, polynomial 0x04C1_1DB7 reflected. -/
def crc32 (bs : List Byte) : Nat := crcRunR 0xEDB88320 0xFFFFFFFF bs ^^^ 0xFFFFFFFF

/-- CRC-64 (ECMA-182). -/
def crc64 (bs : List Byte) : Nat := crcRunL 64 0x42F0E1EBA9EA3693 0 bs

/-- CRC-16 (CCITT). -/
def crc16 (bs : List Byte) : Nat := crcRunL 16 0x1021 0xFFFF bs

/-- The 32 bytes of a chain header (Table 13.9). -/
def chainHeader (f : Frame) : List Byte :=
  leBytes 1 f.ver ++ leBytes 1 f.type ++ leBytes 2 f.payload.length ++ leBytes 4 f.srcId ++ leBytes 4 f.dstId
    ++ leBytes 4 f.seq ++ leBytes 4 f.ackSeq ++ leBytes 1 f.chan ++ leBytes 1 f.hflags ++ leBytes 1 f.part
    ++ leBytes 1 0 ++ leBytes 8 f.ihdr

/-- The check value of a chain frame under CVSEL (Table 13.16). -/
def frameCheck (cvsel : Nat) (f : Frame) : Nat :=
  let bs := leBytes 4 f.dstId ++ leBytes 4 f.srcId ++ leBytes 4 f.seq ++ chainHeader f ++ f.payload
  match cvsel with
  | 0 => crc32c bs
  | 1 => crc32 bs
  | _ => crc64 bs

/-- The check value of a bridge line (Table 13.16). -/
def bridgeCheck (seg dir seq : Nat) (bs : List Byte) : Nat :=
  crc32c (leBytes 1 seg ++ leBytes 1 dir ++ leBytes 1 seq ++ bs)

/-- The check value of a management message to an endpoint ID (Table 13.16). -/
def mgmtCheck (eid tag : Nat) (bs : List Byte) : Nat := crc16 (leBytes 1 eid ++ leBytes 1 tag ++ bs)

/-- The check value of a checkpoint block written at an HPA (Table 13.16). -/
def blockCheck (hpa : Nat) (bs : List Byte) : Nat := crc64 (leBytes 8 (hpa % 2 ^ 40) ++ bs)

/-- The check value of a flash unit at a stripe (Table 13.16). -/
def unitCheck (unit pkg die block page : Nat) (bs : List Byte) : Nat :=
  crc64 (leBytes 4 unit ++ leBytes 1 pkg ++ leBytes 1 die ++ leBytes 2 block ++ leBytes 2 page ++ bs)

end Sys2Proof.Machine
end

