-- ==== Sys2Proof/Machine/Mem.lean ====
section
/-! DEFINITION. HBM: placement, regions, page walks, reads and writes by physical and partition virtual address (spec/11_memory.md). -/

namespace Sys2Proof.Machine

/-! ### Fault kinds of Table 4.9 -/

def kNotMapped : Nat := 1
def kAccess : Nat := 2
def kBounds : Nat := 3
def kUncorr : Nat := 4
def kPeerFail : Nat := 5
def kFlashFail : Nat := 6
def kCheckFail : Nat := 7
def kAsyncStop : Nat := 8

/-- The kinds that Table 4.9 marks for an error record. -/
def kindRecords (k : Nat) : Bool := decide (2 ≤ k) && decide (k ≤ 7)

/-! ### Placement (R297, R306) -/

def gib : Nat := 2 ^ 30

/-- n of HBM_ILV: the stacks in use. -/
def stackCount (d : Die) : Nat := (bitsSet 10 d.ilvEn.toNat).length

/-- Bytes of the die's HBM (R298). -/
def capacity (d : Die) : Nat := stackCount d * 48 * gib

/-- The die that an HPA names (bit 39), and the byte offset within it. -/
def hpaDie (hpa : Nat) : DieId := if bit hpa 39 then .cd1 else .cd0
def hpaOff (hpa : Nat) : Nat := hpa % 2 ^ 39
def hpaOf (d : DieId) (off : Nat) : Nat := dieNum d * 2 ^ 39 + off

/-- The local stack of an offset (R297). -/
def stackOf (d : Die) (off : Nat) : Nat :=
  match stackCount d with
  | 0 => 0
  | n => ((bitsSet 10 d.ilvEn.toNat).getD ((off / 256) % n) 0)

/-- The channel of an offset (R297). -/
def channelOf (d : Die) (off : Nat) : Nat :=
  match stackCount d with
  | 0 => 0
  | n => (((off / 256) / n) % 64) / 2

/-- The home slice of a line (R306). -/
def homeSlice (off : Nat) : Nat := fld off 11 8 ^^^ fld off 15 12 ^^^ fld off 19 16

/-! ### Regions (R301) -/

def rgnValid (r : Region) : Bool := r.valid && decide (r.base.toNat < r.limit.toNat)

/-- The range lies wholly within one VALID region of the partition on the die. -/
def inRegion (d : Die) (part off len : Nat) : Bool :=
  (List.range 32).any (fun i =>
    let r := getRgn d i
    rgnValid r && !r.host && decide (r.part.toNat = part)
      && decide (r.base.toNat * gib ≤ off) && decide (off + len ≤ r.limit.toNat * gib))

/-- The VALID region that holds an offset. -/
def regionAt (d : Die) (off : Nat) : Option Region :=
  ((List.range 32).map (getRgn d)).find? (fun r =>
    rgnValid r && decide (r.base.toNat * gib ≤ off) && decide (off < r.limit.toNat * gib))

/-- The range lies within host memory (Table 11.6). -/
def inHost (s : State) (hpa len : Nat) : Bool :=
  match regionAt (getDie s (hpaDie hpa)) (hpaOff hpa) with
  | some r => r.host && decide (hpaOff hpa + len ≤ r.limit.toNat * gib)
  | none => false

/-! ### Physical accesses -/

def readHbm (s : State) (hpa n : Nat) : List Byte := tabRead 0 s.hbm hpa n

/-- The 32-byte accesses that a range touches. -/
def units32 (hpa n : Nat) : List Nat :=
  if n = 0 then [] else (List.range ((hpa + n - 1) / 32 - hpa / 32 + 1)).map (fun i => hpa / 32 + i)

/-- The 256-byte lines that a range touches. -/
def lines256 (hpa n : Nat) : List Nat :=
  if n = 0 then [] else (List.range ((hpa + n - 1) / 256 - hpa / 256 + 1)).map (fun i => hpa / 256 + i)

/-- The range meets data that cannot be corrected, a lost dirty line or a failed stack (R296, R300, R463). -/
def hbmUncorr (s : State) (hpa n : Nat) : Bool :=
  let d := getDie s (hpaDie hpa)
  (units32 hpa n).any (fun u => s.hbmBad.contains u)
    || (lines256 hpa n).any (fun l => d.cacheLost.contains l
        || decide ((getMc d (stackOf d (hpaOff (l * 256)) * 32 + channelOf d (hpaOff (l * 256)))).st = .failed))

/-- A read at an HPA from agents of a die: the fault kind, or the bytes (R296, R297, R351). -/
def readPhys (s : State) (d : DieId) (hpa n : Nat) : Except Nat (List Byte) :=
  let h := hpaDie hpa
  if h ≠ d ∧ !(getDie s h).clk.running then .error kPeerFail
  else if capacity (getDie s h) < hpaOff hpa + n then .error kAccess
  else if hbmUncorr s hpa n then .error kUncorr
  else .ok (readHbm s hpa n)

def addNew (xs : List Nat) (ys : List Nat) : List Nat := xs ++ ys.filter (fun y => !xs.contains y)

/-- The one canonical form of memory: addresses strictly rising, and no entry equal to what an unlisted address reads as. -/
def Memory.wf (m : List Host.Cell) : Bool := tabWf 0 m

/-- The least recently used of the lines in a line's set, where they fill its 16 ways (R306). DESIGN CHOICE (assumption 90): the set
that a line's home lies in is a free value. -/
def cacheVictim (lines : List Nat) (l : Nat) : Option Nat :=
  let slice := lines.filter (fun x => homeSlice (hpaOff (x * 256)) == homeSlice (hpaOff (l * 256)))
  if slice.length < 16 then none
  else match slice.filter (fun x => Config.cacheSet x % 768 == Config.cacheSet l % 768) with
    | x :: more => if more.length < 15 then none else some x
    | [] => none

/-- An access to a line at its home: it becomes the most recently used of its set. One that is not there takes the place of the
least recently used line of a full set, which is written back where it is dirty (R306). -/
def cacheUse (dirty : Bool) (d : Die) (l : Nat) : Die :=
  let lines := if d.cacheLines.contains l then d.cacheLines else match cacheVictim d.cacheLines l with
    | some x => d.cacheLines.erase x
    | none => d.cacheLines
  { d with
    cacheLines := lines.erase l ++ [l]
    cacheDirty := addNew (d.cacheDirty.filter (fun x => lines.contains x)) (if dirty then [l] else []) }

/-- Reads of a range through the homes of its lines. -/
def touchLines (s : State) (hpa n : Nat) : State := modDie s (hpaDie hpa) (fun d => (lines256 hpa n).foldl (cacheUse false) d)

/-- Bytes stored: whole 32-byte accesses become good, whole lines are no longer lost, and lines become dirty (R296, R306, R463). -/
def storeHbm (s : State) (hpa : Nat) (bs : List Byte) : State :=
  let n := bs.length
  let whole32 := fun u => decide (hpa ≤ u * 32) && decide (u * 32 + 32 ≤ hpa + n)
  let whole256 := fun l => decide (hpa ≤ l * 256) && decide (l * 256 + 256 ≤ hpa + n)
  let s := { s with hbm := tabWrite 0 s.hbm hpa bs, hbmBad := s.hbmBad.filter (fun u => !whole32 u) }
  modDie s (hpaDie hpa) (fun d =>
    { (lines256 hpa n).foldl (cacheUse true) d with cacheLost := d.cacheLost.filter (fun l => !whole256 l) })

/-- A write meets an uncorrectable access that it does not cover, or a lost line that it does not cover (R296, R463). -/
def writeBlocked (s : State) (hpa n : Nat) : Bool :=
  let d := getDie s (hpaDie hpa)
  (units32 hpa n).any (fun u => s.hbmBad.contains u && !(decide (hpa ≤ u * 32) && decide (u * 32 + 32 ≤ hpa + n)))
    || (lines256 hpa n).any (fun l =>
        (d.cacheLost.contains l && !(decide (hpa ≤ l * 256) && decide (l * 256 + 256 ≤ hpa + n)))
        || decide ((getMc d (stackOf d (hpaOff (l * 256)) * 32 + channelOf d (hpaOff (l * 256)))).st = .failed))

/-- A write at an HPA from agents of a die: the fault kind with nothing written, or the state after it. -/
def writePhys (s : State) (d : DieId) (hpa : Nat) (bs : List Byte) : Except Nat State :=
  let h := hpaDie hpa
  if h ≠ d ∧ !(getDie s h).clk.running then .error kPeerFail
  else if capacity (getDie s h) < hpaOff hpa + bs.length then .error kAccess
  else if writeBlocked s hpa bs.length then .error kUncorr
  else .ok (storeHbm s hpa bs)

/-! ### Translation (R302 to R304) -/

/-- Where a translation leads: this module's HBM, or an HPA on the module of a peer entry. -/
inductive Place2 where
  | here (hpa : Nat)
  | peer (idx hpa : Nat)
  deriving DecidableEq, Repr

/-- Bits of the page at a level, and index width (Table 11.7). -/
def levelShift : Nat → Nat
  | 0 => 39 | 1 => 30 | 2 => 21 | _ => 16
def levelIndex (lv va : Nat) : Nat :=
  match lv with
  | 0 => fld va 47 39 | 1 => fld va 38 30 | 2 => fld va 29 21 | _ => fld va 20 16
def levelSize : Nat → Nat
  | 3 => 256 | _ => 4096

/-- A page-table entry with a reserved bit set, a broken LEAF rule or a misaligned address (Table 11.8, R302). -/
def pteBad (lv pte : Nat) : Bool :=
  let leaf := bit pte 1
  let addr := fld pte 47 16 * 256
  fld pte 63 48 != 0
    || (leaf && lv == 0) || (!leaf && lv == 3)
    || (!leaf && bit pte 3)
    || (!bit pte 3 && fld pte 15 4 != 0)
    || (if leaf then addr % 2 ^ levelShift lv != 0 else addr % levelSize (lv + 1) != 0)

/-- The other die of a pair is held in reset: transfers of a die to it fault with PEER_FAIL (R351, R405). -/
def farDown (s : State) (d : DieId) (hpa : Nat) : Bool := decide (hpaDie hpa ≠ d) && !(getDie s (hpaDie hpa)).clk.running

/-- What a leaf entry gives for an address: the outcomes of Table 11.10 after the entry checks. -/
def leafPlace (s : State) (d : DieId) (part lv pte va : Nat) (write : Bool) : Except Nat Place2 :=
  let page := fld pte 47 16 * 256
  let size := 2 ^ levelShift lv
  if bit pte 3 then
    if write && !bit pte 2 then .error kAccess else .ok (.peer (fld pte 15 4) (page + va % size))
  else if farDown s d page then .error kPeerFail
  else
    let h := getDie s (hpaDie page)
    if !inRegion h part (hpaOff page) size || decide (capacity h < hpaOff page + size) then .error kAccess
    else if write && !bit pte 2 then .error kAccess
    else .ok (.here (page + va % size))

/-- A walk from a table at a level, by fuel: the leaf's level and entry, or the first failing condition (Table 11.10). -/
def walkFrom (s : State) (d : DieId) (part va : Nat) : Nat → Nat → Nat → Except Nat (Nat × Nat)
  | 0, _, _ => .error kAccess
  | fuel + 1, lv, table =>
    if farDown s d table then .error kPeerFail
    else if !inRegion (getDie s (hpaDie table)) part (hpaOff table) (levelSize lv) then .error kAccess
    else
      match readPhys s d (table + 8 * levelIndex lv va) 8 with
      | .error k => .error k
      | .ok bs =>
        let pte := leNat bs
        if !bit pte 0 then .error kNotMapped
        else if pteBad lv pte then .error kAccess
        else if bit pte 1 then .ok (lv, pte)
        else walkFrom s d part va fuel (lv + 1) (fld pte 47 16 * 256)

/-- A walk of the partition's page tables on a die. -/
def walk (s : State) (d : DieId) (part va : Nat) : Except Nat (Nat × Nat) :=
  let p := getPart (getDie s d) part
  if !p.ptEn then .error kNotMapped else walkFrom s d part va 4 0 (p.ptRoot.toNat * 4096)

/-- The cached translation of an address (R304). -/
def tlbFind (t : List Tlb) (part va : Nat) : Option Tlb :=
  t.find? (fun e => e.part == part && e.vpage == va >>> e.bits)

def levelOfBits : Nat → Nat
  | 30 => 1 | 21 => 2 | _ => 3

/-- Translation by the caches that the requester uses, else by a walk (R303, R304); with EN = 0 every translation faults. -/
def translate (s : State) (d : DieId) (caches : List Tlb) (part va : Nat) (write : Bool) : Except Nat Place2 :=
  if !(getPart (getDie s d) part).ptEn then .error kNotMapped
  else match tlbFind caches part va with
  | some e =>
    if write && !bit e.pte 2 then .error kAccess
    else
      let page := fld e.pte 47 16 * 256
      if bit e.pte 3 then .ok (.peer (fld e.pte 15 4) (page + va % 2 ^ e.bits))
      else .ok (.here (page + va % 2 ^ e.bits))
  | none =>
    match walk s d part va with
    | .error k => .error k
    | .ok (lv, pte) => leafPlace s d part lv pte va write

/-- The caches of a cell and its gate. -/
def cellCaches (s : State) (c : CellLoc) : List Tlb :=
  (getCell s c).m.tlb ++ (getGate (getDie s c.die) (groupOf c.site)).tlb

/-- The cache of a gate. -/
def gateCaches (s : State) (d : DieId) (g : Nat) : List Tlb := (getGate (getDie s d) g).tlb

/-! ### Accesses by partition virtual address -/

/-- The outcome of an access: a value, a fault kind, or requests to other modules still to be answered (R361). -/
inductive MemR (α : Type) where
  | ok (a : α)
  | fault (kind : Nat)
  | ask (reqs : List (Nat × Nat × Nat × Option (List Byte)))

/-- The answer of a peer module to a request for this place, if one has come. -/
def peerAnswer (s : State) (d : DieId) (idx hpa len : Nat) (write : Bool) : Option (Nat × List Byte) :=
  ((getPeer (getDie s d) idx).txns.find? (fun t => t.hpa == hpa && t.len == len && t.write == write && t.done.isSome)).bind
    PeerTxn.done

/-- Splits a range into gate transfers: at most 2,048 B each, within one page (R307, R361); at most `fuel` pieces. -/
def vaPieces : Nat → Nat → Nat → List (Nat × Nat)
  | 0, _, _ => []
  | fuel + 1, va, n =>
    if n = 0 then []
    else
      let m := min n (min 2048 (65536 - va % 65536))
      (va, m) :: vaPieces fuel (va + m) (n - m)

def pieces (va n : Nat) : List (Nat × Nat) := vaPieces (n / 2048 + n / 65536 + 3) va n

/-- A peer entry carries transfers only while it is UP (R357); a port without a clock carries nothing (assumption 41). -/
def peerUp (d : Die) (idx : Nat) : Bool :=
  let p := getPeer d idx
  p.valid && !p.failed && d.chain.linkUp.testBit p.port.toNat && cpClocked d p.port.toNat

/-- One piece of a read. -/
def readPiece (s : State) (d : DieId) (caches : List Tlb) (part va n : Nat) : MemR (List Byte) :=
  if 2 ^ 48 < va + n then .fault kAccess
  else
    match translate s d caches part va false with
    | .error k => .fault k
    | .ok (.here hpa) => match readPhys s d hpa n with
      | .error k => .fault k
      | .ok bs => .ok bs
    | .ok (.peer idx hpa) =>
      if !peerUp (getDie s d) idx then .fault kPeerFail
      else match peerAnswer s d idx hpa n false with
        | some (0, bs) => .ok bs
        | some (k, _) => .fault k
        | none => .ask [(idx, hpa, n, none)]

/-- Joins the outcomes of pieces in order: the first fault, then any requests, then the value. -/
def joinRead (a b : MemR (List Byte)) : MemR (List Byte) :=
  match a, b with
  | .fault k, _ => .fault k
  | .ok _, .fault k => .fault k
  | .ok x, .ok y => .ok (x ++ y)
  | .ok _, .ask r => .ask r
  | .ask r, .ask q => .ask (r ++ q)
  | .ask _, .fault k => .fault k
  | .ask r, .ok _ => .ask r

/-- A read by partition virtual address. -/
def readVA (s : State) (d : DieId) (caches : List Tlb) (part va n : Nat) : MemR (List Byte) :=
  (pieces va n).foldr (fun p acc => joinRead (readPiece s d caches part p.1 p.2) acc) (.ok [])

/-- The fault kind of a read's first failing piece. -/
def readKind (s : State) (d : DieId) (caches : List Tlb) (part va n : Nat) : Option Nat :=
  match readVA s d caches part va n with
  | .fault k => some k
  | _ => none

/-- The places of a write's pieces, or the first fault. -/
def writePlaces (s : State) (d : DieId) (caches : List Tlb) (part va n : Nat) : Except Nat (List (Place2 × Nat)) :=
  (pieces va n).foldr (fun p acc =>
    if 2 ^ 48 < p.1 + p.2 then .error kAccess
    else match translate s d caches part p.1 true with
      | .error k => .error k
      | .ok pl => match acc with
        | .error k => .error k
        | .ok r => .ok ((pl, p.2) :: r)) (.ok [])

/-- Writes pieces in order; a fault stops before the piece that meets it. -/
def writePieces (d : DieId) : State → List (Place2 × Nat) → List Byte → MemR State
  | s, [], _ => .ok s
  | s, (.here hpa, n) :: r, bs =>
    match writePhys s d hpa (bs.take n) with
    | .error k => .fault k
    | .ok s' => writePieces d s' r (bs.drop n)
  | s, (.peer idx hpa, n) :: r, bs =>
    if !peerUp (getDie s d) idx then .fault kPeerFail
    else match peerAnswer s d idx hpa n true with
      | some (0, _) => writePieces d s r (bs.drop n)
      | some (k, _) => .fault k
      | none => .ask [(idx, hpa, n, some (bs.take n))]

/-- A write by partition virtual address: the whole write or nothing. -/
def writeVA (s : State) (d : DieId) (caches : List Tlb) (part va : Nat) (bs : List Byte) : MemR State :=
  match writePlaces s d caches part va bs.length with
  | .error k => .fault k
  | .ok pl => writePieces d s pl bs

/-- Bytes of a transfer are counted in the partition's context of the gate, page by page (Table 17.7). -/
def gateBytes (s : State) (d : DieId) (group part va n : Nat) : State :=
  let set := setStationSet 3 (4 * group + (layoutDie s part d).gateCtx % 4)
  if n = 0 then s
  else (List.range ((va + n - 1) / 65536 - va / 65536 + 1)).foldl (fun s i =>
    let lo := max va ((va / 65536 + i) * 65536)
    let m := min (va + n) ((va / 65536 + i + 1) * 65536) - lo
    match translate s d (gateCaches s d group) part lo false with
    | .ok (.here h) => bump s d set (if hpaDie h = d then 6 else 7) m
    | .ok (.peer _ _) => bump s d set 7 m
    | .error _ => s) s

/-- Those of several ranges. -/
def gateRanges (s : State) (d : DieId) (group part : Nat) (rs : List (Nat × Nat)) : State :=
  rs.foldl (fun s r => gateBytes s d group part (r.1 % 2 ^ 48) r.2) s

/-! ### Frames to peers (R356, R358, R361) -/

/-- The bytes of a frame from its addresses to its FCS, padded to the MAC minimum (R356). -/
def frameBytes (cv : Nat) (f : Frame) : Nat := max 64 (14 + 32 + f.payload.length + (if cv = 2 then 8 else 4) + 4)

/-- A frame leaves a port. -/
def putFrame (s : State) (d : DieId) (port cv : Nat) (f : Frame) : State :=
  let s := bump (bump s d (setChain port) 0 1) d (setChain port) 2 (frameBytes cv f)
  emit s (.frame (dieNum d) port f)

/-- The values in force at a port: MODE, MAC, ID, ETYPE, CVSEL (R370). -/
def portForce (d : Die) (port : Nat) : Bool × Nat × Nat × Nat × Nat := tabGet (false, 0, 0, 0, 0) d.chain.inForce port

/-- A frame of an entry as it leaves now: every frame to a peer carries ACK_SEQ (R358). -/
def peerFrame (d : Die) (p : Peer) (part seq type chan hflags ihdr : Nat) (payload : List Byte) : Frame :=
  let v := portForce d p.port.toNat
  let f0 : Frame := {
    dstMac := p.mac.toNat, srcMac := v.2.1, etype := v.2.2.2.1, ver := 1, type := type, srcId := v.2.2.1,
    dstId := p.farId.toNat, seq := seq, ackSeq := p.rxExpect.toNat, chan := chan, hflags := setFld hflags 2 2 1,
    part := part, ihdr := ihdr, payload := payload, check := 0 }
  { f0 with check := frameCheck v.2.2.2.2 f0 }

/-- Sends a frame that takes no SEQ on an entry. -/
def sendPlain (s : State) (d : DieId) (idx type : Nat) (payload : List Byte) : State :=
  let x := getDie s d
  let p := getPeer x idx
  let s := modPeer s d idx (fun p => { p with ackDue := false })
  putFrame s d p.port.toNat (portForce x p.port.toNat).2.2.2.2 (peerFrame x p p.part.toNat 0 type 0 0 0 payload)

/-- Sends a sequenced frame on an entry, which is held until it is acknowledged; `rt`, `lines` and `last` are those of
`Held`. -/
def sendSeq (s : State) (d : DieId) (idx part type chan hflags ihdr : Nat) (payload : List Byte) (rt : Nat) (lines : Nat := 0)
    (last : Bool := false) : State :=
  let x := getDie s d
  let p := getPeer x idx
  let f := peerFrame x p part p.txNext.toNat type chan hflags ihdr payload
  let s := modPeer s d idx (fun p => { p with
    txNext := p.txNext + 1, unacked := p.unacked ++ [{ f := f, rt := rt, lines := lines, last := last, sentAt := timeOf s (some d) }], ackDue := false })
  putFrame s d p.port.toNat (portForce x p.port.toNat).2.2.2.2 f

/-- Sends the MEM_REQ frames of an access that waits, once for each (R361). -/
def askPeers (s : State) (d : DieId) (part : Nat) : List (Nat × Nat × Nat × Option (List Byte)) → State
  | [] => s
  | (idx, hpa, n, w) :: r =>
    let p := getPeer (getDie s d) idx
    let s' :=
      if p.txns.any (fun t => t.hpa == hpa && t.len == n && t.write == w.isSome) then s
      else
        let s1 := modPeer s d idx (fun p => { p with
          txns := p.txns ++ [{ tag := p.nextTag, hpa := hpa, len := n, write := w.isSome }], nextTag := (p.nextTag + 1) % 65536 })
        sendSeq s1 d idx part 7 0 0 0 (leBytes 8 hpa ++ leBytes 2 (n - 1) ++ leBytes 2 p.nextTag ++ leBytes 4 0 ++ w.getD []) 0
    askPeers s' d part r

/-- Forgets the peer answers to a write of a place. -/
def dropWritten (s : State) (d : DieId) (pl : List (Place2 × Nat)) : State :=
  pl.foldl (fun s p => match p with
    | (.peer idx hpa, n) => modPeer s d idx (fun x => { x with
        txns := x.txns.filter (fun t => !(t.hpa == hpa && t.len == n && t.write && t.done.isSome)) })
    | _ => s) s

/-- Forgets the peer answers that an access of the die has used. -/
def dropAnswers (s : State) (d : DieId) : State :=
  modDie s d (fun x => { x with peers :=
    (x.peers.map (fun e => (e.1, { e.2 with txns := e.2.txns.filter (fun t => t.done.isNone) }))) })

/-- The record of an uncorrectable HBM access (class MEMORY, code UNCORR; R296, R456). -/
def recUncorr (s : State) (d : DieId) (part : Option Nat) (hpa : Nat) (unitKind unitSub unitIndex pc pos cmd : Nat) : State :=
  let h := hpaDie hpa
  let x := getDie s h
  let o := hpaOff hpa
  let pcn := ((o / 256) / max 1 (stackCount x)) % 64
  let s := modMc s h (stackOf x o * 32 + channelOf x o) (fun m => { m with uncorr := BitVec.ofNat 16 (satAdd 16 m.uncorr.toNat 1) })
  logErr s (some d) {
    cls := 2, code := 1, part := part, unitKind := unitKind, unitSub := unitSub, unitIndex := unitIndex,
    addrKind := 1, addr := hpa, pc := pc, pos := pos, cmd := cmd, detail := pcn / 2 + 256 * (pcn % 2) }

/-- The first 32-byte access of a physical range that a read, or a write, cannot complete (R296, R463). -/
def firstUncorr (s : State) (hpa n : Nat) (write : Bool) : Option Nat :=
  ((units32 hpa n).find? (fun u =>
    if !write then hbmUncorr s (u * 32) 32
    else
      let l := u / 8
      let whole := decide (hpa ≤ l * 256) && decide (l * 256 + 256 ≤ hpa + n)
      let covers := decide (hpa ≤ u * 32) && decide (u * 32 + 32 ≤ hpa + n)
      hbmUncorr s (u * 32) 32 && !(covers && (whole || !hbmUncorr { s with hbmBad := [] } (u * 32) 32)))).map (· * 32)

/-- The addresses of the page-table entries that a walk reads from a table at a level, in order, by fuel. -/
def walkReads (s : State) (d : DieId) (part va : Nat) : Nat → Nat → Nat → List Nat
  | 0, _, _ => []
  | fuel + 1, lv, table =>
    let e := table + 8 * levelIndex lv va
    if farDown s d table || !inRegion (getDie s (hpaDie table)) part (hpaOff table) (levelSize lv) then []
    else e :: match readPhys s d e 8 with
      | .ok bs =>
        let pte := leNat bs
        if bit pte 0 && !bit pte 1 && !pteBad lv pte then walkReads s d part va fuel (lv + 1) (fld pte 47 16 * 256) else []
      | .error _ => []

/-- The entries that the walk for an address reads. -/
def walkEntries (s : State) (d : DieId) (part va : Nat) : List Nat :=
  walkReads s d part va 4 0 ((getPart (getDie s d) part).ptRoot.toNat * 4096)

/-- The die's controllers take no new access: one changes its rate, and the gates hold their requests (R300), or a stack in use has
no clock (R374). -/
def hbmStopped (d : Die) : Bool :=
  d.mcs.any (fun e => decide (e.2.st = .rateChange)) || (d.ilvValid && d.ilvEn &&& ~~~d.clk.enMc != 0)

/-- Accesses to a die's HBM wait, for its change of rate or behind others that do (R300). -/
def hbmHeld (s : State) (d : DieId) : Bool := hbmStopped (getDie s d) || s.held.any (fun h => h.1 == some d)

/-- The dies of this module whose HBM an access to a range of virtual addresses reaches, in its page tables or in its data. -/
def rangeDies (s : State) (d : DieId) (caches : List Tlb) (part va n : Nat) (write : Bool) : List DieId :=
  (pieces va n).flatMap (fun p =>
    (if (tlbFind caches part p.1).isSome then [] else (walkEntries s d part p.1).map hpaDie)
    ++ (match translate s d caches part p.1 write with
      | .ok (.here h) => [hpaDie h]
      | _ => []))

/-- A range of virtual addresses meets HBM of this module whose controllers change their rate. -/
def rangeHeld (s : State) (d : DieId) (caches : List Tlb) (part va n : Nat) (write : Bool) : Bool :=
  (rangeDies s d caches part va n write).any (fun e => hbmStopped (getDie s e))

/-- An access to the HBM of some dies by a command from outside the gates: it waits where one of them takes no new access. -/
def holdAt (s : State) (ds : List DieId) (c : HostAsk) (t : State) : State :=
  match ds.find? (hbmHeld s) with
  | some d => { s with held := s.held ++ [(some d, c)] }
  | none => t

/-- What the check symbols of a 32-byte access show when it is read (R296). -/
def eccUnit (s : State) (u : Nat) (r : EccResult) : State :=
  let h := u * 32
  let y := getDie s (hpaDie h)
  match r with
  | .good => s
  | .corrected => modMc s (hpaDie h) (stackOf y (hpaOff h) * 32 + channelOf y (hpaOff h)) (fun m =>
      { m with corrected := BitVec.ofNat 16 (satAdd 16 m.corrected.toNat 1) })
  | .uncorrectable => { s with hbmBad := addNew s.hbmBad [u] }

/-- What the check symbols of a read of a list of 32-byte accesses show, by place. -/
def eccUnits (s : State) (us : List Nat) (ecc : List (Nat × EccResult)) : State :=
  ecc.foldl (fun s e => (us[e.1]?).elim s (fun u => eccUnit s u e.2)) s

/-- The 32-byte accesses of this module's HBM that a range of virtual addresses covers. -/
def rangeUnits (s : State) (d : DieId) (caches : List Tlb) (part va n : Nat) : List Nat :=
  (pieces va n).flatMap (fun p => match translate s d caches part p.1 false with
    | .ok (.here h) => units32 h p.2
    | _ => [])

/-- Reads of a list of 32-byte accesses through the homes of their lines. -/
def touchUnits (s : State) (us : List Nat) : State := us.foldl (fun s u => touchLines s (u * 32) 32) s

/-- The HPA of the 32-byte access at which a range of virtual addresses meets MEM_UNCORR, in the page tables or in the data. -/
def uncorrAt (s : State) (d : DieId) (caches : List Tlb) (part va n : Nat) (write : Bool) : Option Nat :=
  (pieces va n).findSome? (fun p =>
    match translate s d caches part p.1 write with
    | .error k => if k = kUncorr then (walkEntries s d part p.1).getLast?.map (fun e => e / 32 * 32) else none
    | .ok (.here h) => firstUncorr s h p.2 write
    | .ok (.peer _ _) => none)

end Sys2Proof.Machine
end

