-- ==== Sys2Proof/Machine/Desc.lean ====
section
/-! DEFINITION. Handles, Tensor Descriptor Table entries, rows and scales of tiles, VPK data and masks (spec/08, spec/09, spec/11). -/

namespace Sys2Proof.Machine

/-! ### Fields of an entry of 512 bits (Table 8.3) -/

def eBaseA (e : Nat) : Nat := fld e 47 0
def eBaseB (e : Nat) : Nat := fld e 111 64
def eExt (e k : Nat) : Nat := fld e (159 + 32 * k) (128 + 32 * k)
def eStride (e k : Nat) : Nat := fld e (255 + 32 * k) (224 + 32 * k)
def eScaleOff (e : Nat) : Nat := fld e 383 352
def eMask (e : Nat) : Nat := fld e 415 384
def eVcount (e : Nat) : Nat := fld e 447 416
def eFmt (e : Nat) : Nat := fld e 452 448
def eSat (e : Nat) : Bool := bit e 453
def eSlayout (e : Nat) : Nat := fld e 455 454
def eTrows (e : Nat) : Nat := fld e 461 456 + 1
def eTcols (e : Nat) : Nat := fld e 467 462 + 1
def eGroup (e : Nat) : Nat := fld e 479 472
def eDigest (e : Nat) : Bool := bit e 480
def eMasked (e : Nat) : Bool := bit e 481
def eVpk (e : Nat) : Bool := bit e 482
def eReadOnly (e : Nat) : Bool := bit e 483
def eVsel (e : Nat) : Bool := bit e 484
def eDual (e : Nat) : Bool := bit e 485
def eMaskBlocks (e : Nat) : Bool := bit e 486
def eGen (e : Nat) : Nat := fld e 494 488
def eValid (e : Nat) : Bool := bit e 495

def tdtEntry (d : Die) (i : Nat) : Nat := tabGet 0 d.tdt i
def setTdt (s : State) (d : DieId) (i v : Nat) : State := modDie s d (fun x => { x with tdt := tabSet 0 x.tdt i v })

/-- The captured entry of a handle that is current for a user of the partition, else none (R220 to R223). -/
def handleEnt (s : State) (d : DieId) (part h : Nat) : Option Nat :=
  let i := fld h 16 0
  let e := tdtEntry (getDie s d) i
  if fld h 31 28 = 0 ∧ fld h 27 21 ≠ 0 ∧ fld h 20 17 = part ∧ ownerTdt s d i = some part ∧ eValid e ∧ eGen e = fld h 27 21
  then some e else none

/-- The version base that a read resolves to (Table 9.3). -/
def readBase (e : Nat) : Nat := if eDual e && eVsel e then eBaseB e else eBaseA e

/-- The version base that a write resolves to (Table 9.3). -/
def writeBase (e : Nat) : Nat := if eDual e && !eVsel e then eBaseB e else eBaseA e

/-- The base of the active or the inactive version by VERS (R241, Table 11.15). -/
def versBase (e : Nat) (inactive : Bool) : Nat := if inactive then writeBase e else readBase e

def fmtOfEnt (e : Nat) : Fmt := (fmtOfCode (eFmt e)).getD .fp32

/-- A block-scaled tensor (R37). -/
def entScaled (e : Nat) : Bool := eSlayout e != 0

/-- Tile coordinates (Table 6.6). A run of tiles that passes index 65,535 of dimension 0 carries its index above bit 64 of the
word. -/
def tc (coord k : Nat) : Nat := fld coord (16 * k + 15) (16 * k) + (if k = 0 then 2 ^ 16 * (coord / 2 ^ 64) else 0)

/-- The coordinate word with dimension 0 moved on by `n` tiles. DESIGN CHOICE (assumption 86): a run goes on past index 65,535,
the last that a coordinate word can name; the spec is silent there. -/
def coordPlus (coord n : Nat) : Nat :=
  let i := tc coord 0 + n
  setFld (coord % 2 ^ 64) 15 0 (i % 2 ^ 16) + 2 ^ 64 * (i / 2 ^ 16)

/-- A row of a tile faults with BOUNDS (R227). -/
def rowOut (e coord r : Nat) : Bool :=
  decide (eTrows e ≤ r) || decide (eExt e 1 ≤ tc coord 1 * eTrows e + r)
    || decide (eExt e 2 ≤ tc coord 2) || decide (eExt e 3 ≤ tc coord 3)

/-- Byte offset, from the version base, of a tile row's first byte (R226, R227). -/
def rowOff (e coord r : Nat) : Nat :=
  32 * ((tc coord 1 * eTrows e + r) * eStride e 1 + tc coord 2 * eStride e 2 + tc coord 3 * eStride e 3)
    + tc coord 0 * eTcols e * fmtBits (fmtOfEnt e) / 8

/-- Columns of a move that lie inside the tile and the tensor (R227). -/
def colsIn (e coord cols : Nat) : Nat := min (min cols (eTcols e)) (eExt e 0 - tc coord 0 * eTcols e)

/-- Byte offset of the scale of element (i0, i1) of a tile's outer indices (R226). -/
def scaleOff (e coord i0 i1 : Nat) : Nat :=
  let plane := tc coord 3 * eExt e 2 + tc coord 2
  256 * eScaleOff e +
    (if eSlayout e = 1 then (plane * eExt e 1 + i1) * ceilDiv (eExt e 0) 32 + i0 / 32
     else (plane * ceilDiv (eExt e 1) 32 + i1 / 32) * eExt e 0 + i0)

/-! ### VPK data (R317, R318) -/

/-- Decodes RUN16 runs, by fuel; none where the procedure's last line is broken. -/
def run16 : Nat → List Byte → Option (List Byte)
  | 0, bs => if bs.isEmpty then some [] else none
  | fuel + 1, bs =>
    match bs with
    | [] => some []
    | c :: r =>
      if c.toNat < 128 then
        let n := 2 * (c.toNat + 1)
        if r.length < n then none else (run16 fuel (r.drop n)).map (fun t => r.take n ++ t)
      else match r with
        | lo :: hi :: r' => (run16 fuel r').map (fun t => (List.replicate (c.toNat - 126) [lo, hi]).flatten ++ t)
        | _ => none

/-- One decoded page of a VPK image at a version base; CHECK_FAIL where it is not valid. -/
def vpkPage (s : State) (d : DieId) (caches : List Tlb) (part base p : Nat) : MemR (List Byte) :=
  match readVA s d caches part base 64 with
  | .fault k => .fault k
  | .ask r => .ask r
  | .ok hdr =>
    let h := leNat hdr
    if fld h 31 0 ≠ 0x314B5056 then .fault kCheckFail
    else if fld h 63 32 ≤ p then .fault kCheckFail
    else match readVA s d caches part (base + 64 + 8 * p) 8 with
      | .fault k => .fault k
      | .ask r => .ask r
      | .ok ib =>
        let ix := leNat ib
        let off := fld ix 31 0 * 16
        let len := fld ix 44 32
        if fld ix 63 47 ≠ 0 then .fault kCheckFail
        else match fld ix 46 45 with
          | 0 => if len = 4096 then readVA s d caches part (base + off) 4096 else .fault kCheckFail
          | 1 => if len = 0 then .ok (List.replicate 4096 0) else .fault kCheckFail
          | 2 => match readVA s d caches part (base + off) len with
            | .fault k => .fault k
            | .ask r => .ask r
            | .ok bs => match run16 (bs.length + 1) bs with
              | some out => if out.length = 4096 ∧ len ≤ 4096 then .ok out else .fault kCheckFail
              | none => .fault kCheckFail
          | _ => .fault kCheckFail

/-- The logical bytes of a VPK version from offset `b` (R317): bytes at or beyond DLEN read as zero. -/
def vpkBytes (s : State) (d : DieId) (caches : List Tlb) (part base : Nat) : Nat → Nat → Nat → MemR (List Byte)
  | 0, _, _ => .ok []
  | fuel + 1, b, n =>
    if n = 0 then .ok []
    else match readVA s d caches part base 64 with
      | .fault k => .fault k
      | .ask r => .ask r
      | .ok hdr =>
        let dlen := fld (leNat hdr) 127 64
        let m := min n (4096 - b % 4096)
        let page : MemR (List Byte) :=
          if fld (leNat hdr) 31 0 ≠ 0x314B5056 then .fault kCheckFail
          else if dlen ≤ b then .ok (List.replicate m 0)
          else match vpkPage s d caches part base (b / 4096) with
            | .ok pg => .ok ((List.range m).map (fun i => if b + i < dlen then pg.getD (b % 4096 + i) 0 else 0))
            | r => r
        joinRead page (vpkBytes s d caches part base fuel (b + m) (n - m))

/-- Bytes of a tensor version at an offset from its base, decompressed where the entry says so (R228). -/
def readEntBytes (s : State) (d : DieId) (caches : List Tlb) (part e base off n : Nat) : MemR (List Byte) :=
  if n = 0 then .ok []
  else if eVpk e then vpkBytes s d caches part base (n / 4096 + 2) off n
  else readVA s d caches part (base + off) n

/-! ### Rows of a tile -/

/-- One row of a tile: packed element bits for `cols` columns, and the row's scale bytes as a number.
For SLAYOUT 0b01 the scales are the row's blocks; for 0b10 they are those of the 32 rows that the row begins (R227). DESIGN CHOICE
(assumption 114): those of columns at or beyond TCOLS inside EXT0 are read. -/
def readRow (s : State) (d : DieId) (caches : List Tlb) (part e base coord r cols : Nat) : MemR (Nat × Nat) :=
  let w := fmtBits (fmtOfEnt e)
  if rowOut e coord r then .fault kBounds
  else
    let n := colsIn e coord cols
    match readEntBytes s d caches part e base (rowOff e coord r) (ceilDiv (n * w) 8) with
    | .fault k => .fault k
    | .ask q => .ask q
    | .ok bs =>
      let bits := leNat bs % 2 ^ (n * w)
      let i0 := tc coord 0 * eTcols e
      let i1 := tc coord 1 * eTrows e + r
      if eSlayout e = 0 then .ok (bits, 0)
      else
        let total := if eSlayout e = 1 then ceilDiv cols 32 else (if r % 32 = 0 then cols else 0)
        let inside := if eSlayout e = 1 then min total (ceilDiv (eExt e 0 - i0) 32) else min total (eExt e 0 - i0)
        match readEntBytes s d caches part e base (scaleOff e coord i0 i1) inside with
        | .fault k => .fault k
        | .ask q => .ask q
        | .ok sb => .ok (bits, leNat (sb ++ List.replicate (total - sb.length) 0x7F))

/-- Writes one row of a tile and its scales; bytes that the row only partly covers keep their other bits. DESIGN CHOICE (assumption
114): the scales of the slot's columns at or beyond TCOLS that lie inside EXT0 are moved. -/
def writeRow (s : State) (d : DieId) (caches : List Tlb) (part e base coord r cols bits scales : Nat) : MemR State :=
  let w := fmtBits (fmtOfEnt e)
  if eReadOnly e then .fault kAccess
  else if rowOut e coord r then .fault kBounds
  else
    let n := colsIn e coord cols
    let nb := ceilDiv (n * w) 8
    let va := base + rowOff e coord r
    let old := if (n * w) % 8 = 0 then MemR.ok (List.replicate nb 0) else readVA s d caches part va nb
    match old with
    | .fault k => .fault k
    | .ask q => .ask q
    | .ok ob =>
      let keep := leNat ob / 2 ^ (n * w) * 2 ^ (n * w)
      match (if nb = 0 then MemR.ok s else writeVA s d caches part va (leBytes nb (keep + bits % 2 ^ (n * w)))) with
      | .fault k => .fault k
      | .ask q => .ask q
      | .ok s1 =>
        let i0 := tc coord 0 * eTcols e
        let i1 := tc coord 1 * eTrows e + r
        let total := if eSlayout e = 1 then ceilDiv cols 32 else if eSlayout e = 2 && r % 32 == 0 then cols else 0
        let inside := if eSlayout e = 1 then min total (ceilDiv (eExt e 0 - i0) 32) else min total (eExt e 0 - i0)
        if inside = 0 then .ok s1
        else writeVA s1 d caches part (base + scaleOff e coord i0 i1) (leBytes inside scales)

/-- Bytes of one line of `n` elements, packed under R30 and rounded as R157 gives. -/
def lineLen (f : Fmt) (n : Nat) : Nat :=
  let m := match fmtBits f with
    | 6 => alignUp n 4
    | 4 => alignUp n 2
    | _ => n
  ceilDiv (m * fmtBits f) 8

/-- Bytes of one tile of a tensor as XFETCH lays it out, without the alignment to 256 (R158). -/
def tileBytes (e : Nat) : Nat := eTrows e * lineLen (fmtOfEnt e) (eTcols e) + (if entScaled e then 128 else 0)

/-- Offset of tile `n` of a run (R158). -/
def tileStep (e n : Nat) : Nat := n * alignUp (tileBytes e) 256

/-- The scale block of a tile, byte 2m + b, from the scales of its rows (R157). -/
def scaleBlock (e : Nat) (rows : List (Nat × Nat)) : List Byte :=
  (List.range 128).map (fun i =>
    let m := i / 2
    let b := i % 2
    if eSlayout e = 1 then BitVec.ofNat 8 (elemAt 8 (rows.getD m (0, 0)).2 b)
    else BitVec.ofNat 8 (elemAt 8 (rows.getD (32 * b) (0, 0)).2 m))

/-- The rows of a tile from row `r` on; joined as accesses are. -/
def readRows (s : State) (d : DieId) (caches : List Tlb) (part e base coord cols : Nat) : Nat → Nat → MemR (List (Nat × Nat))
  | 0, _ => .ok []
  | n + 1, r =>
    match readRow s d caches part e base coord r cols, readRows s d caches part e base coord cols n (r + 1) with
    | .fault k, _ => .fault k
    | _, .fault k => .fault k
    | .ask q, .ask q' => .ask (q ++ q')
    | .ask q, .ok _ => .ask q
    | .ok _, .ask q => .ask q
    | .ok x, .ok xs => .ok (x :: xs)

/-! ### The transfers of a memory gate (R307) -/

/-- The two ranges of a tile's row in memory: its payload and its scales (R227). -/
def rowRanges (e base coord r cols : Nat) : List (Nat × Nat) :=
  let i0 := tc coord 0 * eTcols e
  let i1 := tc coord 1 * eTrows e + r
  let sc := if eSlayout e = 1 then min (ceilDiv cols 32) (ceilDiv (eExt e 0 - i0) 32)
    else if eSlayout e = 2 ∧ r % 32 = 0 then min cols (eExt e 0 - i0) else 0
  [(base + rowOff e coord r, ceilDiv (colsIn e coord cols * fmtBits (fmtOfEnt e)) 8), (base + scaleOff e coord i0 i1, sc)]

/-- Ranges in order, those that follow each other without a gap joined. -/
def joinRanges : List (Nat × Nat) → List (Nat × Nat)
  | [] => []
  | (a, n) :: r =>
    if n = 0 then joinRanges r
    else match joinRanges r with
      | (b, m) :: t => if a + n = b then (a, n + m) :: t else (a, n) :: (b, m) :: t
      | [] => [(a, n)]

/-- The transfers of a range: one per 2,048 contiguous bytes, none across a page of 64 KiB. -/
def rangeTransfers (va n : Nat) : List (Nat × Nat) :=
  (pieces va n).flatMap (fun p =>
    (List.range (ceilDiv p.2 2048)).map (fun i => (p.1 + 2048 * i, min 2048 (p.2 - 2048 * i))))

/-- The transfers of one tile: its payload, then its scales. -/
def tileTransfers (e base coord : Nat) : List (Nat × Nat) :=
  let rows := (List.range (eTrows e)).map (fun r => rowRanges e base coord r (eTcols e))
  let part := fun (k : Nat) => joinRanges (rows.map (fun x => x.getD k (0, 0)))
  (part 0 ++ part 1).flatMap (fun x => rangeTransfers x.1 x.2)

/-- One tile as XFETCH lays it out (R158). -/
def readTile (s : State) (d : DieId) (caches : List Tlb) (part e base coord : Nat) : MemR (List Byte) :=
  match readRows s d caches part e base coord (eTcols e) (eTrows e) 0 with
  | .fault k => .fault k
  | .ask q => .ask q
  | .ok rows =>
    let lines := (rows.map (fun p => leBytes (lineLen (fmtOfEnt e) (eTcols e)) p.1)).flatten
    .ok (lines ++ (if entScaled e then scaleBlock e rows else []))

/-- Writes a tile laid out as XFETCH lays one out, row by row (R200, R289). -/
def writeTileFrom (d : DieId) (caches : List Tlb) (part e base coord : Nat) (bs : List Byte) : Nat → Nat → State → MemR State
  | 0, _, s => .ok s
  | n + 1, r, s =>
    let len := lineLen (fmtOfEnt e) (eTcols e)
    let line := leNat ((bs.drop (r * len)).take len)
    let sb := bs.drop (eTrows e * len)
    let sc := if eSlayout e = 1 then leNat ((sb.drop (2 * r)).take 2)
      else leNat ((List.range (eTcols e)).map (fun m => sb.getD (2 * m + r / 32) 0))
    match writeRow s d caches part e base coord r (eTcols e) line sc with
    | .ok s' => writeTileFrom d caches part e base coord bs n (r + 1) s'
    | x => x

def writeTile (s : State) (d : DieId) (caches : List Tlb) (part e base coord : Nat) (bs : List Byte) : MemR State :=
  writeTileFrom d caches part e base coord bs (eTrows e) 0 s

/-! ### Masks (R254, R255) -/

/-- A mask descriptor meets R254. -/
def maskOk (e : Nat) : Bool :=
  eFmt e == 0x0B && eSlayout e == 0 && !eDual e && eExt e 1 == 1 && eExt e 2 == 1 && eExt e 3 == 1

/-- The bit of a mask's bytes, given from the mask's base; beyond 8 x EXT0 it reads as 1. -/
def maskBit (e : Nat) (byteAt : Nat → Byte) (b : Nat) : Bool :=
  if 8 * eExt e 0 ≤ b then true else (byteAt (b / 8)).toNat.testBit (b % 8)

/-! ### The numeric step level (R58, R266) -/

/-- A NONFINITE event at the step level of a partition on a die: site 0x1FF and context 3 for a reduction link. -/
def stepNonfinite (s : State) (d : DieId) (part site ctx : Nat) : State :=
  modPart s d part (fun p =>
    if p.stepNf then p
    else { p with stepNf := true, nfSite := site, nfCtx := ctx, nfTime := BitVec.ofNat 64 (timeOf s (some d)) })

end Sys2Proof.Machine
end

