-- ==== Sys2Proof/Machine/Tile.lean ====
section
/-! DEFINITION. Tile slots: placement in the banks, reads and writes of elements and lines, scales, marks (spec/04). -/

namespace Sys2Proof.Machine

def getTslot (c : Cell) (t : Nat) : Slot := tabGet {} c.slots t
def setTslot (c : Cell) (t : Nat) (x : Slot) : Cell := { c with slots := tabSet {} c.slots t x }
def getStat (c : Cell) (t : Nat) : Tnstat := tabGet {} c.slotStat t
def setStat (c : Cell) (t : Nat) (x : Tnstat) : Cell := { c with slotStat := tabSet {} c.slotStat t x }

/-- Container width and strips per word (Table 4.1). -/
def contBits (f : Fmt) : Nat :=
  match fmtBits f with
  | 6 => 8
  | w => w
def stripsPerWord (f : Fmt) : Nat :=
  match contBits f with
  | 32 => 1 | 16 => 2 | 8 => 4 | _ => 8

/-- WORDS of R93. -/
def slotWords (f : Fmt) (rows cols : Nat) : Nat := ceilDiv (min (ceilDiv rows 8) (ceilDiv cols 8)) (stripsPerWord f)

def slotFmt (x : Slot) : Fmt := (fmtOfCode x.fmt).getD .fp32

/-- The bank word and bit of element (i, j) of a slot (R96): bank x 128 + word, and low bit. -/
def elemPlace (x : Slot) (t i j : Nat) : Nat × Nat :=
  let w := contBits (slotFmt x)
  let bi := i / 8
  let bj := j / 8
  let octet := (bi + bj + t) % 8
  let bank := 8 * octet + (i % 8 + j % 8) % 8
  let q := ((List.range bi).filter (fun i2 => decide ((bi + bj + 8 - i2) % 8 < ceilDiv x.cols 8))).length
  let word := (x.base + q / stripsPerWord (slotFmt x)) % 128
  (bank * 128 + word, (q % stripsPerWord (slotFmt x)) * 8 * w + (i % 8) * w)

/-- The bits of element (i, j): a 6-bit element occupies bits [5:0] of its container. -/
def readElem (tregs : Tab Nat) (x : Slot) (t i j : Nat) : Nat :=
  let (k, low) := elemPlace x t i j
  fld (tabGet 0 tregs k) (low + fmtBits (slotFmt x) - 1) low

/-- A write of FP19 sets bits [12:0] of its container to zero (R29). -/
def fp19Clear (f : Fmt) (v : Nat) : Nat := if f = .fp19 then v / 2 ^ 13 * 2 ^ 13 else v

/-- Writes an element's container. -/
def writeElem (tregs : Tab Nat) (x : Slot) (t i j v : Nat) : Tab Nat :=
  let (k, low) := elemPlace x t i j
  tabSet 0 tregs k (setFld (tabGet 0 tregs k) (low + contBits (slotFmt x) - 1) low (fp19Clear (slotFmt x) v % 2 ^ fmtBits (slotFmt x)))

/-- Row `i` of a slot, or column `i`, as element bits. -/
def readLine (tregs : Tab Nat) (x : Slot) (t : Nat) (col : Bool) (m : Nat) : List Nat :=
  if col then (List.range x.rows).map (fun i => readElem tregs x t i m)
  else (List.range x.cols).map (fun j => readElem tregs x t m j)

/-- Writes row `m`, or column `m`, of a slot. -/
def writeLine (tregs : Tab Nat) (x : Slot) (t : Nat) (col : Bool) (m : Nat) (vs : List Nat) : Tab Nat :=
  (vs.zipIdx).foldl (fun tr p => if col then writeElem tr x t p.2 m p.1 else writeElem tr x t m p.2 p.1) tregs

/-- Scale byte `k` of a slot's scale store (R94). -/
def readScale (c : Cell) (t k : Nat) : Nat := (tabGet 0 c.scales (t * 128 + k)).toNat
def writeScale (c : Cell) (t k v : Nat) : Cell := { c with scales := tabSet 0 c.scales (t * 128 + k) (BitVec.ofNat 8 v) }

/-- A value times its block scale (R37). A scale of 0xFF makes it NaN whatever the element is; DEDUCED positive, the sign of the
E8M0 NaN of Table 2.4 (assumption 78). -/
def scaledVal (v : Val) (code : Nat) : Val :=
  let sc := decodeScale code
  if sc.isNan then .nan false else mulVal v sc

/-- The value of element (i, j) with its block scale (R37): byte 2m + b of the scale store. -/
def elemVal (c : Cell) (x : Slot) (t i j : Nat) : Val :=
  let v := decodeVal (slotFmt x) (readElem c.tregs x t i j)
  match x.saxis with
  | 1 => scaledVal v (readScale c t (2 * i + j / 32))
  | 2 => scaledVal v (readScale c t (2 * j + i / 32))
  | _ => v

/-- Two slots share a bank word (R95). -/
def overlap (x y : Slot) : Bool := decide (x.base < y.base + y.words) && decide (y.base < x.base + x.words)

/-- A reuse latch tagged with the slot (R102). -/
def dropLatch (p : Nat → Bool) (l : Option Latch) : Option Latch :=
  match l with
  | some x => if p x.slot then none else some x
  | none => none

def dropLatches (p : Nat → Bool) (e : Engine) : Engine :=
  { e with latchA := dropLatch p e.latchA, latchB := dropLatch p e.latchB }

def mapEngines (f : Engine → Engine) (m : CellMem) : CellMem :=
  { m with e0 := f m.e0, e1 := f m.e1, e2 := f m.e2, e3 := f m.e3 }

def getEngine (m : CellMem) : Nat → Engine
  | 0 => m.e0 | 1 => m.e1 | 2 => m.e2 | _ => m.e3
def setEngineOf (m : CellMem) (n : Nat) (e : Engine) : CellMem :=
  match n with
  | 0 => { m with e0 := e } | 1 => { m with e1 := e } | 2 => { m with e2 := e } | _ => { m with e3 := e }

/-- The bank words that hold rows `i` to `i + n - 1` of columns `j` to `j + k - 1` of slot `t`: one of each 8 x 8 block (R96). -/
def rectWords (x : Slot) (t i n j k : Nat) : List Nat :=
  if n = 0 ∨ k = 0 then []
  else (List.range ((i + n - 1) / 8 - i / 8 + 1)).flatMap (fun a =>
    (List.range ((j + k - 1) / 8 - j / 8 + 1)).map (fun b => (elemPlace x t (8 * (i / 8 + a)) (8 * (j / 8 + b))).1 % 128))

/-- The bank words of line `m` of a slot: a row, or a column. -/
def lineWords (x : Slot) (t : Nat) (col : Bool) (m : Nat) : List Nat :=
  if col then rectWords x t 0 x.rows m 1 else rectWords x t m 1 0 x.cols

/-- Some of the words are allocated to the slot (R93). -/
def holdsWord (x : Slot) (ws : List Nat) : Bool := ws.any (fun w => decide (x.base ≤ w) && decide (w < x.base + x.words))

/-- What a write of bank words does to marks and latches: SRC_VALID of every slot that a word is allocated to clears, and the
latches tagged with it drop (R102, R117). -/
def wroteWords (x : CellAll) (ws : List Nat) : CellAll :=
  let hit : Nat → Bool := fun t => holdsWord (getTslot x.c t) ws
  { c := { x.c with slots := (List.range 64).foldl (fun sl t =>
      let y := tabGet {} sl t
      if hit t && y.srcValid then tabSet {} sl t { y with srcValid := false } else sl) x.c.slots }
    m := mapEngines (dropLatches hit) x.m }

/-! ### The cell store -/

def storeSize : Nat := 0x100000

def readStore (m : CellMem) (off n : Nat) : List Byte := tabRead 0 m.store off n

/-- The places in a scale block of the scales that move with line `m`: those of the line's own blocks, or, for a line across the
blocks, those of the blocks that begin in it (R94, R157). -/
def lineScales (y : Slot) (col : Bool) (m : Nat) : List Nat :=
  let n := if col then y.rows else y.cols
  if y.saxis = 0 then []
  else if decide (y.saxis = 2) == col then (List.range (ceilDiv n 32)).map (fun b => 2 * m + b)
  else if m % 32 = 0 then (List.range n).map (fun i => 2 * i + m / 32)
  else []

/-- The bytes of the cell store that the TLD of a slot read meet a range: its lines, and the scales after the last one (R117). -/
def srcHit (y : Slot) (off n : Nat) : Bool :=
  let lines := if y.srcCol then y.cols else y.rows
  let len := lineLen (slotFmt y) (if y.srcCol then y.rows else y.cols)
  let scales := y.srcOff + (lines - 1) * y.srcPitch + len
  (List.range lines).any (fun m =>
    (decide (y.srcOff + m * y.srcPitch < off + n) && decide (off < y.srcOff + m * y.srcPitch + len))
      || (lineScales y y.srcCol m).any (fun k => decide (off ≤ scales + k) && decide (scales + k < off + n)))

/-- Bytes written into the cell store; a slot whose retry source they touch loses SRC_VALID (R117). -/
def writeStore (x : CellAll) (off : Nat) (bs : List Byte) : CellAll :=
  let n := bs.length
  let hit : Slot → Bool := fun y => srcHit y off n
  { c := { x.c with slots := (List.range 64).foldl (fun sl t =>
      let y := tabGet {} sl t
      if y.srcValid && hit y then tabSet {} sl t { y with srcValid := false } else sl) x.c.slots }
    m := { x.m with store := tabWrite 0 x.m.store off bs } }

end Sys2Proof.Machine
end

