-- ==== Sys2Proof/Machine/Flags.lean ====
section
/-! DEFINITION. Numeric status: TNSTAT and the four levels of NONFINITE (R57 to R59). -/

namespace Sys2Proof.Machine

/-! ### Numeric flags (R57 to R59) -/

/-- Joins flags into TNSTAT; LX_UNDER saturates. -/
def joinStat (t : Tnstat) (f : Flg) : Tnstat :=
  { nonfinite := t.nonfinite || f.nonfinite, intSat := t.intSat || f.intSat, convSat := t.convSat || f.convSat,
    lxOvf := t.lxOvf || f.lxOvf, lxInexact := t.lxInexact || f.lxInexact, lxUnder := satAdd 16 t.lxUnder f.lxUnder }

/-- One NONFINITE event at the stream, context and step levels (R58). -/
def streamNonfinite (s : State) (l : StreamLoc) : State :=
  let s := modStream s l (fun t => { t with nonfinite := true })
  let s := modC s (cellOf l) (fun c => match ctxOf l.stream with
    | 0 => { c with ctxNfF := true }
    | 1 => { c with ctxNfB := true }
    | _ => { c with ctxNfU := true })
  match ownerCell s (cellOf l) with
  | some p => stepNonfinite s l.die p l.site (ctxOf l.stream)
  | none => s

/-- Flags of an instruction that writes tile slot `t`. -/
def flagSlot (s : State) (l : StreamLoc) (t : Nat) (f : Flg) : State :=
  let s := modC s (cellOf l) (fun c => setStat c t (joinStat (getStat c t) f))
  if f.nonfinite then streamNonfinite s l else s

/-- Flags of an operation on accumulator tile `pt`. -/
def flagAcc (s : State) (l : StreamLoc) (pt : Nat) (f : Flg) : State :=
  let s := modC s (cellOf l) (fun c =>
    let a := tabGet {} c.accs pt
    { c with accs := tabSet {} c.accs pt { a with stat := joinStat a.stat f } })
  if f.nonfinite then streamNonfinite s l else s

end Sys2Proof.Machine
end

