-- ==== Sys2Proof/Machine/Operands.lean ====
section
/-! DEFINITION. The fields of the 64-bit instruction word and the scalar operands (Tables 6.1 to 6.3, R144 to R147). -/

namespace Sys2Proof.Machine

/-- The opcode of an instruction word (R144). -/
def opcode (w : Nat) : Nat := fld w 7 0

/-- The opcodes that Table 6.1 assigns. -/
def opcodeAssigned (o : Nat) : Bool :=
  decide (o ≤ 0x09) || (decide (0x10 ≤ o) && decide (o ≤ 0x1C)) || (decide (0x20 ≤ o) && decide (o ≤ 0x27))
    || (decide (0x40 ≤ o) && decide (o ≤ 0x49)) || (decide (0x60 ≤ o) && decide (o ≤ 0x67))

/-- The streams that may issue an opcode: access streams 0x40 to 0x46, execute streams 0x60 to 0x67, both otherwise. -/
def opcodeAllowed (o stream : Nat) : Bool :=
  if 0x40 ≤ o ∧ o ≤ 0x46 then !isExec stream
  else if 0x60 ≤ o ∧ o ≤ 0x67 then isExec stream
  else true

/-- The assigned fields of an opcode beside the opcode itself, as high and low bits (Table 6.2). -/
def opFields (o : Nat) : List (Nat × Nat) :=
  if 0x10 ≤ o ∧ o ≤ 0x1C then [(12, 8), (17, 13), (22, 18), (23, 23), (63, 32)]
  else if 0x20 ≤ o ∧ o ≤ 0x27 then [(12, 8), (17, 13), (22, 18), (63, 32)]
  else match o with
    | 0x01 => [(8, 8)]
    | 0x02 => [(11, 8)]
    | 0x03 | 0x04 => [(11, 8)]
    | 0x05 => [(17, 13), (63, 32)]
    | 0x06 => [(31, 8), (63, 32)]
    | 0x07 => [(41, 8)]
    | 0x08 | 0x09 => [(17, 8), (43, 32)]
    | 0x40 | 0x41 => [(23, 8)]
    | 0x42 | 0x43 => [(19, 8)]
    | 0x44 => [(23, 14), (32, 24)]
    | 0x45 | 0x46 => [(9, 8), (19, 15)]
    | 0x47 | 0x48 => [(17, 8), (26, 24)]
    | 0x49 => [(22, 13)]
    | 0x60 => [(56, 8)]
    | 0x61 => [(17, 11)]
    | 0x62 | 0x67 => [(13, 11)]
    | 0x63 => [(47, 11)]
    | 0x64 => [(44, 8), (56, 45), (60, 56)]
    | 0x65 => [(8, 8), (29, 11)]
    | 0x66 => [(25, 11)]
    | _ => []

/-- The word with its assigned fields cleared: the reserved bits that must be zero (R145). -/
def reservedBits (w : Nat) : Nat :=
  (opFields (opcode w)).foldl (fun x f => setFld x f.1 f.2 0) (setFld w 7 0 0)

/-! ### Fields named as Table 6.2 names them -/

def fRD (w : Nat) : Nat := fld w 12 8
def fRS1 (w : Nat) : Nat := fld w 17 13
def fRS2 (w : Nat) : Nat := fld w 22 18
def fIMM (w : Nat) : Nat := fld w 63 32
/-- IMM or END as a signed number. -/
def fIMMs (w : Nat) : Int := signed 32 (fIMM w)

/-! ### Scalar registers (R147) -/

/-- s[r]: s0 reads as zero. -/
def getReg (t : Stream) (r : Nat) : W64 := if r = 0 then 0 else tabGet 0 t.regs r

/-- A write of s[r]; a write of s0 is discarded. -/
def setReg (t : Stream) (r : Nat) (v : W64) : Stream := if r = 0 then t else { t with regs := tabSet 0 t.regs r v }

/-- The second operand: s[RS2], or IMM sign-extended (R147). -/
def secondOperand (t : Stream) (w : Nat) : W64 :=
  if bit w 23 then (BitVec.ofNat 32 (fIMM w)).signExtend 64 else getReg t (fRS2 w)

/-- Bits of s[r] as a number. -/
def regFld (t : Stream) (r hi lo : Nat) : Nat := fld (getReg t r).toNat hi lo

end Sys2Proof.Machine
end

