-- ==== Sys2Proof/Machine/Issue.lean ====
section
/-! DEFINITION. Issue of a stream's next instruction: fetch, exceptions, waits, program counter and loop stack
(R121, R144, R145, R150 to R155, R180 to R184). -/

namespace Sys2Proof.Machine

/-! ### Exception codes (Table 6.19) -/

def xIllegalOp : Nat := 0x01
def xPcRange : Nat := 0x02
def xFormatInvalid : Nat := 0x03
def xFormatPair : Nat := 0x04
def xFormatMismatch : Nat := 0x05
def xSlotRange : Nat := 0x06
def xSlotInvalid : Nat := 0x07
def xTregParity : Nat := 0x08
def xTileOwner : Nat := 0x09
def xAccBound : Nat := 0x0A
def xAccUnbound : Nat := 0x0B
def xEngineMismatch : Nat := 0x0C
def xKRange : Nat := 0x0D
def xSpillInvalid : Nat := 0x0E
def xSpillMismatch : Nat := 0x0F
def xReproViolation : Nat := 0x10
def xDqDirection : Nat := 0x11
def xLoopDepth : Nat := 0x12
def xLoopEnd : Nat := 0x13
def xSemOvf : Nat := 0x14
def xShapeMismatch : Nat := 0x15
def xStoreRange : Nat := 0x16
def xHandleStale : Nat := 0x17
def xTableInvalid : Nat := 0x18
def xImgClosed : Nat := 0x19
def xXfetchFault : Nat := 0x1A
def xNoRoute : Nat := 0x1B

/-- The lowest code among the conditions that hold (R180). -/
def lowestExc : List (Bool × Nat) → Option Nat
  | [] => none
  | (b, c) :: r =>
    match lowestExc r with
    | none => if b then some c else none
    | some x => if b && decide (c < x) then some c else some x

/-! ### Fetch (R144, R208) -/

/-- The length in bytes of the stream's image, if the active Bill gives it one. -/
def imagePlace (s : State) (l : StreamLoc) : Option (Nat × Nat × Nat) :=
  let x := getCell s (cellOf l)
  match x.m.region, (streamOf x.c l.stream).image with
  | some r, some i =>
    let p := tabGet (0, 0) x.m.imageAt (r * 1024 + i)
    some (r, p.1, p.2)
  | _, _ => none

/-- The instruction word at an address of the image; none at or beyond its length, or where it is not a multiple of 8. -/
def wordAt (s : State) (l : StreamLoc) (pc : Nat) : Option Nat :=
  match imagePlace s l with
  | none => none
  | some (r, first, len) =>
    if pc % 8 = 0 ∧ pc < 8 * len then
      some (tabGet 0 (getCell s (cellOf l)).m.iregion (r * 2048 + first + pc / 8)).toNat
    else none

/-! ### Loop stack -/

def inBody (v : LoopLevel) (pc : Nat) : Bool := decide (v.first ≤ pc) && decide (pc ≤ v.last)

/-- The end of the innermost level issues: levels count down, innermost first, outward as levels are popped (R152). -/
def loopBack : List LoopLevel → Nat → List LoopLevel × Nat
  | [], pc => ([], (pc + 8) % 2 ^ 32)
  | v :: r, pc =>
    if v.last = pc then
      if 1 < v.left then ({ v with left := v.left - 1, iter := v.iter + 1 } :: r, v.first)
      else loopBack r pc
    else (v :: r, (pc + 8) % 2 ^ 32)

/-- A taken branch or jump pops the levels that it leaves (R154). -/
def loopLeave (ls : List LoopLevel) (target : Nat) : List LoopLevel :=
  match ls with
  | [] => []
  | v :: r => if inBody v target then v :: r else r.filter (fun w => inBody w target)

/-- A skipped loop counts as the issue of its end instruction for the levels that end there (R151). -/
def loopSkip : List LoopLevel → Nat → List LoopLevel × Option Nat
  | [], _ => ([], none)
  | v :: r, e =>
    if v.last = e then
      if 1 < v.left then ({ v with left := v.left - 1, iter := v.iter + 1 } :: r, some v.first)
      else loopSkip r e
    else
      let p := loopSkip r e
      (v :: p.1, p.2)

/-- The levels and the next address after a loop of no iterations whose end lies at `e` (R151). -/
def skipLoop (ls : List LoopLevel) (e : Nat) : List LoopLevel × Nat :=
  let p := loopSkip ls e
  let next := p.2.getD ((e + 8) % 2 ^ 32)
  (p.1.filter (fun v => inBody v next), next)

/-- The address is the end of an active level (R155). -/
def atLoopEnd (ls : List LoopLevel) (pc : Nat) : Bool := ls.any (fun v => v.last == pc)

/-! ### Events and exceptions -/

/-- STREAM_EVT and CELL_IRQ: kind 0 exception, 1 fault, 2 halt (R184). -/
def streamEvent (s : State) (l : StreamLoc) (k : Nat) : State :=
  match ownerCell s (cellOf l) with
  | none => s
  | some p =>
    let s := modPart s l.die p (fun x => { x with evt := setFld x.evt l.site l.site 1 })
    let x := getPart (getDie s l.die) p
    if x.irqEn then sendIrq s (x.irqAddr.toNat * 4) (x.irqEiid.toNat + k) else s

/-- The time of a stream's die, to the nanosecond. DESIGN CHOICE (assumption 99): two events of a stream that carry one time reach it
in the same beat. -/
def beatNow (s : State) (l : StreamLoc) : Nat := timeOf s (some l.die)

/-- An exception at issue: no effect, both addresses at the instruction (R180). -/
def raiseIssue (s : State) (l : StreamLoc) (code : Nat) : State :=
  streamEvent (modStream s l (fun t => { t with
    st := .exception, exc := code, excPc := t.pc, excOp := none, excAt := some (beatNow s l), wait := .none })) l 0

/-- The stream can take an exception behind its issue point: it runs, or it stands in EXCEPTION. In FAULTED or STOPPED the
reading instruction meets its error when the stream goes on (assumption 79). -/
def takesExc (t : Stream) : Bool := decide (t.st = .running) || decide (t.st = .exception)

/-- The stream can take it now; a stop request of the same beat does not keep it off (R183). -/
def canRaise (s : State) (l : StreamLoc) : Bool :=
  takesExc (getStream s l) || (decide ((getStream s l).st = .stopped) && decide ((getStream s l).stopAt = some (beatNow s l)))

/-- An exception behind the issue point: the next-issue address stays. A stream already in EXCEPTION keeps the record of the older
instruction (R180). -/
def raiseBehind (s : State) (l : StreamLoc) (code op pc xkind : Nat) : State :=
  let t := getStream s l
  let put := fun (t : Stream) => { t with
    st := .exception, exc := code, excPc := BitVec.ofNat 32 pc, excOp := some op, excAt := some (beatNow s l), xkind := xkind
    wait := .none }
  if t.st = .exception then (if t.excOp.any (fun id => decide (id ≤ op)) then s else modStream s l put)
  else streamEvent (modStream s l put) l 0

/-- What the issue of an instruction comes to. -/
inductive Issue where
  /-- It issued; the program counter moves on under the loop stack. -/
  | done (s : State)
  /-- It issued as a taken branch or jump. -/
  | jump (s : State) (target : Nat)
  /-- It issued as a loop, which sets the loop stack and the next address. -/
  | loop (s : State) (levels : List LoopLevel) (next : Nat)
  /-- It issued and stays at its address (HALT). -/
  | stay (s : State)
  | hold (w : Wait)
  | raise (code : Nat)

/-- The stream's set holds one more issued instruction (R446). -/
def countIssue (s : State) (l : StreamLoc) : State := bump s l.die (setStream l.site l.stream) 0 1

/-- Applies the outcome of an issue to the stream. -/
def finishIssue (s : State) (l : StreamLoc) (pc : Nat) (r : Issue) : State :=
  match r with
  | .done s1 => countIssue (modStream s1 l (fun t =>
      let p := loopBack t.loops pc
      { t with loops := p.1, pc := BitVec.ofNat 32 p.2, wait := .none })) l
  | .jump s1 target =>
    if target % 8 ≠ 0 then raiseIssue s l xPcRange
    else countIssue (modStream s1 l (fun t =>
      { t with loops := loopLeave t.loops target, pc := BitVec.ofNat 32 target, wait := .none })) l
  | .loop s1 levels next => countIssue (modStream s1 l (fun t =>
      { t with loops := levels, pc := BitVec.ofNat 32 next, wait := .none })) l
  | .stay s1 => countIssue (modStream s1 l (fun t => { t with wait := .halt })) l
  | .hold w =>
    let s := if w = .memoryLate then askTransfer s l.die (groupOf l.site) (.mask l.site l.stream) else s
    modStream s l (fun t => { t with wait := w })
  | .raise code => raiseIssue s l code

/-- The stream is one that can issue: a present cell whose function is ON or DRAINING, the stream RUNNING. -/
def canIssue (s : State) (l : StreamLoc) : Bool :=
  decide (l.stream < 6) && sitePresent (getDie s l.die) l.site
    && decide ((getStream s l).st = .running) && decide ((getStream s l).wait ≠ .halt)

/-- Issue of the next instruction of a stream under the row of an instruction: nothing happens where the stream does
not run or its next word is another instruction's. -/
def issue (s : State) (l : StreamLoc) (isMine : Nat → Bool) (body : Nat → Issue) : State :=
  if !canIssue s l then s
  else
    let t := getStream s l
    if !isExec l.stream && (getCell s (cellOf l)).c.grant.isSome then modStream s l (fun t => { t with wait := .grant })
    else match wordAt s l t.pc.toNat with
      | none => raiseIssue s l xPcRange
      | some w =>
        if !isMine w then s
        else if !opcodeAssigned (opcode w) || !opcodeAllowed (opcode w) l.stream || reservedBits w != 0 then
          raiseIssue s l xIllegalOp
        else finishIssue s l t.pc.toNat (body w)

/-- The row of one opcode. -/
def isOp (o : Nat) (w : Nat) : Bool := opcode w == o

/-- Raises the lowest exception that holds, else goes on. -/
def orElse (excs : List (Bool × Nat)) (r : Issue) : Issue :=
  match lowestExc excs with
  | some c => .raise c
  | none => r

end Sys2Proof.Machine
end

