-- ==== Sys2Proof/Machine/Scoreboard.lean ====
section
/-! DEFINITION. Instructions in flight: what they read and write, and which wait for which (R116, R138 to R142, R176). -/

namespace Sys2Proof.Machine

/-! ### Instructions in flight -/

def findOp (m : CellMem) (id : Nat) : Option Op := m.ops.find? (fun o => o.id == id)

def removeOp (m : CellMem) (id : Nat) : CellMem := { m with ops := m.ops.filter (fun o => o.id != id) }

def setOp (m : CellMem) (id : Nat) (k : OpKind) : CellMem :=
  { m with ops := m.ops.map (fun o => if o.id = id then { o with kind := k } else o) }

/-- A newly issued instruction takes the next place in the global issue order (R121). -/
def addOp (s : State) (l : StreamLoc) (inst : Option Nat) (k : OpKind) : State :=
  modM s (cellOf l) (fun m => { m with
    ops := m.ops ++ [{ id := m.nextOp, stream := l.stream, pc := (getStream s l).pc.toNat, inst := inst, kind := k }]
    nextOp := m.nextOp + 1 })

/-! ### Slots and store ranges -/

/-- The slots of a ring (R67). -/
def ringSlots (r : Ring) : List Nat := (List.range r.len).map (fun i => (r.slot + i) % 64)

/-- Bytes of a line of a slot, and the store span of a TLD or TST (R157). -/
def moveLine (cfg : Slot) (col : Bool) : Nat := lineLen (slotFmt cfg) (if col then cfg.rows else cfg.cols)
def moveLines (cfg : Slot) (col : Bool) : Nat := if col then cfg.cols else cfg.rows
def movePitch (cfg : Slot) (col : Bool) (pitch : Nat) : Nat := if pitch = 0 then moveLine cfg col else pitch
/-- Offset after the last line, where a block-scaled slot's scale block lies. -/
def moveEnd (cfg : Slot) (col : Bool) (pitch : Nat) : Nat :=
  if moveLines cfg col = 0 then 0 else (moveLines cfg col - 1) * movePitch cfg col pitch + moveLine cfg col
def moveSpan (cfg : Slot) (col : Bool) (pitch : Nat) : Nat := moveEnd cfg col pitch + (if cfg.saxis = 0 then 0 else 128)

/-- Bytes of an XFETCH's range (R158). -/
def xfetchSpan (x : Xfetch) : Nat := (x.nt - 1) * alignUp (tileBytes x.ent) 256 + tileBytes x.ent

/-- Bytes of a full DRAIN result in the store: 64 lines, and the scale block of the formats that always have one (R164). -/
def storeTileSpan (f : Fmt) (rows cols : Nat) : Nat := rows * lineLen f cols + (if fmtAlwaysScaled f then 128 else 0)

/-- The store range of a destination. -/
def destRange (d : Dest) (fmt : Nat) (rows cols : Nat) : Option (Nat × Nat) :=
  match d with
  | .slot _ => none
  | .store off => some (off, storeTileSpan ((fmtOfCode fmt).getD .fp32) rows cols)
  | .desc off e => some (off, tileBytes e)

/-- The sources that an EW operation reads as slots: with SB and with SC (Table 6.8). -/
def ewUsesB (op : Nat) : Bool := [0x01, 0x02, 0x03, 0x04, 0x05, 0x06, 0x09, 0x0A, 0x0B, 0x0C, 0x13].contains op
def ewUsesC (op : Nat) : Bool := [0x04, 0x09, 0x0A].contains op

/-- The slots read by an EW operation. -/
def ewReads (op : Nat) (g : EwArgs) : List Nat :=
  [g.sa] ++ (if ewUsesB op && g.bc != 3 then [g.sb] else []) ++ (if ewUsesC op then [g.sc] else [])

/-- The slots of an OPA's rings of length 1. -/
def fixedSlots (t : Task) : List Nat := (if t.a.len = 1 then [t.a.slot] else []) ++ (if t.b.len = 1 then [t.b.slot] else [])

/-- The slots of an OPA's rings. -/
def taskSlots (t : Task) : List Nat := ringSlots t.a ++ ringSlots t.b

/-- Slots that an instruction in flight reads and writes under the scoreboard; consuming rings are exempt (R138). -/
def opReads (o : Op) : List Nat :=
  match o.kind with
  | .transfer t => if t.store then [t.slot] else []
  | .move m => if m.store then [m.slot] else []
  | .task t => fixedSlots t
  | .opaZero t => fixedSlots t
  | .ew e => if e.out.isSome then [] else ewReads e.op e.g
  | .drain d => if d.fmode = 2 then [d.zslot] else []
  | .redSlot s _ _ _ => [s]
  | _ => []

def opWrites (o : Op) : List Nat :=
  match o.kind with
  | .transfer t => if t.store then [] else [t.slot]
  | .move m => if m.store then [] else [m.slot]
  | .drain d => match d.dest with
    | .slot t => [t]
    | _ => []
  | .ew e => match e.d with
    | .slot t => [t]
    | _ => []
  | _ => []

/-- The cell-store range of an instruction in flight, with true for a write (R139). -/
def opRange (o : Op) : Option (Nat × Nat × Bool) :=
  match o.kind with
  | .move m => some (m.off, moveSpan m.cfg m.col m.pitch, m.store)
  | .xfetch x => some (x.off, xfetchSpan x, true)
  | .cask store _ off _ => some (off, 65536, store)
  | .ew e => e.range
  | .drain d => (destRange d.dest d.fmt 64 64).map (fun p => (p.1, p.2, true))
  | _ => none

/-- Two ranges overlap in a 256-byte unit (R139). -/
def rangeHit (a b : Nat × Nat × Bool) : Bool :=
  (a.2.2 || b.2.2) && decide (0 < a.2.1) && decide (0 < b.2.1)
    && decide (a.1 / 256 ≤ (b.1 + b.2.1 - 1) / 256) && decide (b.1 / 256 ≤ (a.1 + a.2.1 - 1) / 256)

/-- What an instruction would touch: slots read, slots written and a store range. -/
structure Touch where
  reads : List Nat := []
  writes : List Nat := []
  range : Option (Nat × Nat × Bool) := none
  ext : Bool := false
  deriving DecidableEq, Repr

def opTouch (o : Op) : Touch :=
  { reads := opReads o, writes := opWrites o, range := opRange o
    ext := match o.kind with
      | .transfer _ => true
      | .xfetch _ => true
      | _ => false }

def touchHit (a b : Touch) : Bool :=
  a.reads.any (fun s => b.writes.contains s) || a.writes.any (fun s => b.writes.contains s || b.reads.contains s)
    || match a.range, b.range with
      | some x, some y => rangeHit x y
      | _, _ => false

/-- The classes that an access belongs to, against those that a FENCE selects: tile slots, store, external (R176).
Every task accesses tile slots, through consuming rings too. -/
def inClass (o : Op) (ts cs ext : Bool) : Bool :=
  let t := opTouch o
  (ts && (!t.reads.isEmpty || !t.writes.isEmpty || match o.kind with
      | .task _ => true
      | _ => false))
    || (cs && t.range.isSome) || (ext && t.ext)

/-- A cell-scope FENCE before place `id` still holds back accesses of the class of `o` (R176). -/
def fenceBlocks (m : CellMem) (id : Nat) (o : Op) : Bool :=
  m.ops.any (fun f => decide (f.id < id) && match f.kind with
    | .fence ts cs ext => inClass o ts cs ext && m.ops.any (fun y => decide (y.id < f.id) && inClass y ts cs ext)
    | _ => false)

/-- A cell-scope FENCE of external accesses still waits for earlier ones: a later instruction's mask fetch waits too (R176, R256). -/
def extFenced (m : CellMem) : Bool :=
  m.ops.any (fun f => match f.kind with
    | .fence ts cs ext => ext && m.ops.any (fun y => decide (y.id < f.id) && inClass y ts cs ext)
    | _ => false)

/-- The slot lies in the consuming ring of an OPA in flight. -/
def inConsumingRing (m : CellMem) (slot : Nat) : Bool :=
  m.ops.any (fun o => match o.kind with
    | .task t => (t.a.len != 1 && (ringSlots t.a).contains slot) || (t.b.len != 1 && (ringSlots t.b).contains slot)
    | _ => false)

/-- No earlier instruction in flight touches the slots or the store range of one against it (R138, R139). -/
def sbClear (m : CellMem) (o : Op) : Bool := !(m.ops.any (fun y => decide (y.id < o.id) && touchHit (opTouch o) (opTouch y)))

/-- An instruction in flight may act on its slots and store range: it has raised no exception, no earlier one touches them
against it, no fence holds it, and a load into a consuming ring's slot waits while the slot is FILLED (R68, R138, R139, R176). -/
def mayAct (x : CellAll) (o : Op) : Bool :=
  !o.bad && sbClear x.m o && !fenceBlocks x.m o.id o
    && !((opWrites o).any (fun t => inConsumingRing x.m t && (getTslot x.c t).filled && match o.kind with
        | .transfer _ => true
        | .move _ => true
        | _ => false))

/-- The scoreboard holds an instruction that has not issued: one in flight touches its slots or store range against it
(R121, R138, R139, Table 17.5). An OPA and the instructions of an accumulator's chain issue and wait in flight. -/
def sbHolds (m : CellMem) (t : Touch) : Bool := m.ops.any (fun y => touchHit t (opTouch y))

/-- A TCFG of the slot waits (TCFG_WAIT, R104). -/
def tcfgWaits (m : CellMem) (slot : Nat) : Bool :=
  m.ops.any (fun o => match o.kind with
    | .tcfg t _ => t == slot
    | _ => false)

/-- TSLOT_ST.STATE (Table 4.7): 0 READY, 1 LOADING, 2 STOPPED, 3 INVALID. -/
def slotState (x : CellAll) (slot : Nat) : Nat :=
  if x.m.ops.any (fun o => match o.kind with
      | .transfer t => !t.store && t.slot == slot && t.stopped.isSome
      | _ => false) then 2
  else if x.m.ops.any (fun o => match o.kind with
      | .transfer t => !t.store && t.slot == slot
      | .move m => !m.store && m.slot == slot
      | _ => false) then 1
  else if (getTslot x.c slot).invalid then 3 else 0

/-- A slot whose read raises SLOT_INVALID at issue (R113). -/
def slotBad (x : CellAll) (slot : Nat) : Bool := slotState x slot == 3

/-- An instruction that writes a tile slot, the cell store or external memory (R141). -/
def opStores (o : Op) : Bool :=
  !(opWrites o).isEmpty
    || match opRange o with
      | some r => r.2.2
      | none => false
    || match o.kind with
      | .transfer t => t.store
      | _ => false

/-- Removes the fences that hold nothing any more. -/
def sweepFences (m : CellMem) : CellMem :=
  { m with ops := m.ops.filter (fun f => match f.kind with
      | .fence ts cs ext => m.ops.any (fun y => decide (y.id < f.id) && inClass y ts cs ext)
      | _ => true) }

/-! ### The reduction output (R142, R207) -/

/-- The oldest RED in flight of a cell. -/
def firstRed (m : CellMem) : Option Op :=
  m.ops.find? (fun o => match o.kind with
    | .redAcc _ _ _ _ => true
    | .redSlot _ _ _ _ => true
    | _ => false)

end Sys2Proof.Machine
end

