-- ==== Sys2Proof/Machine/Accum.lean ====
section
/-! DEFINITION. Accumulator tiles, bindings, Cask images and the chains of operations on them (R71 to R86, R89). -/

namespace Sys2Proof.Machine

def getAcc (c : Cell) (pt : Nat) : Acc := tabGet {} c.accs pt
def setAcc (c : Cell) (pt : Nat) (a : Acc) : Cell := { c with accs := tabSet {} c.accs pt a }
def getCask (c : Cell) (i : Nat) : Cask := tabGet {} c.casks i
def setCask (c : Cell) (i : Nat) (x : Cask) : Cell := { c with casks := tabSet {} c.casks i x }
def getName (c : Cell) (ctx an : Nat) : NameSt := tabGet .unbound c.names (ctx * 8 + an)
def setName (c : Cell) (ctx an : Nat) (n : NameSt) : Cell := { c with names := tabSet .unbound c.names (ctx * 8 + an) n }
def getChain (c : Cell) (inst : Nat) : Option Chain := c.chains.find? (fun h => h.inst == inst)

/-- The tile that a binding instance holds. -/
def instTile (c : Cell) (inst : Nat) : Option Nat := (getChain c inst).bind Chain.pt

/-- Counts a retirement on an absent unit (R89, Table 17.6). -/
def countAbsent (s : State) (c : CellLoc) : State := bump s c.die (setCellSet c.site) 2 1

/-- Rows of 64 elements of `w` bits from a function, with the flags that the elements raise. -/
def buildRows (w : Nat) (g : Nat → Nat → Nat × Flg) : Tab Nat × Flg :=
  let rows := (List.range 64).map (fun i => (i, (List.range 64).map (g i)))
  (((rows.map (fun p => (p.1, packElems w (p.2.map Prod.fst)))).filter (fun p => p.2 != 0)),
    (rows.map (fun p => (p.2.map Prod.snd).foldl Flg.join {})).foldl Flg.join {})

/-- The bits of element (i, j) of rows of `w`-bit elements. -/
def rowElem (rows : Tab Nat) (w i j : Nat) : Nat := elemAt w (tabGet 0 rows i) j

/-- The exact value of an accumulator element. -/
def accVal (int : Bool) (bits : Nat) : Val := if int then .ofInt (signed 32 bits) else decodeVal .fp32 bits

/-! ### What the instructions issued so far leave on a binding (R73, R81) -/

/-- The image that a binding's issued instructions will hold: image, window, REPRO and N. -/
structure ImgSpec where
  img : Nat
  win : Nat
  repro : Bool
  n : Option Nat
  deriving DecidableEq, Repr

/-- The type and image of a binding after its issued instructions. -/
structure Ahead where
  typed : Bool := false
  int : Bool := false
  spec : Option ImgSpec := none
  deriving DecidableEq, Repr

def aheadOpa (a : Ahead) (int : Bool) (n cask win : Nat) (repro : Bool) : Ahead :=
  { typed := true, int := if a.typed then a.int else int
    spec := if n = 0 then a.spec
      else match a.spec with
        | none => some { img := cask, win := win, repro := repro, n := some n }
        | some x => some { x with n := some (x.n.getD n) } }

def aheadStep (a : Ahead) (k : OpKind) : Ahead :=
  match k with
  | .task t => aheadOpa a t.int t.spillN t.cask t.win t.repro
  | .opaZero t => aheadOpa a t.int t.spillN t.cask t.win t.repro
  | .spill cask win =>
    { a with typed := true, spec := match a.spec with
        | none => some { img := cask, win := win, repro := false, n := none }
        | some x => some x }
  | .resume => { a with typed := true, spec := none }
  | _ => a

/-- The image that a tile holds now. -/
def tileSpec (c : Cell) (a : Acc) : Option ImgSpec :=
  a.img.map (fun i => { img := i, win := (getCask c i).window, repro := (getCask c i).repro, n := (getCask c i).n })

def ahead (x : CellAll) (inst : Nat) : Ahead :=
  let now : Ahead := match instTile x.c inst with
    | some pt => { typed := (getAcc x.c pt).typed, int := (getAcc x.c pt).itype, spec := tileSpec x.c (getAcc x.c pt) }
    | none => {}
  (x.m.ops.filter (fun o => o.inst == some inst)).foldl (fun a o => aheadStep a o.kind) now

/-! ### Tiles -/

/-- A tile is FREE (Table 3.5). -/
def tileFree (c : Cell) (pt : Nat) : Bool := (getAcc c pt).inst.isNone

/-- Binds a tile to an instance and clears it and its TNSTAT (R72). -/
def bindTile (c : Cell) (pt inst ctx an : Nat) : Cell :=
  let c := setAcc c pt { inst := some inst, ctx := ctx, an := an }
  { c with chains := c.chains.map (fun h => if h.inst = inst then { h with pt := some pt } else h) }

/-- Closes an image (R81). -/
def closeImage (c : Cell) (i : Nat) : Cell := setCask c i {}

/-- Frees a tile: its binding instance ends. TNSTAT stays until the next ACC_OPEN (R59, R72). -/
def freeTile (c : Cell) (pt : Nat) : Cell :=
  let a := getAcc c pt
  let c := { c with chains := c.chains.filter (fun h => some h.inst != a.inst) }
  setAcc c pt { stat := a.stat }

/-- An image that a tile may open: closed, and not about to be waited for (R81). -/
def imageFree (c : Cell) (i : Nat) : Bool := !(getCask c i).isOpen

/-- Opens an image for a tile, at zero (R81). -/
def openImage (c : Cell) (pt i win : Nat) (repro : Bool) (n : Option Nat) : Cell :=
  let a := getAcc c pt
  let c := setCask c i { isOpen := true, window := win, owner := a.ctx, an := a.an, pt := pt, repro := repro, n := n }
  setAcc c pt { a with img := some i, repro := repro, spillN := n.getD 0 }

/-- The first operation of a binding's chain. -/
def chainHead (m : CellMem) (inst : Nat) : Option Op := m.ops.find? (fun o => o.inst == some inst)

def isHead (m : CellMem) (o : Op) : Bool :=
  match o.inst with
  | some i => match chainHead m i with
    | some h => h.id == o.id
    | none => false
  | none => false

/-- An operation on a name opened with ANY that is not yet placed (R129). -/
def needsPlacement (c : Cell) (o : Op) : Bool :=
  match o.inst with
  | some i => match getChain c i with
    | some h => h.pt.isNone
    | none => false
  | none => false

/-! ### Spills, RESUME and the image (R79, R83, R84) -/

/-- The tile's contents enter its image and the tile becomes zero; the flags of R52 and R53. -/
def spillTile (s : State) (l : StreamLoc) (pt : Nat) : State :=
  let c := (getCell s (cellOf l)).c
  let a := getAcc c pt
  match a.img with
  | none => s
  | some i =>
    let k := getCask c i
    let L := signed 10 k.window
    let p := buildRows 128 (fun r j =>
      let e := lxEnter 128 L (signed 128 (rowElem k.rows 128 r j)) (accVal a.itype (rowElem a.rows 32 r j))
      (unsigned 128 e.1, e.2))
    let s := modC s (cellOf l) (fun c => setAcc (setCask c i { k with rows := p.1, ovf := k.ovf || p.2.lxOvf }) pt { a with rows := [] })
    flagAcc s l pt p.2

/-- RESUME (R84): the accumulator becomes the rounded sum of image and accumulator, and the image closes. -/
def resumeTile (s : State) (l : StreamLoc) (pt : Nat) : State :=
  let c := (getCell s (cellOf l)).c
  let a := getAcc c pt
  match a.img with
  | none => modC s (cellOf l) (fun c => setAcc c pt { a with typed := true })
  | some i =>
    let k := getCask c i
    let L := signed 10 k.window
    let p := buildRows 32 (fun r j =>
      if k.ovf then (if a.itype then 0 else canonNan .fp32 false, { nonfinite := true })
      else
        let v := addVal false (lxVal L false (signed 128 (rowElem k.rows 128 r j))) (accVal a.itype (rowElem a.rows 32 r j))
        if a.itype then
          let q := convInt .int32 .rne 0 v
          (q.1, { intSat := q.2.convSat })
        else
          let q := convFp .fp32 .rne false 0 v
          (q.1, { nonfinite := q.2.nonfinite }))
    let s := modC s (cellOf l) (fun c => setAcc (closeImage c i) pt
      { a with typed := true, rows := p.1, img := none, spillN := 0, repro := false })
    flagAcc s l pt p.2

/-- What a DRAIN reads (R83): an open image, after its remainder has been spilled, or the tile. The tile becomes FREE. -/
def takeTile (s : State) (l : StreamLoc) (pt : Nat) : State × Taken :=
  let a := getAcc (getCell s (cellOf l)).c pt
  match a.img with
  | none =>
    (modC s (cellOf l) (fun c => freeTile c pt), { rows := a.rows, image := false, int := a.typed && a.itype, win := 0, ovf := false, pt := pt })
  | some i =>
    let rest := match (getCask (getCell s (cellOf l)).c i).n with
      | none => true
      | some n => decide (a.steps % n ≠ 0)
    let s := if rest then spillTile s l pt else s
    let k := getCask (getCell s (cellOf l)).c i
    (modC s (cellOf l) (fun c => freeTile (closeImage c i) pt),
      { rows := k.rows, image := true, int := a.itype, win := k.window, ovf := k.ovf, pt := pt })

/-- The exact value of element (i, j) of what a DRAIN read (R54). -/
def takenVal (t : Taken) (i j : Nat) : Val :=
  if t.image then lxVal (signed 10 t.win) t.ovf (signed 128 (rowElem t.rows 128 i j))
  else accVal t.int (rowElem t.rows 32 i j)

/-! ### Operations that run in their chain without a step of their own (R69, R74, R84) -/

/-- A zero-step OPA: types the tile and opens or fixes the image (R69, R73, R81). -/
def opaZeroTile (c : Cell) (pt : Nat) (int : Bool) (n cask win : Nat) (repro : Bool) : Cell :=
  let a := getAcc c pt
  let a := if a.typed then a else { a with typed := true, itype := int }
  let c := setAcc c pt a
  if n = 0 then c
  else match a.img with
    | none => openImage c pt cask win repro (some n)
    | some i =>
      let k := getCask c i
      let n' := k.n.getD n
      setAcc (setCask c i { k with n := some n' }) pt { a with spillN := n' }

/-- The image that an operation must open is available, or it opens none. -/
def imageReady (c : Cell) (pt : Nat) (opens : Bool) (img : Nat) : Bool :=
  !opens || (getAcc c pt).img.isSome || imageFree c img

/-- An OPA whose ENG field names neither ANY nor the engine of its tile raises ENGINE_MISMATCH at its dispatch and waits there (R90). -/
def engineMismatch (t : Task) (pt : Nat) : Bool := t.eng != 4 && t.eng != pt / 2

/-! ### The input stage of the drain unit (R78, R80, R137) -/

/-- The tile of an operation's binding. -/
def opTile (x : CellAll) (o : Op) : Option Nat := o.inst.bind (instTile x.c)

/-- A SPILL instruction wants the read of its tile: it heads its chain, and its image is available (R84). -/
def spillWants (x : CellAll) (o : Op) (pt : Nat) : Bool :=
  match o.kind with
  | .spill cask _ => isHead x.m o && imageReady x.c pt true cask
  | _ => false

/-- A tile read waits for the input stage: a DRAIN or a RED of a name at the head of its chain, or a spill. -/
def wantsRead (x : CellAll) (o : Op) (pt : Nat) : Bool :=
  match o.kind with
  | .drain d => d.taken.isNone && isHead x.m o && !o.bad
  | .redAcc _ _ _ none => isHead x.m o
  | .task t => t.st == .running && t.needSpill
  | _ => spillWants x o pt

/-- The age of a request that waits at the input stage: a tile read's is the entry of its tile's last slice, an EW's its issue. -/
def readAge (x : CellAll) (o : Op) : Option Nat :=
  match o.kind with
  | .ew e => if o.bad || e.out.isSome then none else some e.age
  | _ => (opTile x o).bind (fun pt => if wantsRead x o pt then some (getAcc x.c pt).lastSlice else none)

def readAges (x : CellAll) : List Nat := x.m.ops.filterMap (readAge x)

/-- The input stage accepts the read of a tile: nothing holds the output stage, and no older read waits. -/
def inputFree (x : CellAll) (pt : Nat) : Bool :=
  x.m.outHeld.isNone && (readAges x).all (fun n => decide ((getAcc x.c pt).lastSlice ≤ n))

/-- The operation stands at the head of its chain, its tile is bound, and its image is available. A K = 0 OPA keeps the place of
its ring slots in the scoreboard (R69), and a spill takes its turn at the drain unit (R80, R137). -/
def runnable (x : CellAll) (o : Op) : Bool :=
  isHead x.m o && match o.inst.bind (instTile x.c) with
    | none => false
    | some pt => match o.kind with
      | .opaZero t => mayAct x o && (if engineMismatch t pt then takesExc (streamOf x.c o.stream)
        else imageReady x.c pt (t.spillN != 0) t.cask)
      | .spill _ _ => spillWants x o pt && inputFree x pt
      | .resume => true
      | .close => true
      | _ => false

/-- The stream of an instruction in flight. -/
def opLoc (c : CellLoc) (o : Op) : StreamLoc := { die := c.die, site := c.site, stream := o.stream }

/-- A K = 0 OPA with such an ENG field. -/
def mismatched (o : Op) (pt : Nat) : Bool :=
  match o.kind with
  | .opaZero t => engineMismatch t pt
  | _ => false

/-- The instruction waits for RETRY or SKIP with an exception recorded against it (R180). -/
def markBad (s : State) (c : CellLoc) (id : Nat) : State :=
  modM s c (fun m => { m with ops := m.ops.map (fun o => if o.id = id then { o with bad := true } else o) })

/-- Runs one such operation. -/
def runChainOp (s : State) (c : CellLoc) (o : Op) : State :=
  match o.inst.bind (instTile (getCell s c).c) with
  | none => s
  | some pt =>
    if mismatched o pt then raiseBehind (markBad s c o.id) (opLoc c o) xEngineMismatch o.id o.pc 0
    else
    let s := match o.kind with
      | .opaZero t => modC s c (fun k => opaZeroTile k pt t.int t.spillN t.cask t.win t.repro)
      | .spill cask win =>
        let s := modC s c (fun k =>
          let a := getAcc k pt
          let k := if a.img.isNone then openImage k pt cask win false none else k
          setAcc k pt { getAcc k pt with typed := true })
        spillTile s (opLoc c o) pt
      | .resume => resumeTile s (opLoc c o) pt
      | .close => modC s c (fun k =>
          let k := match (getAcc k pt).img with
            | some i => closeImage k i
            | none => k
          freeTile k pt)
      | _ => s
    modM s c (fun m => removeOp m o.id)

/-- Runs every operation of the cell's chains that can run, oldest first (R75). -/
def runChains : Nat → State → CellLoc → State
  | 0, s, _ => s
  | n + 1, s, c =>
    match (getCell s c).m.ops.find? (runnable (getCell s c)) with
    | none => s
    | some o => runChains n (runChainOp s c o) c

/-- The cell settles after an event: chains run as far as they can, and fences that hold nothing go. -/
def settle (s : State) (c : CellLoc) : State :=
  let s := runChains (getCell s c).m.ops.length s c
  modM s c sweepFences

end Sys2Proof.Machine
end

