-- ==== Sys2Proof/Machine/CellControl.lean ====
section
/-! DEFINITION. Control, configuration, stream control registers, scalar work, branches and loops (R104, R145 to R155, R176 to R178). -/

namespace Sys2Proof.Machine

/-- A next state. -/
def nx (s : State) : Res := .next s

/-- An instruction of the stream other than a FENCE has not completed (R178). -/
def streamBusy (m : CellMem) (stream : Nat) : Bool :=
  m.ops.any (fun o => o.stream == stream && match o.kind with
    | .fence _ _ _ => false
    | _ => true)

/-! ### NOP, HALT, FENCE -/

def execNop (l : StreamLoc) (s : State) : Res := nx (issue s l (isOp 0x00) (fun _ => .done s))

/-- HALT waits at its address for HALT_COMPLETE (R178); at the end of an active level it raises LOOP_END (R155). -/
def execHalt (l : StreamLoc) (s : State) : Res :=
  nx (issue s l (isOp 0x01) (fun _ =>
    let t := getStream s l
    orElse [(atLoopEnd t.loops t.pc.toNat, xLoopEnd)] (.stay s)))

/-- The stream enters HALTED once its earlier instructions have completed (R178). -/
def execHaltComplete (l : StreamLoc) (s : State) : Res :=
  let t := getStream s l
  if t.st = .running ∧ t.wait = .halt ∧ streamBusy (getCell s (cellOf l)).m l.stream = false then
    let s1 := modStream s l (fun t => { t with st := .halted, wait := .none })
    match wordAt s l t.pc.toNat with
    | some w => nx (if bit w 8 then streamEvent s1 l 2 else s1)
    | none => nx s1
  else nx s

/-- FENCE (R176): at stream scope it holds its stream; at cell scope it takes a place in the issue order. With EXT it
empties the mask cache (R256). -/
def execFence (l : StreamLoc) (s : State) : Res :=
  nx (issue s l (isOp 0x02) (fun w =>
    let (ts, cs, ext) := (bit w 9, bit w 10, bit w 11)
    let x := getCell s (cellOf l)
    let s1 := if ext then modM s (cellOf l) (fun m => { m with mask := [] }) else s
    if bit w 8 then
      if (ts || cs || ext) && x.m.ops.any (fun o => inClass o ts cs ext) then .done (addOp s1 l none (.fence ts cs ext))
      else .done s1
    else if x.m.ops.any (fun o => o.stream == l.stream && inClass o ts cs ext) then .hold .fence
    else .done s1))

/-! ### Semaphores (R177) -/

def getSem (c : Cell) (n : Nat) : Nat := (tabGet 0 c.sems n).toNat
def setSem (c : Cell) (n v : Nat) : Cell := { c with sems := tabSet 0 c.sems n (BitVec.ofNat 8 v) }

/-- Earlier streams of the cell, in the order of R121, that can take a unit of the semaphore in this beat. -/
def semAhead (s : State) (l : StreamLoc) (n : Nat) : Nat :=
  ((List.range l.stream).filter (fun k =>
    let e : StreamLoc := { l with stream := k }
    canIssue s e && decide ((getStream s e).wait = .semaphore) && (isExec k || (getCell s (cellOf l)).c.grant.isNone)
      && (wordAt s e (getStream s e).pc.toNat).any (fun w => isOp 0x03 w && fld w 11 8 == n))).length

def execSemacq (l : StreamLoc) (s : State) : Res :=
  nx (issue s l (isOp 0x03) (fun w =>
    let n := fld w 11 8
    let v := getSem (getCell s (cellOf l)).c n
    if v ≤ semAhead s l n then .hold .semaphore else .done (modC s (cellOf l) (fun c => setSem c n (v - 1)))))

/-- Releases of a semaphore that have issued and have not been applied, and its value (R177, R199). -/
def semPending (x : CellAll) (n : Nat) : Nat :=
  getSem x.c n
    + (x.m.ops.filter (fun o => match o.kind with
        | .semrel k => k == n
        | _ => false)).length
    + (x.c.semWait.filter (fun k => k.2 == n)).length

def execSemrel (l : StreamLoc) (s : State) : Res :=
  nx (issue s l (isOp 0x04) (fun w =>
    let n := fld w 11 8
    orElse [(decide (255 ≤ semPending (getCell s (cellOf l)) n), xSemOvf)] (.done (addOp s l none (.semrel n)))))

/-- The increment, once the stream's earlier writes have completed and the value is below 255 (R141, R177). -/
def execSemrelApply (c : CellLoc) (op : Nat) (s : State) : Res :=
  let x := getCell s c
  match findOp x.m op with
  | some o => match o.kind with
    | .semrel n =>
      if x.m.ops.any (fun y => decide (y.id < op) && y.stream == o.stream && opStores y) || decide (255 ≤ getSem x.c n) then nx s
      else nx (modM (modC s c (fun k => setSem k n (getSem k n + 1))) c (fun m => removeOp m op))
    | _ => nx s
  | none => nx s

/-! ### Loops (R150, R151, R155) -/

/-- What a LOOP or LOOPI raises at issue. -/
def loopExcs (t : Stream) (w count : Nat) : List (Bool × Nat) :=
  [(decide (fIMMs w ≤ 0) || fIMMs w % 8 != 0, xPcRange), (decide (0 < count) && decide (4 ≤ t.loops.length), xLoopDepth),
    (atLoopEnd t.loops t.pc.toNat, xLoopEnd)]

/-- Entry to a loop with a count. -/
def enterLoop (s : State) (l : StreamLoc) (w count : Nat) : Issue :=
  let t := getStream s l
  let pc := t.pc.toNat
  let last := pc + (fIMMs w).toNat
  orElse (loopExcs t w count)
    (if count = 0 then
      let p := skipLoop t.loops last
      .loop s p.1 p.2
    else .loop s ({ first := pc + 8, last := last, left := count, iter := 0 } :: t.loops) (pc + 8))

def execLoop (l : StreamLoc) (s : State) : Res :=
  nx (issue s l (isOp 0x05) (fun w => enterLoop s l w (regFld (getStream s l) (fRS1 w) 31 0)))

def execLoopi (l : StreamLoc) (s : State) : Res :=
  nx (issue s l (isOp 0x06) (fun w => enterLoop s l w (fld w 31 8)))

/-! ### TCFG (R93, R94, R104) -/

/-- The configuration that a TCFG word gives. -/
def tcfgOf (w : Nat) : Slot :=
  let fmt := fld w 18 14
  let rows := fld w 25 19
  let cols := fld w 32 26
  { fmt := fmt, rows := rows, cols := cols, saxis := fld w 34 33, base := fld w 41 35
    words := slotWords ((fmtOfCode fmt).getD .fp32) rows cols }

/-- The formats that a slot may hold (Table 4.1). -/
def slotFmtOk (fmt : Nat) : Bool :=
  match fmtOfCode fmt with
  | some f => fmtOutput f
  | none => false

/-- SAXIS against the format (R94). -/
def saxisOk (fmt saxis : Nat) : Bool :=
  match fmtOfCode fmt with
  | some f => saxis != 3 && !(saxis == 0 && fmtAlwaysScaled f) && (saxis == 0 || fmtMayScale f)
  | none => false

/-- What a TCFG raises at issue (R93, R94). -/
def tcfgExcs (c : Slot) : List (Bool × Nat) :=
  [(decide (64 < c.rows) || decide (64 < c.cols) || decide (128 < c.base + c.words), xSlotRange),
    (!slotFmtOk c.fmt || !saxisOk c.fmt c.saxis, xFormatInvalid)]

def execTcfg (l : StreamLoc) (s : State) : Res :=
  nx (issue s l (isOp 0x07) (fun w =>
    let c := tcfgOf w
    orElse (tcfgExcs c)
      (.done (addOp s l none (.tcfg (fld w 13 8) c)))))

/-- An OPA or an earlier TCFG that still needs the slot's configuration (R104). -/
def needsConfig (o : Op) (slot : Nat) : Bool :=
  match o.kind with
  | .task t => (taskSlots t).contains slot
  | .opaZero t => (taskSlots t).contains slot
  | .tcfg k _ => k == slot
  | _ => false

/-- A waiting TCFG applies: GEN counts, marks and TNSTAT clear, latches of the slot drop (R104). -/
def execTcfgApply (c : CellLoc) (op : Nat) (s : State) : Res :=
  let x := getCell s c
  match findOp x.m op with
  | some o => match o.kind with
    | .tcfg t cfg =>
      if x.m.ops.any (fun y => decide (y.id < op) && needsConfig y t) then nx s
      else
        let s := modC s c (fun k => setStat (setTslot k t { cfg with gen := ((getTslot k t).gen + 1) % 256 }) t {})
        nx (modM s c (fun m => removeOp (mapEngines (dropLatches (fun n => n == t)) m) op))
    | _ => nx s
  | none => nx s

/-! ### Stream control registers (R149, Table 6.5) -/

/-- CELL_ID. -/
def cellId (s : State) (c : CellLoc) : Nat := logicalCell (getDie s c.die) c.site + 2 ^ 8 * c.site + 2 ^ 17 * dieNum c.die

/-- The value of a listed stream control register. -/
def scrValue (s : State) (l : StreamLoc) (n : Nat) : Option W64 :=
  let t := getStream s l
  match n with
  | 0 => some t.sr
  | 1 | 2 | 3 | 4 => some (BitVec.ofNat 64 ((t.loops.reverse[n - 1]?).map LoopLevel.iter |>.getD 0))
  | 8 => some (BitVec.ofNat 64 (cellId s (cellOf l)))
  | 9 => some (BitVec.ofNat 64 (ctxOf l.stream + 4 * b2n (isExec l.stream)))
  | _ => none

def execScrr (l : StreamLoc) (s : State) : Res :=
  nx (issue s l (isOp 0x08) (fun w => match scrValue s l (fld w 43 32) with
    | some v => .done (modStream s l (fun t => setReg t (fRD w) v))
    | none => .raise xIllegalOp))

def execScrw (l : StreamLoc) (s : State) : Res :=
  nx (issue s l (isOp 0x09) (fun w =>
    if fld w 43 32 = 0 then .done (modStream s l (fun t => { t with sr := srSeed (getReg t (fRS1 w)) }))
    else .raise xIllegalOp))

/-! ### Scalar work (Table 6.4) -/

/-- A scalar operation of two operands. -/
def scalar (s : State) (l : StreamLoc) (o : Nat) (f : W64 → W64 → W64) : Res :=
  nx (issue s l (isOp o) (fun w =>
    .done (modStream s l (fun t => setReg t (fRD w) (f (getReg t (fRS1 w)) (secondOperand t w))))))

/-- b[5:0]. -/
def shamt (b : W64) : Nat := fld b.toNat 5 0

def execAdd (l : StreamLoc) (s : State) : Res := scalar s l 0x10 (fun a b => a + b)
def execSub (l : StreamLoc) (s : State) : Res := scalar s l 0x11 (fun a b => a - b)
def execAnd (l : StreamLoc) (s : State) : Res := scalar s l 0x12 (fun a b => a &&& b)
def execOr (l : StreamLoc) (s : State) : Res := scalar s l 0x13 (fun a b => a ||| b)
def execXor (l : StreamLoc) (s : State) : Res := scalar s l 0x14 (fun a b => a ^^^ b)
def execSll (l : StreamLoc) (s : State) : Res := scalar s l 0x15 (fun a b => a <<< shamt b)
def execSrl (l : StreamLoc) (s : State) : Res := scalar s l 0x16 (fun a b => a >>> shamt b)
def execSra (l : StreamLoc) (s : State) : Res := scalar s l 0x17 (fun a b => a.sshiftRight (shamt b))
def execMul (l : StreamLoc) (s : State) : Res := scalar s l 0x18 (fun a b => a * b)
def execSlt (l : StreamLoc) (s : State) : Res := scalar s l 0x19 (fun a b => if a.toInt < b.toInt then 1 else 0)
def execSltu (l : StreamLoc) (s : State) : Res := scalar s l 0x1A (fun a b => if a.toNat < b.toNat then 1 else 0)

/-- LI takes IMM whatever IMMSEL is. -/
def execLi (l : StreamLoc) (s : State) : Res :=
  nx (issue s l (isOp 0x1B) (fun w =>
    .done (modStream s l (fun t => setReg t (fRD w) ((BitVec.ofNat 32 (fIMM w)).signExtend 64)))))

def execLih (l : StreamLoc) (s : State) : Res :=
  nx (issue s l (isOp 0x1C) (fun w =>
    .done (modStream s l (fun t => setReg t (fRD w)
      (BitVec.ofNat 64 (fld (getReg t (fRS1 w)).toNat 31 0 + 2 ^ 32 * fIMM w))))))

/-! ### Branches and jumps (R148, R154, R155) -/

/-- PC + IMM. -/
def pcPlus (pc : Nat) (i : Int) : Nat := unsigned 32 ((pc : Int) + i)

/-- A branch that compares two scalar registers. -/
def branch (s : State) (l : StreamLoc) (o : Nat) (f : W64 → W64 → Bool) : Res :=
  nx (issue s l (isOp o) (fun w =>
    let t := getStream s l
    let taken := f (getReg t (fRS1 w)) (getReg t (fRS2 w))
    let target := pcPlus t.pc.toNat (fIMMs w)
    orElse [(taken && target % 8 != 0, xPcRange), (atLoopEnd t.loops t.pc.toNat, xLoopEnd)]
      (if taken then .jump s target else .done s)))

def execBeq (l : StreamLoc) (s : State) : Res := branch s l 0x20 (fun a b => a == b)
def execBne (l : StreamLoc) (s : State) : Res := branch s l 0x21 (fun a b => a != b)
def execBlt (l : StreamLoc) (s : State) : Res := branch s l 0x22 (fun a b => decide (a.toInt < b.toInt))
def execBge (l : StreamLoc) (s : State) : Res := branch s l 0x23 (fun a b => decide (b.toInt ≤ a.toInt))
def execBltu (l : StreamLoc) (s : State) : Res := branch s l 0x24 (fun a b => decide (a.toNat < b.toNat))
def execBgeu (l : StreamLoc) (s : State) : Res := branch s l 0x25 (fun a b => decide (b.toNat ≤ a.toNat))

/-- A jump that links: rd = PC + 8. -/
def jumpTo (s : State) (l : StreamLoc) (w target : Nat) : Issue :=
  let t := getStream s l
  orElse [(target % 8 != 0, xPcRange), (atLoopEnd t.loops t.pc.toNat, xLoopEnd)]
    (.jump (modStream s l (fun t => setReg t (fRD w) (BitVec.ofNat 64 (t.pc.toNat + 8)))) target)

def execJal (l : StreamLoc) (s : State) : Res :=
  nx (issue s l (isOp 0x26) (fun w => jumpTo s l w (pcPlus (getStream s l).pc.toNat (fIMMs w))))

def execJr (l : StreamLoc) (s : State) : Res :=
  nx (issue s l (isOp 0x27) (fun w =>
    jumpTo s l w (unsigned 32 (((getReg (getStream s l) (fRS1 w)).toNat : Int) + fIMMs w))))

/-! ### Reserved opcodes (R145, Table 6.8) -/

/-- A reserved opcode, an opcode of the other kind of stream, or a reserved OP of EW, whose DKIND may give the lower code (R180). -/
def execReservedOpcodeIssue (l : StreamLoc) (s : State) : Res :=
  nx (issue s l (fun w => !opcodeAssigned (opcode w) || !opcodeAllowed (opcode w) l.stream
      || (opcode w == 0x64 && decide (0x18 ≤ fld w 13 8)))
    (fun w => orElse [(opcode w == 0x64 && fld w 55 54 == 3, xIllegalOp)] (.raise xFormatInvalid)))

end Sys2Proof.Machine
end

