-- ==== Sys2Proof/Machine/CellMoves.lean ====
section
/-! DEFINITION. Moves: TFETCH, TSTORE, TLD, TST, XFETCH, CASK moves, data queues and WAITV (R105 to R116, R122, R123, R156 to R161). -/

namespace Sys2Proof.Machine

/-! ### Handles and faults -/

/-- The captured entry of a handle used by a cell; the MASK handle of a MASKED entry is checked with it (R222, R223, R257). -/
def cellHandle (s : State) (c : CellLoc) (h : Nat) : Option Nat :=
  (ownerCell s c).bind (fun p => (handleEnt s c.die p h).bind (fun e =>
    if eMasked e && (handleEnt s c.die p (eMask e)).isNone then none else some e))

def cellPart (s : State) (c : CellLoc) : Nat := (ownerCell s c).getD 0

/-- The HPA for the record of R296 of ranges that meet MEM_UNCORR. -/
def uncorrOf (s : State) (c : CellLoc) (rs : List (Nat × Nat)) (write : Bool) : Nat :=
  (rs.findSome? (fun r => uncorrAt s c.die (cellCaches s c) (cellPart s c) r.1 r.2 write)).getD 0

/-- UNIT_SUB of a stream: [1:0] context, [2] kind (Table 18.1). -/
def streamSub (n : Nat) : Nat := ctxOf n + 4 * b2n (isExec n)

/-- The error record of a transfer that faults (R111, R456). -/
def recTransfer (s : State) (l : StreamLoc) (kind va hpa pc row slot : Nat) : State :=
  let pos := row + 128 * slot + 8192 * streamSub l.stream
  if kind = kUncorr then
    recUncorr s l.die (ownerCell s (cellOf l)) hpa 2 (streamSub l.stream) l.site pc pos 0
  else if kindRecords kind then
    logErr s (some l.die) {
      cls := 1, code := kind, part := ownerCell s (cellOf l), unitKind := 2,
      unitSub := streamSub l.stream, unitIndex := l.site, addrKind := 2, addr := va, pc := pc, pos := pos }
  else s

/-! ### TFETCH and TSTORE (R107 to R116, R156) -/

/-- Address of the first byte of row `r` of a transfer. -/
def rowVa (t : Transfer) (r : Nat) : Nat := (if t.store then writeBase t.ent else readBase t.ent) + rowOff t.ent t.coord r

/-- What a TFETCH or TSTORE raises at issue for a current handle; a TF32 slot may take FP32 data (R107). -/
def transferExcs (x : CellAll) (store : Bool) (slot e : Nat) : List (Bool × Nat) :=
  let cfg := getTslot x.c slot
  let fmtOk := eFmt e == cfg.fmt || (!store && cfg.fmt == 0x01 && eFmt e == 0x00)
  [(!fmtOk || eSlayout e != cfg.saxis, xFormatMismatch), (store && slotBad x slot, xSlotInvalid)]

/-- TFETCH and TSTORE at issue; the capture of a write to a dual entry whose group is COMMITTING waits (R261). -/
def issueTransfer (s : State) (l : StreamLoc) (store : Bool) (w : Nat) : Issue :=
  let x := getCell s (cellOf l)
  let t := getStream s l
  let slot := fld w 13 8
  let cfg := getTslot x.c slot
  if tcfgWaits x.m slot then .hold .scoreboard
  else match cellHandle s (cellOf l) (regFld t (fld w 18 14) 31 0) with
    | none => orElse [(store && slotBad x slot, xSlotInvalid)] (.raise xHandleStale)
    | some e =>
      if store && eDual e && (getEpoch (getDie s l.die) (eGroup e)).commit.isSome then .hold .version else
      orElse (transferExcs x store slot e)
        (if sbHolds x.m { reads := if store then [slot] else [], writes := if store then [] else [slot] } then .hold .scoreboard
        else .done (cellWants (addOp s l none (.transfer
          { store := store, slot := slot, cfg := cfg, ent := e, coord := (getReg t (fld w 23 19)).toNat })) (cellOf l) x.m.nextOp))

def execTfetch (l : StreamLoc) (s : State) : Res := nx (issue s l (isOp 0x40) (issueTransfer s l false))
def execTstore (l : StreamLoc) (s : State) : Res := nx (issue s l (isOp 0x41) (issueTransfer s l true))

/-- A move into a slot has written every row: FILLED is set and INVALID cleared unless a TCFG has applied (R68, R105, R113, R117). -/
def filledSlot (x : CellAll) (slot : Nat) (cfg : Slot) (src : Option (Nat × Nat × Bool)) : CellAll :=
  let y := getTslot x.c slot
  if y.gen = cfg.gen then
    let y' := { y with filled := true, invalid := false }
    { x with c := setTslot x.c slot (match src with
        | some (off, pitch, col) => { y' with srcValid := true, srcOff := off, srcPitch := pitch, srcCol := col }
        | none => { y' with srcValid := false }) }
  else { x with c := setTslot x.c slot { y with srcValid := false } }

/-- Writes line `m` of a slot from packed bits, under the configuration that the instruction read. -/
def putLine (x : CellAll) (slot : Nat) (cfg : Slot) (col : Bool) (m bits : Nat) : CellAll :=
  let w := fmtBits (slotFmt cfg)
  let n := if col then cfg.rows else cfg.cols
  let x := wroteWords x (lineWords cfg slot col m)
  { x with c := { x.c with tregs := writeLine x.c.tregs cfg slot col m ((List.range n).map (elemAt w bits)) } }

/-- Line `m` of a slot as packed bits; a move from an FP19 slot clears bits [12:0] (R29). -/
def takeLine (x : CellAll) (slot : Nat) (cfg : Slot) (col : Bool) (m : Nat) : Nat :=
  packElems (fmtBits (slotFmt cfg)) ((readLine x.c.tregs cfg slot col m).map (fp19Clear (slotFmt cfg)))

/-- The scales of a transfer's row: row r's own for blocks along rows, those of 32 rows for blocks along columns (R227). -/
def putRowScales (c : Cell) (slot : Nat) (cfg : Slot) (r bits : Nat) : Cell :=
  if cfg.saxis = 1 then
    (List.range (ceilDiv cfg.cols 32)).foldl (fun c b => writeScale c slot (2 * r + b) (elemAt 8 bits b)) c
  else if cfg.saxis = 2 ∧ r % 32 = 0 then
    (List.range cfg.cols).foldl (fun c j => writeScale c slot (2 * j + r / 32) (elemAt 8 bits j)) c
  else c

def takeRowScales (c : Cell) (slot : Nat) (cfg : Slot) (r : Nat) : Nat :=
  if cfg.saxis = 1 then packElems 8 ((List.range (ceilDiv cfg.cols 32)).map (fun b => readScale c slot (2 * r + b)))
  else if cfg.saxis = 2 ∧ r % 32 = 0 then packElems 8 ((List.range cfg.cols).map (fun j => readScale c slot (2 * j + r / 32)))
  else 0

/-- What the read of a TFETCH's row gives. -/
def fetchRow (s : State) (c : CellLoc) (t : Transfer) (r : Nat) : MemR (Nat × Nat) :=
  readRow s c.die (cellCaches s c) (cellPart s c) t.ent (readBase t.ent) t.coord r t.cfg.cols

/-- The data of a TFETCH's row, or its fault, reaches the cell (R107, R109). -/
def arriveRow (s : State) (c : CellLoc) (op row : Nat) : State :=
  match findOp (getCell s c).m op with
  | some o => match o.kind with
    | .transfer t =>
      if t.store || t.stopped.isSome || decide (row < t.row) then s
      else match fetchRow s c t row with
        | .ok d => dropAnswers (modM s c (fun m => setOp m op (.transfer { t with
            arrived := tabSet none t.arrived row (some d), faults := tabSet 0 t.faults row 0 }))) c.die
        | .fault k => modM s c (fun m => setOp m op (.transfer { t with faults := tabSet 0 t.faults row k }))
        | .ask q => askPeers s c.die (cellPart s c) q
    | _ => s
  | none => s

/-- The next row of a TFETCH commits; the last one completes the transfer (R107). -/
def execTfetchRowCommit (c : CellLoc) (op : Nat) (s : State) : Res :=
  let x := getCell s c
  match findOp x.m op with
  | some o => match o.kind with
    | .transfer t =>
      if t.store || t.stopped.isSome || !mayAct x o then nx s
      else if t.cfg.rows ≤ t.row then
        nx (settle (modM (modCell s c (fun x => filledSlot x t.slot t.cfg none)) c (fun m => removeOp m op)) c)
      else match tabGet none t.arrived t.row with
        | none => nx s
        | some (bits, sc) =>
          let x1 := putLine x t.slot t.cfg false t.row bits
          let x2 := { x1 with c := putRowScales x1.c t.slot t.cfg t.row sc }
          if t.row + 1 = t.cfg.rows then
            let x3 := filledSlot x2 t.slot t.cfg none
            nx (settle (setCell s c { x3 with m := removeOp x3.m op }) c)
          else nx (setCell s c { x2 with m := setOp x2.m op (.transfer { t with
            row := t.row + 1, arrived := tabSet none t.arrived t.row none }) })
    | _ => nx s
  | none => nx s

/-- What the write of a TSTORE's next row gives (R108). -/
def storeRow (s : State) (c : CellLoc) (t : Transfer) : MemR State :=
  let x := getCell s c
  writeRow s c.die (cellCaches s c) (cellPart s c) t.ent (writeBase t.ent) t.coord t.row t.cfg.cols
    (takeLine x t.slot t.cfg false t.row) (takeRowScales x.c t.slot t.cfg t.row)

/-! ### Parity (R117) -/

/-- The count and the record of a read that meets a parity error in a slot that cannot be retried. The bank of the bad byte is a
free value, since the command does not carry it (assumption 24). -/
def recParity (s : State) (c : CellLoc) (o : Op) (unitKind unitSub slot : Nat) : State :=
  let s := modM s c (fun m => { m with perrFailed := BitVec.ofNat 16 (satAdd 16 m.perrFailed.toNat 1) })
  let bank := drawFree s 6
  logErr bank.2 (some c.die) {
    cls := 3, code := 2, part := ownerCell s c, unitKind := unitKind, unitSub := unitSub, unitIndex := c.site, pc := o.pc
    pos := 128 * slot + 8192 * streamSub o.stream, detail := bank.1 }

/-- The reading instruction raises TREG_PARITY and waits there (R117, R180). -/
def parityFail (s : State) (c : CellLoc) (o : Op) (slot : Nat) : State :=
  raiseBehind (markBad (recParity s c o 2 (streamSub o.stream) slot) c o.id) (opLoc c o) xTregParity o.id o.pc 0

/-- The lines of a slot as the store holds them, by the place that the TLD read (R117). -/
def rewriteSlot (x : CellAll) (slot : Nat) : CellAll :=
  let y := getTslot x.c slot
  let len := moveLine y y.srcCol
  let tr := (List.range (moveLines y y.srcCol)).foldl (fun tr m =>
    let bits := leNat (readStore x.m (y.srcOff + m * y.srcPitch) len)
    let n := if y.srcCol then y.rows else y.cols
    writeLine tr y slot y.srcCol m ((List.range n).map (elemAt (fmtBits (slotFmt y)) bits))) x.c.tregs
  { c := { x.c with tregs := tr }, m := mapEngines (dropLatches (fun t => overlap (getTslot x.c t) y)) x.m }

/-- A parity error corrected by a retry from the store (R117, R118). -/
def parityRetry (s : State) (c : CellLoc) (slot : Nat) : State :=
  modM (modCell s c (fun x => rewriteSlot x slot)) c (fun m =>
    { m with perrRetried := BitVec.ofNat 16 (satAdd 16 m.perrRetried.toNat 1) })

/-- An access that waited for the port has been served (R135). -/
def served (m : CellMem) (op : Nat) : CellMem := { m with waits := m.waits.filter (fun i => i != op) }

/-- The store port is not free for a parity-retry read: a grant holds it, or a store write of the drain unit goes first (R133). -/
def portTaken (x : CellAll) : Bool := x.c.grant.isSome || x.m.outHeld.isSome

/-- A read of a slot under R117: a parity error is retried from the store, waiting for the port, or raised; the read then goes on. -/
def withParity (s : State) (c : CellLoc) (o : Op) (slot : Nat) (perr : Bool) (go : State → State) : State :=
  if !perr then go (modM s c (fun m => served m o.id))
  else if (getTslot (getCell s c).c slot).srcValid then
    (if portTaken (getCell s c) then modM s c (fun m => { m with waits := addNew m.waits [o.id] })
    else go (parityRetry (modM s c (fun m => served m o.id)) c slot))
  else if canRaise s (opLoc c o) then parityFail s c o slot
  else s

/-! ### Stopped transfers (R109, R110, R115) -/

/-- A stopped transfer of a stream. -/
def stoppedOf (m : CellMem) (stream : Nat) : List (Op × Transfer) :=
  m.ops.filterMap (fun o => match o.kind with
    | .transfer t => if o.stream = stream ∧ t.stopped.isSome then some (o, t) else none
    | _ => none)

/-- The record of the oldest stopped transfer, where none is held; otherwise MORE (R109, R110, R115). -/
def recordStop (s : State) (l : StreamLoc) : State :=
  modStream s l (fun t =>
    match stoppedOf (getCell s (cellOf l)).m l.stream with
    | [] => t
    | (o, f) :: r =>
      if t.sflt.valid then { t with sflt := { t.sflt with more := !r.isEmpty } }
      else { t with sflt := { t.sflt with
        kind := f.stopped.getD 0, slot := f.slot, row := f.row, store := f.store, more := !r.isEmpty, valid := true
        va := rowVa f f.row % 2 ^ 48, pc := o.pc } })

/-- The stream is told of a faulted transfer, and the host of the stream (R109, R184). DESIGN CHOICE (assumption 100): one in EXCEPTION
or STOPPED keeps that state, which its own action must leave, and becomes FAULTED then. -/
def streamFault (s : State) (l : StreamLoc) : State :=
  match (getStream s l).st with
  | .running => streamEvent (modStream s l (fun t => { t with st := .faulted })) l 1
  | .exception => streamEvent s l 1
  | .stopped => streamEvent s l 1
  | _ => s

/-- The transfer stops at its next row with a fault kind (R109). -/
def stopTransfer (s : State) (c : CellLoc) (o : Op) (t : Transfer) (k : Nat) : State :=
  let l := opLoc c o
  let s := modM s c (fun m => setOp m o.id (.transfer { t with stopped := some k, arrived := [], faults := [] }))
  let s := recordStop s l
  let base := if t.store then writeBase t.ent else readBase t.ent
  let hpa := uncorrOf s c (rowRanges t.ent base t.coord t.row t.cfg.cols) t.store
  streamFault (recTransfer s l k (rowVa t t.row % 2 ^ 48) hpa o.pc t.row t.slot) l

/-- A row of a TSTORE has been accepted: the last one completes it, and one that a stop request waits for stops it at the next row
with KIND ASYNC_STOP (R108, R114). -/
def storedRow (s : State) (c : CellLoc) (o : Op) (t : Transfer) : State :=
  if t.row + 1 = t.cfg.rows then settle (modM s c (fun m => removeOp m o.id)) c
  else if t.stopReq then
    let l := opLoc c o
    let s := modM s c (fun m => setOp m o.id (.transfer { t with row := t.row + 1, stopReq := false, stopped := some kAsyncStop }))
    recordStop (modStream s l (fun t => { t with asyncStop := true })) l
  else modM s c (fun m => setOp m o.id (.transfer { t with row := t.row + 1 }))

/-- The gate has issued the transfer of a TSTORE's next row (R307), and the gate's transfers without it. -/
def rowIssued (s : State) (c : CellLoc) (op row : Nat) : Bool :=
  (getGate (getDie s c.die) (groupOf c.site)).xfers.any (fun x => x.client == .storeRow c.site op row)
def rowDone (s : State) (c : CellLoc) (op row : Nat) : State :=
  modGate s c.die (groupOf c.site) (fun g => { g with xfers := g.xfers.filter (fun x => x.client != .storeRow c.site op row) })

/-- The gate accepts the next row of a TSTORE (R108), whose read of the slot may meet a parity error (R117). -/
def execTstoreRowAccept (c : CellLoc) (r : Reader) (s : State) : Res :=
  let op := r.id
  let x := getCell s c
  match findOp x.m op with
  | some o => match o.kind with
    | .transfer t =>
      if !t.store || t.stopped.isSome || !mayAct x o then nx s
      else if t.cfg.rows ≤ t.row then nx (settle (modM s c (fun m => removeOp m op)) c)
      else if !rowIssued s c op t.row then nx s
      else nx (withParity s c o t.slot r.perr (fun s => match storeRow (rowDone s c op t.row) c t with
        | .ok s1 =>
          storedRow (gateRanges (dropAnswers s1 c.die) c.die (groupOf c.site) (cellPart s c) (rowRanges t.ent (writeBase t.ent) t.coord t.row t.cfg.cols)) c o t
        | .fault _ => s
        | .ask q => askPeers s c.die (cellPart s c) q))
    | _ => nx s
  | none => nx s

/-- The request of a transfer's next row faults: the transfer stops there (R109). -/
def execTransferFault (c : CellLoc) (op : Nat) (s : State) : Res :=
  let x := getCell s c
  match findOp x.m op with
  | some o => match o.kind with
    | .transfer t =>
      if t.stopped.isSome || !mayAct x o then nx s
      else if t.store then
        if t.cfg.rows ≤ t.row || !rowIssued s c op t.row then nx s
        else match storeRow s c t with
          | .fault k => nx (stopTransfer (rowDone s c op t.row) c o t k)
          | _ => nx s
      else
        let k := tabGet 0 t.faults t.row
        if k = 0 then nx s else nx (stopTransfer s c o t k)
    | _ => nx s
  | none => nx s

/-! ### TLD and TST (R157) -/

/-- The offset, pitch and span of a TLD or TST keep the rules of R157. -/
def moveRangeBad (cfg : Slot) (col : Bool) (off pitch : Nat) : Bool :=
  off % 32 != 0 || (pitch != 0 && (pitch % 32 != 0 || decide (pitch < moveLine cfg col)))
    || decide (storeSize < off + moveSpan cfg col pitch)

/-- The operands of a TLD or TST. -/
def moveArgs (s : State) (l : StreamLoc) (store : Bool) (w : Nat) : Move :=
  let t := getStream s l
  { store := store, slot := fld w 13 8, cfg := getTslot (getCell s (cellOf l)).c (fld w 13 8), col := bit w 14
    off := regFld t (fld w 19 15) 19 0, pitch := regFld t (fld w 19 15) 35 20 }

/-- What a TLD or TST raises at issue. -/
def moveExcs (x : CellAll) (mv : Move) : List (Bool × Nat) :=
  [(mv.store && slotBad x mv.slot, xSlotInvalid), (moveRangeBad mv.cfg mv.col mv.off mv.pitch, xStoreRange)]

/-- What a TLD or TST touches, for the scoreboard. -/
def moveTouch (mv : Move) : Touch :=
  { reads := if mv.store then [mv.slot] else [], writes := if mv.store then [] else [mv.slot]
    range := some (mv.off, moveSpan mv.cfg mv.col mv.pitch, mv.store) }

def issueMove (s : State) (l : StreamLoc) (store : Bool) (w : Nat) : Issue :=
  let x := getCell s (cellOf l)
  let mv := moveArgs s l store w
  if tcfgWaits x.m mv.slot then .hold .scoreboard
  else orElse (moveExcs x mv) (if sbHolds x.m (moveTouch mv) then .hold .scoreboard else .done (addOp s l none (.move mv)))

def execTld (l : StreamLoc) (s : State) : Res := nx (issue s l (isOp 0x42) (issueMove s l false))
def execTst (l : StreamLoc) (s : State) : Res := nx (issue s l (isOp 0x43) (issueMove s l true))

/-- Where the scale block of a TLD or TST lies. -/
def moveScales (mv : Move) : Nat := mv.off + moveEnd mv.cfg mv.col mv.pitch

/-- One line of a TLD reaches the slot together with its scales; the last line completes it (R94, R157). -/
def tldLine (x : CellAll) (mv : Move) : CellAll :=
  let m := mv.line
  let len := moveLine mv.cfg mv.col
  let x := if m < moveLines mv.cfg mv.col then
      let y := putLine x mv.slot mv.cfg mv.col m (leNat (readStore x.m (mv.off + m * movePitch mv.cfg mv.col mv.pitch) len));
      { y with c := (lineScales mv.cfg mv.col m).foldl (fun c k =>
          writeScale c mv.slot k (tabGet 0 x.m.store (moveScales mv + k)).toNat) y.c }
    else x
  if m + 1 < moveLines mv.cfg mv.col then x
  else filledSlot x mv.slot mv.cfg (some (mv.off, movePitch mv.cfg mv.col mv.pitch, mv.col))

/-- One line of a TST reaches the store together with its scales. -/
def tstLine (x : CellAll) (mv : Move) : CellAll :=
  let m := mv.line
  let len := moveLine mv.cfg mv.col
  if m < moveLines mv.cfg mv.col then
    let y := writeStore x (mv.off + m * movePitch mv.cfg mv.col mv.pitch) (leBytes len (takeLine x mv.slot mv.cfg mv.col m))
    (lineScales mv.cfg mv.col m).foldl (fun y k => writeStore y (moveScales mv + k) [BitVec.ofNat 8 (readScale x.c mv.slot k)]) y
  else x

/-! ### CASK moves (R159) -/

/-- What a CASKLD or CASKST raises at issue. -/
def caskExcs (x : CellAll) (ctx img off : Nat) : List (Bool × Nat) :=
  let k := getCask x.c img
  [(k.isOpen && k.owner != ctx, xTileOwner), (off % 256 != 0 || decide (storeSize < off + 65536), xStoreRange), (!k.isOpen, xImgClosed)]

def issueCask (s : State) (l : StreamLoc) (store : Bool) (w : Nat) : Issue :=
  let x := getCell s (cellOf l)
  let img := fld w 9 8
  let off := regFld (getStream s l) (fld w 19 15) 19 0
  orElse (caskExcs x (ctxOf l.stream) img off)
    (if sbHolds x.m { range := some (off, 65536, store) } then .hold .scoreboard
    else .done (addOp s l (getAcc x.c (getCask x.c img).pt).inst (.cask store img off 0)))

def execCaskld (l : StreamLoc) (s : State) : Res := nx (issue s l (isOp 0x45) (issueCask s l false))
def execCaskst (l : StreamLoc) (s : State) : Res := nx (issue s l (isOp 0x46) (issueCask s l true))

/-- One line of 256 bytes of a CASK move: 16 elements of 128 bits in row-major order. -/
def caskLine (x : CellAll) (store : Bool) (img off line : Nat) : CellAll :=
  let k := getCask x.c img
  let row := tabGet 0 k.rows (line / 4)
  let low := (line % 4) * 2048
  if store then writeStore x (off + 256 * line) (leBytes 256 (fld row (low + 2047) low))
  else
    let row' := setFld row (low + 2047) low (leNat (readStore x.m (off + 256 * line) 256))
    { x with c := setCask x.c img { k with rows := tabSet 0 k.rows (line / 4) row' } }

/-- A TLD, TST or CASK move that wants the store port for its next line. -/
def wantsPort (x : CellAll) (o : Op) : Bool :=
  mayAct x o && match o.kind with
    | .move _ => true
    | .cask _ _ _ _ => o.inst.isNone || isHead x.m o
    | _ => false

/-- A read of a slot that waits for the port to retry a parity error (R117, R135). -/
def retryOp (m : CellMem) (o : Op) : Bool :=
  m.waits.contains o.id && !o.bad && match o.kind with
    | .transfer t => t.store && t.stopped.isNone
    | .redSlot _ _ _ _ => true
    | .drain d => d.taken.isNone
    | .ew e => e.out.isNone
    | _ => false

/-- A parity retry waits for the port: that of a collector, or of another read. -/
def retryWaits (m : CellMem) : Bool :=
  [m.e0, m.e1, m.e2, m.e3].any (fun e => e.collA.retry.isSome || e.collB.retry.isSome) || m.ops.any (retryOp m)

/-- The port serves a line of this move next: no grant holds the store, no store write of the drain unit and no parity retry waits,
and it is the oldest move that wants the port (R133, R135). -/
def portServes (x : CellAll) (o : Op) : Bool :=
  x.c.grant.isNone && x.m.outHeld.isNone && !retryWaits x.m && (x.m.ops.find? (wantsPort x)).any (fun p => p.id == o.id)

/-- The store port serves one line of a TLD, TST or CASK move; `perr` says that a TST's slot read meets a parity error. -/
def execInternalAccess (c : CellLoc) (op : Nat) (perr : Bool) (s : State) : Res :=
  let x := getCell s c
  match findOp x.m op with
  | some o =>
    if !portServes x o then nx s
    else match o.kind with
    | .move mv =>
      nx (withParity s c o mv.slot (perr && mv.store) (fun s =>
        let x := getCell s c
        let x1 := if mv.store then tstLine x mv else tldLine x mv
        if mv.line + 1 < moveLines mv.cfg mv.col then
          setCell s c { x1 with m := setOp x1.m op (.move { mv with line := mv.line + 1 }) }
        else settle (setCell s c { x1 with m := removeOp x1.m op }) c))
    | .cask store img off line =>
      let x1 := caskLine x store img off line
      let m1 := served x1.m op
      if line + 1 < 256 then nx (setCell s c { x1 with m := setOp m1 op (.cask store img off (line + 1)) })
      else nx (settle (setCell s c { x1 with m := removeOp m1 op }) c)
    | _ => nx s
  | none => nx s

/-! ### XFETCH (R158) -/

/-- The operands of an XFETCH of a captured entry. -/
def xfetchArgs (s : State) (l : StreamLoc) (w e : Nat) : Xfetch :=
  let t := getStream s l
  { ent := e, coord := (getReg t (fld w 23 19)).toNat, off := regFld t (fld w 28 24) 19 0, nt := fld w 32 29 + 1 }

/-- The range of an XFETCH breaks R158. -/
def xfetchRangeBad (x : Xfetch) : Bool := x.off % 256 != 0 || decide (storeSize < x.off + xfetchSpan x)

/-- The requests of an XFETCH at its memory gate: its transfers, and a grant for each part of at most 128 KiB (R134). -/
def xfetchAsks (s : State) (c : CellLoc) (op : Nat) (x : Xfetch) : State :=
  askGrant (cellWants s c op) c.die (groupOf c.site) (List.replicate (ceilDiv (xfetchSpan x) 131072) (.xfetch c.site op))

def execXfetch (l : StreamLoc) (s : State) : Res :=
  nx (issue s l (isOp 0x44) (fun w =>
    let t := getStream s l
    match cellHandle s (cellOf l) (regFld t (fld w 18 14) 31 0) with
    | none => orElse [(regFld t (fld w 28 24) 19 0 % 256 != 0, xStoreRange)] (.raise xHandleStale)
    | some e =>
      let x := xfetchArgs s l w e
      orElse [(xfetchRangeBad x, xStoreRange)]
        (if sbHolds (getCell s (cellOf l)).m { range := some (x.off, xfetchSpan x, true) } then .hold .scoreboard
        else .done (xfetchAsks (addOp s l none (.xfetch x)) (cellOf l) (getCell s (cellOf l)).m.nextOp x))))

/-- The gate transfers of an XFETCH, tile by tile (R307). -/
def xfetchTransfers (x : Xfetch) : List (List (Nat × Nat)) :=
  (List.range x.nt).map (fun n => tileTransfers x.ent (readBase x.ent) (coordPlus x.coord n))

/-- Every tile of an XFETCH, laid out with its gaps (R158); bytes between tiles are not written. -/
def xfetchTiles (s : State) (c : CellLoc) (x : Xfetch) : Nat → MemR (List (Nat × List Byte))
  | 0 => .ok []
  | n + 1 =>
    match xfetchTiles s c x n,
        readTile s c.die (cellCaches s c) (cellPart s c) x.ent (readBase x.ent) (coordPlus x.coord n) with
    | .fault k, _ => .fault k
    | .ok _, .fault k => .fault k
    | .ask _, .fault k => .fault k
    | .ask q, .ask q' => .ask (q ++ q')
    | .ask q, .ok _ => .ask q
    | .ok _, .ask q => .ask q
    | .ok a, .ok b => .ok (a ++ [(tileStep x.ent n, b)])

/-- The first tile and row of an XFETCH that faults, as its number in the run's rows. -/
def xfetchRow (s : State) (c : CellLoc) (x : Xfetch) : Nat :=
  ((List.range (x.nt * eTrows x.ent)).find? (fun i =>
    match readRow s c.die (cellCaches s c) (cellPart s c) x.ent (readBase x.ent) (coordPlus x.coord (i / eTrows x.ent))
        (i % eTrows x.ent) (eTcols x.ent) with
    | .fault _ => true
    | _ => false)).getD 0

/-- The bytes of an XFETCH's range that no grant has written, once grants have begun: free values (assumption 85). -/
def xfetchLoses (s : State) (c : CellLoc) (x : Xfetch) : State :=
  if x.done = 0 then s
  else
    let n := xfetchSpan x - x.done
    let f := drawFree s (8 * n)
    modCell f.2 c (fun y => writeStore y (x.off + x.done) (leBytes n f.1))

/-- XFETCH_FAULT behind the issue point (R158, R180); its requests for grants end. DESIGN CHOICE (assumption 85): the rest of the
range of an XFETCH that faults after its first grant, which R158 leaves undefined, holds free values. -/
def raiseXfetch (s : State) (c : CellLoc) (o : Op) (x : Xfetch) (k : Nat) : State :=
  let s := xfetchLoses s c x
  let s := modGate s c.die (groupOf c.site) (fun g => { g with reqs := g.reqs.filter (fun r => r != .xfetch c.site o.id) })
  let s := modM s c (fun m => setOp m o.id (.xfetch { x with fault := some k }))
  let i := xfetchRow s c x
  let coord := coordPlus x.coord (i / eTrows x.ent)
  let r := i % eTrows x.ent
  let hpa := uncorrOf s c (rowRanges x.ent (readBase x.ent) coord r (eTcols x.ent)) false
  let s := recTransfer s (opLoc c o) k ((readBase x.ent + rowOff x.ent coord r) % 2 ^ 48) hpa o.pc 0 0
  raiseBehind s (opLoc c o) xXfetchFault o.id o.pc k

/-- A row of an XFETCH faults: nothing more is written and the stream enters EXCEPTION. -/
def execXfetchFault (c : CellLoc) (op : Nat) (s : State) : Res :=
  match findOp (getCell s c).m op with
  | some o => match o.kind with
    | .xfetch x =>
      if x.fault.isSome || !mayAct (getCell s c) o || !canRaise s (opLoc c o) then nx s
      else match xfetchTiles s c x x.nt with
        | .fault k => nx (raiseXfetch s c o x k)
        | _ => nx s
    | _ => nx s
  | none => nx s

/-! ### Data queues (R122, R123, R160) -/

def dqKey (ctx q : Nat) : Nat := ctx * 8 + q

/-- DQ0 to DQ5 run from the access stream to the execute stream, DQ6 and DQ7 the other way (R122). -/
def dqPushOk (stream q : Nat) : Bool := if q < 6 then !isExec stream else isExec stream

def execDqpush (l : StreamLoc) (s : State) : Res :=
  nx (issue s l (isOp 0x47) (fun w =>
    let q := fld w 26 24
    let k := dqKey (ctxOf l.stream) q
    let v := tabGet [] (getCell s (cellOf l)).c.queues k
    if !dqPushOk l.stream q then .raise xDqDirection
    else if 16 ≤ v.length then .hold .queueFull
    else .done (modC s (cellOf l) (fun c => { c with queues := tabSet [] c.queues k (v ++ [getReg (getStream s l) (fRS1 w)]) }))))

def execDqpop (l : StreamLoc) (s : State) : Res :=
  nx (issue s l (isOp 0x48) (fun w =>
    let q := fld w 26 24
    let k := dqKey (ctxOf l.stream) q
    if dqPushOk l.stream q then .raise xDqDirection
    else match tabGet [] (getCell s (cellOf l)).c.queues k with
      | [] => .hold .queueEmpty
      | v :: r =>
        .done (modStream (modC s (cellOf l) (fun c => { c with queues := tabSet [] c.queues k r })) l
          (fun t => setReg t (fRD w) v))))

/-! ### WAITV (R161) -/

/-- (V - v) mod 2^32 < 2^31, where V is the VCOUNT of the entry (R161, R259). -/
def versionReached (V v : Nat) : Bool := decide ((V + 2 ^ 32 - v % 2 ^ 32) % 2 ^ 32 < 2 ^ 31)

def execWaitv (l : StreamLoc) (s : State) : Res :=
  nx (issue s l (isOp 0x49) (fun w =>
    let t := getStream s l
    match cellHandle s (cellOf l) (regFld t (fld w 17 13) 31 0) with
    | none => .raise xHandleStale
    | some e => if versionReached (eVcount e) (regFld t (fld w 22 18) 31 0) then .done s else .hold .version))

end Sys2Proof.Machine
end

