-- ==== Sys2Proof/Machine/Convert.lean ====
section
/-! DEFINITION. Element functions, programmable tables, converted tiles and where they are written (R38, R164 to R175). -/

namespace Sys2Proof.Machine

/-! ### Element functions (R171 to R174) -/

/-- Rounds a product and sum once to FP32 under RNE (R174). -/
def fmaFp32 (p t c : Nat) : Nat :=
  toFp32 (addVal false (mulVal (decodeVal .fp32 p) (decodeVal .fp32 t)) (decodeVal .fp32 c))

/-- floor(v / 2^sw) of a finite value; an infinity gives none. -/
def floorScaled (v : Val) (sw : Int) : Option Int :=
  match v with
  | .fin a m e =>
    let k := e - sw
    let q : Int := if 0 ≤ k then (m : Int) * (2 ^ k.toNat : Nat) else ((m : Int) / ((2 ^ (-k).toNat : Nat) : Int))
    let r : Bool := if 0 ≤ k then false else m % 2 ^ (-k).toNat != 0
    some (if a then (if r then -q - 1 else -q) else q)
  | _ => none

def tabCoef (t : Dtab) (s n : Nat) : Nat := (tabGet 0 t.coef (4 * s + n)).toNat

/-- A programmable table's value (R174). A table whose XMIN is not finite has no stated value (assumption 23). -/
def tableEval (t : Dtab) (x : Nat) : Nat :=
  let v := decodeVal .fp32 x
  let x0 := decodeVal .fp32 t.xmin.toNat
  if v.isNan then canonNan .fp32 v.neg
  else if x0.nonfinite then (Config.fixedFn 0x108 x).toNat
  else
    let sw := signed 8 t.sw.toNat
    let raw : Int := (floorScaled (addVal false v (negVal x0)) sw).getD (if v.neg then -1 else 64)
    let seg : Nat := (max 0 (min 63 raw)).toNat
    let start := addVal false x0 (.fin false seg sw)
    let at_ : Nat :=
      if !t.extrap && decide (raw < 0) then 0
      else if !t.extrap && decide (63 < raw) then toFp32 (.fin false 1 sw)
      else toFp32 (addVal false v (negVal start))
    let p := tabCoef t seg 3
    let p := fmaFp32 p at_ (tabCoef t seg 2)
    let p := fmaFp32 p at_ (tabCoef t seg 1)
    fmaFp32 p at_ (tabCoef t seg 0)

def posInf32 : Nat := 0x7F800000
def one32 : Nat := 0x3F800000
def negZero32 : Nat := 0x80000000

/-- f of Table 6.9 at an FP32 input; the limits at infinities and exact functions as R171 and R172 give. -/
def fnEval (ftab : Dtab) (fn x : Nat) : Nat :=
  let v := decodeVal .fp32 x
  match fn with
  | 8 => tableEval ftab x
  | _ =>
    match v with
    | .nan a => canonNan .fp32 a
    | .inf a => match fn with
      | 0 => x
      | 1 => if a then 0 else x
      | 2 | 3 | 4 => if a then negZero32 else x
      | 5 => if a then 0 else one32
      | 6 => if a then 0xBF800000 else one32
      | _ => if a then 0 else x
    | .fin a m _ => match fn with
      | 0 => x
      | 1 => if a && m != 0 then 0 else if m = 0 then toFp32 (maxMin true v .zero) else x
      | _ => boundedFree (Config.fixedFn fn x).toNat (some (fnExact fn v))

/-- f' of Table 6.9. -/
def dfnEval (dtab : Dtab) (fn x : Nat) : Nat :=
  let v := decodeVal .fp32 x
  match fn with
  | 8 => tableEval dtab x
  | _ =>
    match v with
    | .nan a => canonNan .fp32 a
    | .inf a => match fn with
      | 0 => one32
      | 1 => if a then 0 else one32
      | 2 | 3 | 4 => if a then negZero32 else one32
      | 5 | 6 => 0
      | _ => if a then 0 else one32
    | .fin a m _ => match fn with
      | 0 => one32
      | 1 => if !a && m != 0 then one32 else 0
      | _ => boundedFree (Config.fixedDeriv fn x).toNat (some (dfnExact fn v))

/-- EXP, LOG, RSQRT and RECIP by OP code (R172): limits at infinities, an invalid operation gives a positive NaN (R34),
and a pole has no stated value (assumption 20). -/
def transEval (op x : Nat) : Nat :=
  match decodeVal .fp32 x with
  | .nan a => canonNan .fp32 a
  | .inf a => match op with
    | 0x10 => if a then 0 else x
    | 0x11 => if a then canonNan .fp32 false else x
    | 0x0E => if a then canonNan .fp32 false else 0
    | _ => if a then negZero32 else 0
  | .fin a m e =>
    if (op = 0x11 ∨ op = 0x0E) ∧ a ∧ m ≠ 0 then canonNan .fp32 false
    else boundedFree (Config.fixedFn (0x100 + op) x).toNat (transExact op (.fin a m e))

/-- The code of an element function is assigned (Table 6.9). -/
def fnOk (fn : Nat) : Bool := decide (fn ≤ 8)

/-! ### Converted tiles -/

/-- A converted result: rows of element bits, scale codes by their place 2m + b, and flags. -/
structure Conv where
  rows : List (List Nat)
  scales : List (Nat × Nat)
  flags : Flg
  deriving DecidableEq, Repr

def transposeRows (R C : Nat) (cols : List (List Nat)) : List (List Nat) :=
  (List.range R).map (fun i => (List.range C).map (fun j => (cols.getD j []).getD i 0))

/-- One line in blocks of 32 (R38): its element bits, its scale codes and flags. -/
def convLine (f : Fmt) (r : Rnd) : Nat → List Val → List Nat → List Nat × List Nat × Flg
  | 0, _, _ => ([], [], {})
  | n + 1, vs, us =>
    if vs.isEmpty then ([], [], {})
    else
      let b := convBlock f r (vs.take 32) (us.take 32)
      let q := convLine f r n (vs.drop 32) (us.drop 32)
      (b.2.1 ++ q.1, b.1 :: q.2.1, b.2.2.join q.2.2)

/-- Converts an R x C tile of exact values; `draws` in row-major order (R45). -/
def convTile (f : Fmt) (r : Rnd) (sat : Bool) (saxis R C : Nat) (v : Nat → Nat → Val) (draws : List Nat) : Conv :=
  let u := fun i j => draws.getD (i * C + j) 0
  if saxis = 0 then
    let es := (List.range R).map (fun i => (List.range C).map (fun j => conv f r sat (u i j) (v i j)))
    { rows := es.map (fun x => x.map Prod.fst), scales := [], flags := (es.flatten.map Prod.snd).foldl Flg.join {} }
  else
    let n := if saxis = 1 then R else C
    let k := if saxis = 1 then C else R
    let ls := (List.range n).map (fun m =>
      convLine f r 3 ((List.range k).map (fun t => if saxis = 1 then v m t else v t m))
        ((List.range k).map (fun t => if saxis = 1 then u m t else u t m)))
    { rows := if saxis = 1 then ls.map Prod.fst else transposeRows R C (ls.map Prod.fst)
      scales := (ls.zipIdx).flatMap (fun p => (p.1.2.1.zipIdx).map (fun q => (2 * p.2 + q.2, q.1)))
      flags := (ls.map (fun x => x.2.2)).foldl Flg.join {} }

/-- Writes a converted tile into a slot under a configuration, with its scales (R164). -/
def convToSlot (x : CellAll) (slot : Nat) (cfg : Slot) (k : Conv) : CellAll :=
  let x := wroteWords x (rectWords cfg slot 0 k.rows.length 0 ((k.rows.headD []).length))
  let tr := (k.rows.zipIdx).foldl (fun tr p => writeLine tr cfg slot false p.2 p.1) x.c.tregs
  let c := (k.scales).foldl (fun c p => writeScale c slot p.1 p.2) { x.c with tregs := tr }
  { x with c := c }

/-- The bytes of a converted tile in the store: packed lines, then the scales of its blocks after `lines` lines (R158, R164). -/
def convWrites (f : Fmt) (off C lines lineBytes : Nat) (k : Conv) : List (Nat × List Byte) :=
  (k.rows.zipIdx).map (fun p => (off + p.2 * lineBytes, leBytes (lineLen f C) (packElems (fmtBits f) p.1)))
    ++ (k.scales).map (fun p => (off + lines * lineBytes + p.1, [BitVec.ofNat 8 p.2]))

/-- Bytes at their offsets, written into the store in order. -/
def writeStores (x : CellAll) (ws : List (Nat × List Byte)) : CellAll := ws.foldl (fun x p => writeStore x p.1 p.2) x

def convToStore (x : CellAll) (f : Fmt) (off C lines lineBytes : Nat) (k : Conv) : CellAll :=
  writeStores x (convWrites f off C lines lineBytes k)

/-- The SAXIS, SAT and extents that a destination gives a result (R164). -/
structure DestShape where
  saxis : Nat
  sat : Bool
  rows : Nat
  cols : Nat
  deriving DecidableEq, Repr

/-- SLAYOUT 0b01 and 0b10 place scales as SAXIS 0b01 and 0b10. -/
def drainShape (d : DrainOp) : DestShape :=
  match d.dest with
  | .slot _ => { saxis := d.cfg.saxis, sat := d.sat, rows := d.cfg.rows, cols := d.cfg.cols }
  | .store _ => { saxis := if fmtAlwaysScaled ((fmtOfCode d.fmt).getD .fp32) then 1 else 0, sat := d.sat, rows := 64, cols := 64 }
  | .desc _ e => { saxis := eSlayout e, sat := eSat e, rows := eTrows e, cols := eTcols e }

/-- Writes a converted result to its destination. -/
def putConv (x : CellAll) (dest : Dest) (f : Fmt) (cfg : Slot) (rows cols : Nat) (k : Conv) : CellAll :=
  match dest with
  | .slot t => convToSlot x t cfg k
  | .store off => convToStore x f off cols rows (lineLen f cols) k
  | .desc off e => convToStore x f off cols (eTrows e) (lineLen f (eTcols e)) k

/-- Draws of an instruction with `n` elements under its rounding mode (R45). -/
def drawFor (s : State) (l : StreamLoc) (rnd n : Nat) : List Nat × State :=
  if rnd = 4 then
    let p := srDraws (getStream s l).sr n
    (p.1, modStream s l (fun t => { t with sr := p.2 }))
  else ([], s)

end Sys2Proof.Machine
end

