-- ==== Sys2Proof/Machine/CellExec.lean ====
section
/-! DEFINITION. Execute instructions: OPA, ACC_OPEN, ACC_CLOSE, DRAIN, RED, SPILL, RESUME, and the mask cache
(R65 to R75, R84, R162 to R167, R254 to R256). -/

namespace Sys2Proof.Machine

/-! ### ACC_OPEN and ACC_CLOSE (R72, R74, R75, R89, R163) -/

def engEnabled (c : Cell) (e : Nat) : Bool := c.engEn.toNat.testBit e

/-- A new binding instance of a name. -/
def newBinding (x : CellAll) (ctx an : Nat) : CellAll :=
  { c := { setName x.c ctx an (.bound x.m.nextOp) with
      chains := x.c.chains ++ [{ inst := x.m.nextOp, ctx := ctx, an := an, pt := none }] }
    m := { x.m with nextOp := x.m.nextOp + 1 } }

/-- What an ACC_OPEN raises at issue: the tile is owned by another context, or the name is still bound (Table 3.12). -/
def openExcs (x : CellAll) (ctx an : Nat) (any : Bool) (pt : Nat) : List (Bool × Nat) :=
  [(!any && engEnabled x.c (pt / 2) && !tileFree x.c pt && (getAcc x.c pt).ctx != ctx, xTileOwner),
    (match getName x.c ctx an with
      | .bound _ => true
      | _ => false, xAccBound)]

def execAccOpen (l : StreamLoc) (s : State) : Res :=
  nx (issue s l (isOp 0x61) (fun w =>
    let x := getCell s (cellOf l)
    let an := fld w 13 11
    let pt := fld w 17 15
    let ctx := ctxOf l.stream
    orElse (openExcs x ctx an (bit w 14) pt)
      (if bit w 14 then .done (setCell s (cellOf l) (newBinding x ctx an))
      else if !engEnabled x.c (pt / 2) then
        .done (countAbsent (modC s (cellOf l) (fun c => setName c ctx an .absent)) (cellOf l))
      else if tileFree x.c pt then
        let y := newBinding x ctx an
        .done (setCell s (cellOf l) { y with c := bindTile y.c pt x.m.nextOp ctx an })
      else .hold .owner)))

/-- An operation on an accumulator name: an absent name retires it with no effect and is counted (R89); an unbound one raises
ACC_UNBOUND, or the lower code of another condition that holds (R75, R180). DESIGN CHOICE (assumption 101): RED of an absent name,
which R89 does not list, retires so too. -/
def onName (s : State) (l : StreamLoc) (an : Nat) (excs : List (Bool × Nat)) (body : Nat → Issue) : Issue :=
  match getName (getCell s (cellOf l)).c (ctxOf l.stream) an with
  | .unbound => orElse (excs ++ [(true, xAccUnbound)]) (.raise xAccUnbound)
  | .absent => .done (countAbsent s (cellOf l))
  | .bound inst => body inst

/-- The name was opened on a disabled engine: its operations retire at once (R89). -/
def nameAbsent (s : State) (l : StreamLoc) (an : Nat) : Bool :=
  decide (getName (getCell s (cellOf l)).c (ctxOf l.stream) an = .absent)

/-- The binding of a name ends at the issue of DRAIN, RED of the name or ACC_CLOSE (R74). -/
def unbind (s : State) (l : StreamLoc) (an : Nat) : State :=
  modC s (cellOf l) (fun c => setName c (ctxOf l.stream) an .unbound)

/-- Adds an operation to its chain; what can run runs (R75). -/
def chainOp (s : State) (l : StreamLoc) (inst : Nat) (k : OpKind) : State := settle (addOp s l (some inst) k) (cellOf l)

def execAccClose (l : StreamLoc) (s : State) : Res :=
  nx (issue s l (isOp 0x62) (fun w => onName s l (fld w 13 11) [] (fun inst =>
    .done (chainOp (unbind s l (fld w 13 11)) l inst .close))))

/-! ### SPILL and RESUME (R84, R86, R163) -/

/-- What the operations of a chain before one of them leave on the binding (R73, R81). -/
def aheadBefore (x : CellAll) (inst id : Nat) : Ahead :=
  ahead { x with m := { x.m with ops := x.m.ops.filter (fun o => decide (o.id < id)) } } inst

/-- The image that an instruction in flight opens: the one that it names for its spills, where its binding will hold none then. A
later spill goes to the image that the tile holds, whatever it names (R81, R84). -/
def opImage (x : CellAll) (o : Op) : Option Nat :=
  let opens := fun (img : Nat) => if (aheadBefore x (o.inst.getD 0) o.id).spec.isNone then some img else none
  match o.kind with
  | .task t => if t.spillN = 0 then none else opens t.cask
  | .opaZero t => if t.spillN = 0 then none else opens t.cask
  | .spill img _ => opens img
  | _ => none

/-- An image that another pass context owns: it is open, or an OPA or SPILL that opens it has issued (R75, R81). -/
def imageForeign (x : CellAll) (img ctx : Nat) : Bool :=
  ((getCask x.c img).isOpen && (getCask x.c img).owner != ctx)
    || x.m.ops.any (fun o => opImage x o == some img && ctxOf o.stream != ctx)

/-- What a SPILL raises at issue, on a binding that holds what `a` says. -/
def spillExcs (x : CellAll) (ctx : Nat) (a : Ahead) (img : Nat) : List (Bool × Nat) :=
  [(a.spec.isNone && imageForeign x img ctx, xTileOwner), (a.spec.any ImgSpec.repro, xReproViolation)]

def execSpill (l : StreamLoc) (s : State) : Res :=
  nx (issue s l (isOp 0x66) (fun w =>
    let x := getCell s (cellOf l)
    let excs := fun a => spillExcs x (ctxOf l.stream) a (fld w 15 14)
    onName s l (fld w 13 11) (excs {}) (fun inst =>
      orElse (excs (ahead x inst)) (.done (chainOp s l inst (.spill (fld w 15 14) (fld w 25 16)))))))

def execResume (l : StreamLoc) (s : State) : Res :=
  nx (issue s l (isOp 0x67) (fun w => onName s l (fld w 13 11) [] (fun inst =>
    orElse [((ahead (getCell s (cellOf l)) inst).spec.any ImgSpec.repro, xReproViolation)] (.done (chainOp s l inst .resume)))))

/-! ### Masks (R254 to R256) -/

/-- The mask bits that an OPA tests: first and count (R255). -/
def maskRange (e index : Nat) : Nat × Nat := if eMaskBlocks e then (index, 1) else (index, 64)

/-- The mask lines of 64 bytes that an OPA needs, by address. -/
def maskLines (e index : Nat) : List Nat :=
  let (b, n) := maskRange e index
  let last := min (b + n) (8 * eExt e 0)
  if last ≤ b then []
  else (List.range ((last - 1) / 512 - b / 512 + 1)).map (fun i => readBase e + 64 * (b / 512 + i))

/-- The lines that are not in the cell's mask cache. -/
def maskMissing (m : CellMem) (e index : Nat) : List Nat :=
  (maskLines e index).filter (fun va => !(m.mask.any (fun k => k.va == va)))

/-- A use of a line makes it the most recent; the cache holds 16 lines. -/
def touchMask (k : List MaskLine) (va : Nat) : List MaskLine :=
  match k.find? (fun x => x.va == va) with
  | some x => x :: k.filter (fun y => y.va != va)
  | none => k

def addMask (k : List MaskLine) (x : MaskLine) : List MaskLine := (x :: k.filter (fun y => y.va != x.va)).take 16

/-- The tile's mask bit, from the cached lines (R255). -/
def maskAllows (m : CellMem) (e index : Nat) : Bool :=
  let (b, n) := maskRange e index
  let byteAt := fun k =>
    match m.mask.find? (fun x => x.va == readBase e + 64 * (k / 64)) with
    | some x => BitVec.ofNat 8 (fld x.data (8 * (k % 64) + 7) (8 * (k % 64)))
    | none => 0
  (List.range n).any (fun i => maskBit e byteAt (b + i))

/-! ### OPA (R65 to R70, R126, R127, R162) -/

/-- The ring of one side of an OPA. -/
def opaRing (slot ring fmt : Nat) (row : Bool) : Ring := { slot := slot, len := 2 ^ ring, row := row, fmt := fmt }

/-- The reduction extent and the vector length of a slot in an orientation (R66, R103). -/
def redExtent (x : Slot) (row : Bool) : Nat := if row then x.rows else x.cols
def vecLength (x : Slot) (row : Bool) : Nat := if row then x.cols else x.rows

def opCtx (o : Op) : Nat := ctxOf o.stream

/-- Tile-task slots held by a context (R127). -/
def tasksHeld (m : CellMem) (ctx : Nat) : Nat :=
  (m.ops.filter (fun o => opCtx o == ctx && match o.kind with
    | .task _ => true
    | _ => false)).length

/-- A context may take a tile-task slot (R127). -/
def taskSlotFree (m : CellMem) (ctx : Nat) : Bool :=
  let held := tasksHeld m
  let free := 4096 - (held 0 + held 1 + held 2)
  let need := ((List.range 3).filter (fun k => k != ctx)).foldl (fun n k => n + (512 - held k)) 0
  decide (0 < free) && decide (need ≤ free - 1)

/-- Operand formats of an OPA: both assigned in the Operand role, and of one class (R26, R39). -/
def operandOk (f : Nat) : Bool :=
  match fmtOfCode f with
  | some x => fmtOperand x
  | none => false
def fmtCodeInt (f : Nat) : Bool :=
  match fmtOfCode f with
  | some x => fmtIsInt x
  | none => false

/-- The spill fields agree with the image that the binding will hold (R81). -/
def spillMismatch (spec : Option ImgSpec) (n cask win : Nat) (repro : Bool) : Bool :=
  match spec with
  | none => false
  | some x =>
    if n = 0 then x.repro
    else x.img != cask || x.win != win || x.repro != repro || match x.n with
      | some k => k != n
      | none => false

/-- Counts a created task and a suppressed one (Table 17.6). -/
def countTask (s : State) (c : CellLoc) : State := bump s c.die (setCellSet c.site) 0 1
def countSuppressed (s : State) (c : CellLoc) : State := bump s c.die (setCellSet c.site) 1 1

/-- The operands of an OPA: its word, its registers and its mask's entry (R65, R162, R255). -/
structure OpaArgs where
  eng : Nat
  a : Ring
  b : Ring
  k : Nat
  spillN : Nat
  cask : Nat
  win : Nat
  repro : Bool
  mreg : Nat
  mask : Option Nat
  index : Nat

def opaArgs (s : State) (l : StreamLoc) (w : Nat) : OpaArgs :=
  let t := getStream s l
  let spec := (getReg t (fld w 51 47)).toNat
  let mreg := fld w 56 52
  { eng := fld w 10 8
    a := opaRing (fld w 19 14) (fld w 27 26) (fld w 36 32) (bit w 30)
    b := opaRing (fld w 25 20) (fld w 29 28) (fld w 41 37) (!bit w 31)
    k := regFld t (fld w 46 42) 31 0
    spillN := fld spec 12 0, cask := fld spec 14 13, win := fld spec 24 15, repro := bit spec 25
    mreg := mreg, mask := if mreg = 0 then none else cellHandle s (cellOf l) (regFld t mreg 31 0)
    index := regFld t mreg 63 32 }

/-- The slots of both rings. -/
def OpaArgs.slots (g : OpaArgs) : List Nat := ringSlots g.a ++ ringSlots g.b
def OpaArgs.int (g : OpaArgs) : Bool := fmtCodeInt g.a.fmt

/-- A ring of one slot is shorter than K (R70). -/
def ringShort (c : Cell) (k : Nat) (r : Ring) : Bool := r.len == 1 && decide (redExtent (getTslot c r.slot) r.row < k)

/-- What an OPA raises at issue on a binding that holds what `a` says (Table 6.19). -/
def opaExcs (x : CellAll) (ctx : Nat) (a : Ahead) (g : OpaArgs) : List (Bool × Nat) :=
  [(decide (4 < g.eng), xIllegalOp),
    (!operandOk g.a.fmt || !operandOk g.b.fmt || g.mask.any (fun e => !maskOk e), xFormatInvalid),
    (fmtCodeInt g.a.fmt != fmtCodeInt g.b.fmt || (a.typed && a.int != g.int), xFormatPair),
    (g.slots.any (slotBad x), xSlotInvalid),
    (decide (0 < g.spillN) && a.spec.isNone && imageForeign x g.cask ctx, xTileOwner),
    (ringShort x.c g.k g.a || ringShort x.c g.k g.b, xKRange),
    (decide (4096 < g.spillN), xSpillInvalid),
    (spillMismatch a.spec g.spillN g.cask g.win g.repro, xSpillMismatch),
    (g.repro && (g.spillN == 0 || decide (4096 < g.spillN)), xReproViolation),
    (g.mreg != 0 && g.mask.isNone, xHandleStale)]

/-- The tile task of an OPA. -/
def opaTask (g : OpaArgs) : Task :=
  { eng := g.eng, a := g.a, b := g.b, k := g.k, spillN := g.spillN, cask := g.cask, win := g.win, repro := g.repro, int := g.int }

/-- The OPA issues: a tile task, or for K = 0 an operation of its chain. -/
def opaGo (s : State) (l : StreamLoc) (inst : Nat) (g : OpaArgs) (x : CellAll) : Issue :=
  if g.k = 0 then .done (chainOp s l inst (.opaZero (opaTask g)))
  else if !taskSlotFree x.m (ctxOf l.stream) then .hold .taskSlot
  else .done (countTask (addOp s l (some inst) (.task (opaTask g))) (cellOf l))

/-- The OPA at issue once its exceptions are judged. DESIGN CHOICE (assumption 80): an OPA that its mask suppresses takes no steps
and leaves its name, tile and image alone; R70 says no more of it. -/
def opaMasked (s : State) (l : StreamLoc) (inst : Nat) (g : OpaArgs) (x : CellAll) : Issue :=
  match g.mask with
  | some e =>
    if !(maskMissing x.m e g.index).isEmpty then .hold .memoryLate
    else
      let s1 := modM s (cellOf l) (fun m => { m with mask := (maskLines e g.index).foldl touchMask m.mask })
      if !maskAllows x.m e g.index then .done (countSuppressed s1 (cellOf l))
      else opaGo s1 l inst g x
  | none => opaGo s l inst g x

/-- An OPA waits for a TCFG of a slot that it names, which it must see (R104), and is then judged. -/
def issueOpa (s : State) (l : StreamLoc) (w : Nat) : Issue :=
  let x := getCell s (cellOf l)
  let g := opaArgs s l w
  if g.slots.any (tcfgWaits x.m) && !nameAbsent s l (fld w 13 11) then .hold .scoreboard
  else onName s l (fld w 13 11) (opaExcs x (ctxOf l.stream) {} g) (fun inst =>
    orElse (opaExcs x (ctxOf l.stream) (ahead x inst) g) (opaMasked s l inst g x))

def execOpa (l : StreamLoc) (s : State) : Res := nx (issue s l (isOp 0x60) (issueOpa s l))

/-- The mask descriptor and index of the OPA that a stream holds for its mask (R256). -/
def maskOpa (s : State) (l : StreamLoc) : Option (Nat × Nat) :=
  let t := getStream s l
  if t.st = .running ∧ t.wait = .memoryLate then
    (wordAt s l t.pc.toNat).bind (fun w =>
      (cellHandle s (cellOf l) (regFld t (fld w 56 52) 31 0)).map (fun e => (e, regFld t (fld w 56 52) 63 32)))
  else none

/-- A mask fetch fails: the stream stops at its OPA with its position saved (R109, R312). DESIGN CHOICE (assumption 91): it becomes
FAULTED with the record of R111; it has no SFLT registers to hold more. -/
def maskFault (s : State) (l : StreamLoc) (va k : Nat) : State :=
  let hpa := uncorrOf s (cellOf l) [(va, 64)] false
  let s := recTransfer s l k (va % 2 ^ 48) hpa (getStream s l).pc.toNat 0 0
  streamEvent (modStream s l (fun t => { t with st := .faulted, wait := .none })) l 1

/-- The gate has issued the transfer of a mask line, whose data has crossed the bridge where it had to (R256, R307). -/
def maskIssued (s : State) (c : CellLoc) (va : Nat) : Bool :=
  (getGate (getDie s c.die) (groupOf c.site)).xfers.any (fun x =>
    x.client == .maskLine c.site va && (x.lines == 0 || !(getDie s (otherDie c.die)).clk.running))
def maskDone (s : State) (c : CellLoc) (va : Nat) : State :=
  modGate s c.die (groupOf c.site) (fun g => { g with xfers := g.xfers.filter (fun x => x.client != .maskLine c.site va) })

/-- One line of a stream's mask arrives, or its fetch fails; one that another module still has to send stays outstanding. -/
def fillMask (s : State) (l : StreamLoc) (va : Nat) : State :=
  match maskOpa s l with
  | none => s
  | some (e, _) =>
    let c := cellOf l
    match readEntBytes s c.die (cellCaches s c) (cellPart s c) e (readBase e) (va - readBase e) 64 with
    | .ok bs => dropAnswers (modM (maskDone s c va) c (fun m => { m with mask := addMask m.mask { va := va, data := leNat bs } })) c.die
    | .ask q => askPeers s c.die (cellPart s c) q
    | .fault k => maskFault (maskDone s c va) l va k

/-- The missed mask lines whose gate transfers are outstanding arrive, and the held OPA issues once all are there (R256). -/
def execMaskLineFill (l : StreamLoc) (s : State) : Res :=
  let t := getStream s l
  if t.st = .running ∧ t.wait = .memoryLate then
    let lines := match maskOpa s l with
      | some (e, index) => maskMissing (getCell s (cellOf l)).m e index
      | none => []
    let s := (lines.filter (maskIssued s (cellOf l))).foldl (fun s va => fillMask s l va) s
    nx (issue s l (isOp 0x60) (issueOpa s l))
  else nx s

/-! ### DRAIN (R164 to R166) -/

/-- The destination that DKIND names, with its captured descriptor; none for a stale handle. -/
def destOf (s : State) (l : StreamLoc) (dkind slot dreg : Nat) : Option Dest :=
  let t := getStream s l
  match dkind with
  | 0 => some (.slot slot)
  | 1 => some (.store (regFld t dreg 19 0))
  | _ => (cellHandle s (cellOf l) (regFld t dreg 63 32)).map (fun e => .desc (regFld t dreg 19 0) e)

/-- The format of a destination differs from the one that the instruction names. -/
def destMismatch (c : Cell) (d : Dest) (fmt : Nat) : Bool :=
  match d with
  | .slot t => (getTslot c t).fmt != fmt
  | .store _ => false
  | .desc _ e => eFmt e != fmt

/-- Offset and span of a store destination break R164. -/
def destRangeBad (d : Dest) (fmt rows cols : Nat) : Bool :=
  match d with
  | .slot _ => false
  | .store off => off % 256 != 0 || decide (storeSize < off + storeTileSpan ((fmtOfCode fmt).getD .fp32) rows cols)
  | .desc off e => off % 256 != 0 || decide (storeSize < off + tileBytes e)

def destTcfg (m : CellMem) (d : Dest) : Bool :=
  match d with
  | .slot t => tcfgWaits m t
  | _ => false

def destSlotCfg (c : Cell) (d : Dest) : Slot :=
  match d with
  | .slot t => getTslot c t
  | _ => {}

def outputOk (f : Nat) : Bool :=
  match fmtOfCode f with
  | some x => fmtOutput x
  | none => false

/-- The operands of a DRAIN, with its destination. -/
def drainArgs (s : State) (l : StreamLoc) (w : Nat) (dest : Dest) : DrainOp :=
  let c := (getCell s (cellOf l)).c
  { dest := dest, fmt := fld w 31 27, rnd := fld w 34 32, sat := bit w 35, fn := fld w 39 36, fmode := fld w 41 40
    zslot := fld w 47 42, cfg := destSlotCfg c dest, zcfg := getTslot c (fld w 47 42) }

/-- What the fields of a DRAIN raise at issue whatever its destination. -/
def drainFieldExcs (w : Nat) : List (Bool × Nat) :=
  [(fld w 15 14 == 3 || fld w 41 40 == 3 || (fld w 41 40 == 0 && fld w 39 36 != 0), xIllegalOp),
    (!outputOk (fld w 31 27) || (rndOfCode (fld w 34 32)).isNone || !fnOk (fld w 39 36), xFormatInvalid)]

/-- What a DRAIN raises at issue (Table 6.19). -/
def drainExcs (x : CellAll) (w : Nat) (d : DrainOp) : List (Bool × Nat) :=
  let sh := drainShape d
  drainFieldExcs w ++ [(destMismatch x.c d.dest d.fmt, xFormatMismatch), (d.fmode == 2 && slotBad x d.zslot, xSlotInvalid),
    (d.fmode == 2 && (decide (d.zcfg.rows < sh.rows) || decide (d.zcfg.cols < sh.cols)), xShapeMismatch),
    (destRangeBad d.dest d.fmt 64 64, xStoreRange),
    (d.fn == 8 && ((d.fmode == 1 && !x.m.ftab.valid) || (d.fmode == 2 && !x.m.dtab.valid)), xTableInvalid)]

/-- What a DRAIN with a stale handle raises: a lower code that needs no descriptor, or HANDLE_STALE (R180). -/
def drainStale (s : State) (l : StreamLoc) (w : Nat) : List (Bool × Nat) :=
  let x := getCell s (cellOf l)
  drainFieldExcs w ++ [(fld w 41 40 == 2 && slotBad x (fld w 47 42), xSlotInvalid),
    (regFld (getStream s l) (fld w 26 22) 19 0 % 256 != 0, xStoreRange), (true, xHandleStale)]

/-- The slots of a DRAIN whose configuration it reads wait for a TCFG (R104). -/
def drainTcfg (x : CellAll) (w : Nat) : Bool :=
  (fld w 15 14 == 0 && tcfgWaits x.m (fld w 21 16)) || (fld w 41 40 == 2 && tcfgWaits x.m (fld w 47 42))

def issueDrain (s : State) (l : StreamLoc) (w : Nat) : Issue :=
  let x := getCell s (cellOf l)
  if drainTcfg x w && !nameAbsent s l (fld w 13 11) then .hold .scoreboard
  else match destOf s l (fld w 15 14) (fld w 21 16) (fld w 26 22) with
    | none => onName s l (fld w 13 11) (drainStale s l w) (fun _ => orElse (drainStale s l w) (.raise xHandleStale))
    | some dest =>
      let d := drainArgs s l w dest
      onName s l (fld w 13 11) (drainExcs x w d) (fun inst =>
        orElse (drainExcs x w d)
          (let p := drawFor s l d.rnd ((drainShape d).rows * (drainShape d).cols)
          .done (chainOp (unbind p.2 l (fld w 13 11)) l inst (.drain { d with
            draws := p.1, srWas := (getStream s l).sr, srNow := (getStream p.2 l).sr }))))

def execDrain (l : StreamLoc) (s : State) : Res := nx (issue s l (isOp 0x63) (issueDrain s l))

/-! ### RED (R142, R167, R271) -/

/-- A wire format that RED does not take. -/
def wireBad (wfmt : Nat) : Bool := wfmt != 0x00 && wfmt != 0x02 && wfmt != 0x10

/-- What a RED of an accumulator name raises at issue, on a binding that holds what `a` says. -/
def redAccExcs (s : State) (c : CellLoc) (a : Ahead) (wfmt : Nat) : List (Bool × Nat) :=
  [(wireBad wfmt || (a.typed && a.int), xFormatInvalid), (a.spec.any ImgSpec.repro && wfmt != 0x10, xReproViolation),
    ((cellRedRoute s c).isNone, xNoRoute)]

/-- What a RED of a slot raises at issue. -/
def redSlotExcs (s : State) (c : CellLoc) (slot wfmt : Nat) : List (Bool × Nat) :=
  let x := getCell s c
  [(wireBad wfmt || wfmt == 0x10, xFormatInvalid), ((getTslot x.c slot).fmt != wfmt, xFormatMismatch),
    (slotBad x slot, xSlotInvalid), ((cellRedRoute s c).isNone, xNoRoute)]

def execRed (l : StreamLoc) (s : State) : Res :=
  nx (issue s l (isOp 0x65) (fun w =>
    let x := getCell s (cellOf l)
    let t := getStream s l
    let slot := fld w 19 14
    let tag := regFld t (fld w 24 20) 11 0
    let win := regFld t (fld w 24 20) 21 12
    let wfmt := fld w 29 25
    if bit w 8 then onName s l (fld w 13 11) (redAccExcs s (cellOf l) {} wfmt) (fun inst =>
      orElse (redAccExcs s (cellOf l) (ahead x inst) wfmt)
        (.done (chainOp (unbind s l (fld w 13 11)) l inst (.redAcc wfmt tag win none))))
    else if tcfgWaits x.m slot then .hold .scoreboard
    else
      orElse (redSlotExcs s (cellOf l) slot wfmt)
        (if sbHolds x.m { reads := [slot] } then .hold .scoreboard
        else .done (addOp s l none (.redSlot slot wfmt tag (getTslot x.c slot))))))

/-- Bytes of one element on a wire (R271). -/
def wireBits (wfmt : Nat) : Nat :=
  match wfmt with
  | 0x00 => 32 | 0x02 => 16 | _ => 64

/-- The header of a reduction item (Table 10.1). -/
def redHeader (tag wfmt win : Nat) (nonfinite ovf inexact fault : Bool) : Nat :=
  tag % 4096 + 2 ^ 12 * (wfmt % 32) + 2 ^ 17 * (if wfmt = 0x10 then win % 1024 else 0)
    + 2 ^ 27 * b2n nonfinite + 2 ^ 28 * b2n ovf + 2 ^ 29 * b2n inexact + 2 ^ 30 * b2n fault

/-- An item of 64 rows of 64 elements from a function, with the flags raised. -/
def wireItem (wfmt tag win : Nat) (ovf0 : Bool) (g : Nat → Nat → Nat × Flg) : Item × Flg :=
  let b := wireBits wfmt
  let rows := (List.range 64).map (fun i => (List.range 64).map (g i))
  let f := ((rows.flatten.map Prod.snd).foldl Flg.join {})
  (.tile (BitVec.ofNat 64 (redHeader tag wfmt win f.nonfinite (ovf0 || f.lxOvf) f.lxInexact false)) 0
    ((rows.map (fun r => leBytes (8 * b) (packElems b (r.map Prod.fst)))).flatten), f)

/-- The contribution of a slot, unconverted, zero beyond its extents (R167, R271). -/
def redSlotItem (c : Cell) (slot wfmt tag : Nat) (cfg : Slot) : Item × Flg :=
  wireItem wfmt tag 0 false (fun i j =>
    if i < cfg.rows ∧ j < cfg.cols then
      let e := readElem c.tregs cfg slot i j
      (e, { nonfinite := bitsNonfinite (slotFmt cfg) e })
    else (0, {}))

/-- The contribution of what a RED of a name read (R55, R167). -/
def redAccItem (t : Taken) (wfmt tag win : Nat) : Item × Flg :=
  let L := signed 10 win
  wireItem wfmt tag win (wfmt == 0x10 && t.ovf) (fun i j =>
    if wfmt = 0x10 then
      if t.image then
        let q := lxConv 64 (signed 10 t.win) L (signed 128 (rowElem t.rows 128 i j))
        (unsigned 64 q.1, q.2)
      else
        let q := lxEnter 64 L 0 (takenVal t i j)
        (unsigned 64 q.1, q.2)
    else convFp (if wfmt = 0x02 then .bf16 else .fp32) .rne false 0 (takenVal t i j))

end Sys2Proof.Machine
end

