-- ==== Sys2Proof/Machine/CellEngine.lean ====
section
/-! DEFINITION. Engine and drain-unit events: placement, readiness, choice, slot entry, steps, spills, drains, fetches and parity
(R61 to R69, R77 to R84, R88, R99 to R102, R117, R126 to R130, R137, R164 to R166). -/

namespace Sys2Proof.Machine

/-! ### Tasks on engines -/

def taskOf (o : Op) : Option Task :=
  match o.kind with
  | .task t => some t
  | _ => none

/-- The operation's stream has stopped, by request or by the stop line of its site, so its tasks are not placed or chosen (R19,
R88). -/
def opHeld (x : CellAll) (o : Op) : Bool := decide ((streamOf x.c o.stream).st = .stopped) || x.c.stopLine

/-- Tasks of an engine in a state, oldest first. -/
def engTasks (x : CellAll) (eng : Nat) (p : Task → Bool) : List Op :=
  x.m.ops.filter (fun o => match taskOf o, opTile x o with
    | some t, some pt => pt / 2 == eng && p t
    | _, _ => false)

/-- READY and RUNNING tasks bound to an engine's tiles (R129). -/
def engLoad (x : CellAll) (eng : Nat) : Nat := (engTasks x eng (fun t => t.st == .ready || t.st == .running)).length

/-- A FREE tile of an engine: ACC_P first (R72). -/
def engFreeTile (c : Cell) (eng : Nat) : Option Nat :=
  if tileFree c (2 * eng) then some (2 * eng) else if tileFree c (2 * eng + 1) then some (2 * eng + 1) else none

/-- The engine of a placement: enabled, with a FREE tile, fewest tasks, then lowest number (R129). -/
def placeEngine (x : CellAll) : Option Nat :=
  ((List.range 4).filter (fun e => engEnabled x.c e && (engFreeTile x.c e).isSome)).foldl (fun best e =>
    match best with
    | none => some e
    | some b => if engLoad x e < engLoad x b then some e else some b) none

/-- An OPA, of any K. -/
def isOpa (o : Op) : Bool :=
  match o.kind with
  | .task _ => true
  | .opaZero _ => true
  | _ => false

/-- The first operation on a name opened with ANY binds a tile: an OPA once conditions 1 and 3 of R128 hold, another operation as
soon as it has issued (R72, R129). A stop holds back tile tasks only (R88). -/
def execTaskPlacement (c : CellLoc) (op : Nat) (s : State) : Res :=
  let x := getCell s c
  match findOp x.m op with
  | some o =>
    if !needsPlacement x.c o || !isHead x.m o || ((taskOf o).isSome && opHeld x o) || (isOpa o && !sbClear x.m o) then nx s
    else match o.inst.bind (getChain x.c), placeEngine x with
      | some h, some e => match engFreeTile x.c e with
        | some pt => nx (settle (modC s c (fun k => bindTile k pt h.inst h.ctx h.an)) c)
        | none => nx s
      | _, _ => nx s
  | none => nx s

/-- A waiting task becomes READY; that of a stopped stream keeps its state (R88, R128). -/
def execTaskReady (c : CellLoc) (op : Nat) (s : State) : Res :=
  let x := getCell s c
  match findOp x.m op with
  | some o => match o.kind with
    | .task t =>
      if t.st = .waiting ∧ isHead x.m o ∧ (opTile x o).isSome ∧ mayAct x o ∧ !opHeld x o then
        nx (modM s c (fun m => setOp m op (.task { t with st := .ready })))
      else nx s
    | _ => nx s
  | none => nx s

/-! ### The choice of a task (R82, R130) -/

def creditOf (e : Engine) : Nat → Nat
  | 0 => e.creditF
  | 1 => e.creditB
  | _ => e.creditU
def weightOf (d : Sched) : Nat → Nat
  | 0 => d.wF
  | 1 => d.wB
  | _ => d.wU

def useCredit (e : Engine) (ctx : Nat) : Engine :=
  match ctx with
  | 0 => { e with creditF := e.creditF - 1, last := 0 }
  | 1 => { e with creditB := e.creditB - 1, last := 1 }
  | _ => { e with creditU := e.creditU - 1, last := 2 }

/-- The context that an engine chooses, with its credits after the choice; `oldest` is the context of the oldest ready task. -/
def chooseContext (d : Sched) (e : Engine) (ready : Nat → Bool) (oldest : Nat) : Option Nat × Engine :=
  let r := (List.range 3).filter ready
  if r.isEmpty then (none, e)
  else if d.mode then ([d.p1, d.p2, d.p3].find? (fun c => r.contains c), e)
  else
    let weighted := r.filter (fun c => 0 < weightOf d c)
    if weighted.isEmpty then (some oldest, e)
    else
      let e := if weighted.all (fun c => creditOf e c == 0) then { e with creditF := d.wF, creditB := d.wB, creditU := d.wU } else e
      match [(e.last + 1) % 3, (e.last + 2) % 3, e.last % 3].find? (fun c => weighted.contains c && 0 < creditOf e c) with
      | some c => (some c, useCredit e c)
      | none => (none, e)

/-- A task that an engine may choose: READY, its stream not stopped, and its image available (R81, R88, R130). DESIGN CHOICE
(assumption 102): a task that waits for an image that another tile of its context holds waits in READY, unchosen. -/
def choosable (x : CellAll) (o : Op) : Bool :=
  match taskOf o, opTile x o with
  | some t, some pt => t.st == .ready && !opHeld x o && imageReady x.c pt (t.spillN != 0) t.cask
  | _, _ => false

/-- A chosen task begins or goes on: its tile is typed and its image opened at the first dispatch (R73, R81); an ENG field
that names another engine raises ENGINE_MISMATCH (R90). -/
def dispatch (s : State) (c : CellLoc) (eng : Nat) (o : Op) (t : Task) (pt : Nat) : State :=
  if engineMismatch t pt then
    if canRaise s (opLoc c o) then
      raiseBehind (modM s c (fun m => setOp m o.id (.task { t with st := .stopped }))) (opLoc c o) xEngineMismatch o.id o.pc 0
    else s
  else
    modCell s c (fun x => {
      c := opaZeroTile x.c pt t.int t.spillN t.cask t.win t.repro
      m := setEngineOf (setOp x.m o.id (.task { t with st := .running })) eng
        { getEngine x.m eng with cur := some o.id, turn := false, collA := {}, collB := {} } })

/-- The task that an engine turns to from task `id` at a spill point: one of its other tile with a ready step (R82). -/
def turnTo (x : CellAll) (eng id : Nat) : Option Op :=
  let tile := (findOp x.m id).bind (opTile x)
  let other := (engTasks x eng (fun _ => true)).filter (fun y => opTile x y != tile)
  (other.find? (fun y => (taskOf y).any (fun t => t.st == .running && !t.needSpill && decide (t.step < t.k)))).orElse
    (fun _ => other.find? (choosable x))

/-- An engine chooses a task when it runs none, and turns to its other tile at a spill point (R82, R130). -/
def execTaskChoice (c : CellLoc) (eng : Nat) (s : State) : Res :=
  let x := getCell s c
  let e := getEngine x.m eng
  let running := engTasks x eng (fun t => t.st == .running)
  let go := fun (o : Op) (s : State) => match taskOf o, opTile x o with
    | some t, some pt => dispatch s c eng o t pt
    | _, _ => s
  if 4 ≤ eng then nx s
  else match e.cur with
  | some id =>
    if !e.turn then nx s
    else match turnTo x eng id with
      | some y => nx (go y s)
      | none => nx s
  | none =>
    match running with
    | _ :: _ => match running.find? (fun o => (taskOf o).any (fun t => decide (t.step < t.k))) with
      | some o => nx (go o s)
      | none => nx s
    | [] =>
      let able := (engTasks x eng (fun _ => true)).filter (choosable x)
      match able with
      | [] => nx s
      | first :: _ =>
        let p := chooseContext x.c.sched e (fun k => able.any (fun o => opCtx o == k)) (opCtx first)
        match p.1 with
        | none => nx s
        | some k => match able.find? (fun o => opCtx o == k) with
          | none => nx s
          | some o => nx (go o (modM s c (fun m => setEngineOf m eng p.2)))

/-! ### Rings, collectors and latches -/

def ringOf (t : Task) (sideB : Bool) : Ring := if sideB then t.b else t.a
def setRing (t : Task) (sideB : Bool) (r : Ring) : Task := if sideB then { t with b := r } else { t with a := r }
def ringSlot (r : Ring) : Nat := (r.slot + r.pos) % 64
def collOf (e : Engine) (sideB : Bool) : Collector := if sideB then e.collB else e.collA
def setColl (e : Engine) (sideB : Bool) (k : Collector) : Engine := if sideB then { e with collB := k } else { e with collA := k }

/-- The task that an engine is running, with its place and tile. -/
def curTask (x : CellAll) (eng : Nat) : Option (Op × Task × Nat) :=
  match (getEngine x.m eng).cur.bind (findOp x.m) with
  | some o => match taskOf o, opTile x o with
    | some t, some pt => some (o, t, pt)
    | _, _ => none
  | none => none

/-- The engine may take steps of its task: the task is RUNNING, below K and at no spill point. -/
def stepping (t : Task) : Bool := t.st == .running && decide (t.step < t.k) && !t.needSpill

/-- A slot-entry exception: the task is STOPPED with its steps kept and its position at the next step (R90). -/
def stopTask (s : State) (c : CellLoc) (eng code : Nat) (o : Op) (t : Task) : State :=
  if canRaise s (opLoc c o) then
    let s := modM s c (fun m => setEngineOf (setOp m o.id (.task { t with st := .stopped })) eng { getEngine m eng with cur := none })
    raiseBehind s (opLoc c o) code o.id o.pc 0
  else s

/-- A used-up slot of a consuming ring loses FILLED, and the ring moves on (R67, R68). -/
def leaveSlot (c : Cell) (r : Ring) : Cell × Ring :=
  if r.len = 1 then (c, r)
  else (setTslot c (ringSlot r) { getTslot c (ringSlot r) with filled := false },
    { r with pos := (r.pos + 1) % r.len, vec := 0, entered := false })

/-- The engine enters the next slot of a ring (R68, R69). -/
def execSlotEntry (c : CellLoc) (eng : Nat) (sideB : Bool) (s : State) : Res :=
  let x := getCell s c
  match curTask x eng with
  | none => nx s
  | some (o, t, _) =>
    let r := ringOf t sideB
    let y := getTslot x.c (ringSlot r)
    if !stepping t || r.entered || (r.len != 1 && !y.filled) then nx s
    else match lowestExc [(y.saxis != 0 && y.saxis != (if r.row then 2 else 1), xFormatInvalid), (y.fmt != r.fmt, xFormatMismatch)] with
      | some code => nx (stopTask s c eng code o t)
      | none =>
        let p := if redExtent y r.row = 0 then leaveSlot x.c r else (x.c, { r with entered := true })
        nx (setCell s c { c := p.1, m := setOp x.m o.id (.task (setRing t sideB p.2)) })

/-- The block group that the engine needs next: slot and group (R99). -/
def needGroup (r : Ring) : Nat × Nat := (ringSlot r, r.vec / 8)

/-- The group after the current one: the next of the slot, or the first of the ring's next slot. -/
def nextGroup (c : Cell) (r : Ring) : Option (Nat × Nat) :=
  if (r.vec / 8 + 1) * 8 < redExtent (getTslot c (ringSlot r)) r.row then some (ringSlot r, r.vec / 8 + 1)
  else if r.len = 1 then none
  else
    let n := (r.slot + (r.pos + 1) % r.len) % 64
    if (getTslot c n).filled then some (n, 0) else none

/-- Vector `k` of a slot as packed elements, and the scale codes of its lanes; beyond the extent it is zero (R66, R94, R99). -/
def readVec (c : Cell) (t : Nat) (row : Bool) (k : Nat) : Nat :=
  let y := getTslot c t
  if redExtent y row ≤ k then 0
  else packElems (fmtBits (slotFmt y)) ((List.range (vecLength y row)).map (fun i =>
    if row then readElem c.tregs y t k i else readElem c.tregs y t i k))
def vecScales (c : Cell) (t : Nat) (row : Bool) (k : Nat) : Nat :=
  packElems 8 ((List.range (vecLength (getTslot c t) row)).map (fun i => readScale c t (2 * i + k / 32)))

/-- A block group read from the banks, with its scales (R99). -/
def readGroup (c : Cell) (row : Bool) (g : Nat × Nat) : Group :=
  { slot := g.1, group := g.2, vecs := (List.range 8).map (fun v => readVec c g.1 row (8 * g.2 + v))
    scales := if (getTslot c g.1).saxis = 0 then 0 else vecScales c g.1 row (8 * g.2) }

/-- The slot and number of a held group. -/
def tagOf (g : Option Group) : Option (Nat × Nat) := g.map (fun g => (g.slot, g.group))

/-- The group that a collector fetches now: the one that the engine needs, or, once the engine has taken a vector of that one, the
group after it (R99). -/
def fetchGroup (c : Cell) (r : Ring) (k : Collector) : Option (Nat × Nat) :=
  if tagOf k.cur ≠ some (needGroup r) then some (needGroup r)
  else if k.begun && k.nxt.isNone then nextGroup c r
  else none

/-- The collector after a fetch. -/
def fetched (c : Cell) (r : Ring) (k : Collector) : Collector :=
  match fetchGroup c r k with
  | none => k
  | some g =>
    if g = needGroup r then { k with cur := some (readGroup c r.row g), begun := false } else { k with nxt := some (readGroup c r.row g) }

/-- A collector reads a block group; a parity error in its slot is retried from the store or raised (R99, R117). -/
def execGroupFetch (c : CellLoc) (eng : Nat) (sideB perr : Bool) (s : State) : Res :=
  let x := getCell s c
  match curTask x eng with
  | none => nx s
  | some (o, t, _) =>
    let r := ringOf t sideB
    let e := getEngine x.m eng
    let k := collOf e sideB
    match fetchGroup x.c r k with
    | none => nx s
    | some (slot, _) =>
      if !stepping t || !r.entered || k.retry.isSome then nx s
      else if !perr then nx (modM s c (fun m => setEngineOf m eng (setColl e sideB (fetched x.c r k))))
      else if (getTslot x.c slot).srcValid then nx (modM s c (fun m => setEngineOf m eng (setColl e sideB { k with retry := some slot })))
      else if canRaise s (opLoc c o) then nx (stopTask (recParity s c o 1 eng slot) c eng xTregParity o t)
      else nx s

/-- The re-read lines are rewritten, the correction is counted and the fetch goes on; a store that a grant holds, or a store write of
the drain unit, makes it wait (R117, R118, R133, R135). Where the source is valid no more, the fetch begins again. -/
def execParityRetryWrite (c : CellLoc) (eng : Nat) (sideB : Bool) (s : State) : Res :=
  let x := getCell s c
  match (collOf (getEngine x.m eng) sideB).retry with
  | none => nx s
  | some slot =>
    if portTaken x then nx s
    else if !(getTslot x.c slot).srcValid then
      nx (modM s c (fun m => setEngineOf m eng (setColl (getEngine m eng) sideB { collOf (getEngine m eng) sideB with retry := none })))
    else
      let s := parityRetry s c slot
      let y := getCell s c
      let e := getEngine y.m eng
      let k := { collOf e sideB with retry := none }
      let k := match curTask y eng with
        | some (_, t, _) => fetched y.c (ringOf t sideB) k
        | none => k
      nx (setCell s c { y with m := setEngineOf y.m eng (setColl e sideB k) })

/-! ### Rank-one steps (R61, R62, R66, R79, R102) -/

/-- The current vector of a ring as its collector holds it: packed elements and scale codes. -/
def heldVec (r : Ring) (k : Collector) : Nat × Nat :=
  match k.cur with
  | some g => (g.vecs.getD (r.vec % 8) 0, g.scales)
  | none => (0, 0)

/-- Element `i` of a held vector; beyond the slot's extent it is zero (R66). -/
def vecElem (c : Cell) (r : Ring) (v : Nat × Nat) (i : Nat) : Val :=
  let y := getTslot c (ringSlot r)
  if vecLength y r.row ≤ i then .zero
  else
    let e := decodeVal (slotFmt y) (elemAt (fmtBits (slotFmt y)) v.1 i)
    if y.saxis = 0 then e else scaledVal e (elemAt 8 v.2 i)

/-- One rank-one step on the rows of a tile (R40, R61). -/
def rankOne (int : Bool) (rows : Tab Nat) (a b : Nat → Val) : Tab Nat × Flg :=
  let av := (List.range 64).map a
  let bv := (List.range 64).map b
  buildRows 32 (fun i j =>
    let p := mulVal (av.getD i .zero) (bv.getD j .zero)
    let x := rowElem rows 32 i j
    if int then
      let q := accAddInt x p.toInt
      (q.1, { intSat := q.2 })
    else
      let q := accAddFp x p
      (q, { nonfinite := bitsNonfinite .fp32 q }))

/-- The A latch holds the a-vector of an OPA's first step (R102). -/
def latchHit (x : CellAll) (e : Engine) (t : Task) : Bool :=
  t.step == 0 && match e.latchA with
    | some k => k.slot == ringSlot t.a && k.gen == (getTslot x.c (ringSlot t.a)).gen && k.row == t.a.row && k.vec == t.a.vec
    | none => false

/-- A ring moves past the vector just taken, and its collector with it. A consuming ring leaves its slot, whose FILLED mark it
clears, after the last step that it reads there: the slot's last vector, or the OPA's last step (R68). -/
def advanceRing (c : Cell) (r : Ring) (k : Collector) (final : Bool) : Cell × Ring × Collector :=
  let v := r.vec + 1
  let p := if (v = redExtent (getTslot c (ringSlot r)) r.row ∨ final) ∧ r.len ≠ 1 then leaveSlot c { r with vec := v }
    else (c, { r with vec := v })
  let need := needGroup p.2
  let k := if some need = tagOf k.cur then { k with begun := true }
    else if some need = tagOf k.nxt then { k with cur := k.nxt, nxt := none, begun := false }
    else { k with cur := none, nxt := none, begun := false }
  (p.1, p.2, k)

/-- Steps folded into one period, and the beats of a period, by the class of the slower operand (Table 3.1). -/
def foldSteps (f : Fmt) : Nat :=
  match fmtBits f with
  | 4 => 4
  | 6 => 2
  | 8 => 2
  | _ => 1
def periodBeats (f : Fmt) : Nat :=
  match f with
  | .fp32 => 32
  | .fp19 => 16
  | _ => 8
def taskFmts (t : Task) : Fmt × Fmt := ((fmtOfCode t.a.fmt).getD .fp32, (fmtOfCode t.b.fmt).getD .fp32)
def taskFold (t : Task) : Nat := min (foldSteps (taskFmts t).1) (foldSteps (taskFmts t).2)
def taskBeats (t : Task) : Nat := max (periodBeats (taskFmts t).1) (periodBeats (taskFmts t).2)

/-- The latch that a step fills from a ring's vector. -/
def latchOf (c : Cell) (r : Ring) (slice : Nat) (v : Nat × Nat) : Latch :=
  { slot := ringSlot r, gen := (getTslot c (ringSlot r)).gen, row := r.row, vec := r.vec, slice := slice, bits := v.1, scales := v.2 }

/-- The task after a step of vectors that moved its rings on: the count, the period and the spill point (R79, R63). -/
def stepped (t : Task) (a b : Ring) (steps : Nat) : Task :=
  let spill := decide (0 < t.spillN) && decide (steps % max 1 t.spillN = 0)
  { t with
    a := a, b := b, step := t.step + 1, needSpill := spill
    phase := if spill || decide (t.step + 1 = t.k) || decide (t.phase + 1 = taskFold t) then 0 else t.phase + 1 }

/-- The vectors of the task's next step are held, its slots entered, and no parity retry is in progress on them (R101). -/
def operandsHeld (x : CellAll) (e : Engine) (t : Task) : Bool :=
  t.a.entered && t.b.entered && (latchHit x e t || tagOf e.collA.cur == some (needGroup t.a)) && tagOf e.collB.cur == some (needGroup t.b)
    && e.collA.retry.isNone && e.collB.retry.isNone

/-- A stop halts the task here: its steps of a period have entered, or the next of the period has no operands; it neither spills nor
has taken its last step (R88). -/
def stopsHere (x : CellAll) (e : Engine) (t : Task) : Bool :=
  t.st == .running && !t.needSpill && t.step != t.k && (t.phase == 0 || !operandsHeld x e t)

/-- One step of the running task. Its first step of a period counts the period's beats as busy (R64, Table 17.6). -/
def takeStep (s : State) (c : CellLoc) (eng : Nat) (o : Op) (t : Task) (pt : Nat) : State :=
  let x := getCell s c
  let e := getEngine x.m eng
  let a := getAcc x.c pt
  let va := if latchHit x e t then (e.latchA.map (fun k => (k.bits, k.scales))).getD (0, 0) else heldVec t.a e.collA
  let vb := heldVec t.b e.collB
  let p := rankOne t.int a.rows (vecElem x.c t.a va) (vecElem x.c t.b vb)
  let final := decide (t.step + 1 = t.k)
  let k1 := setAcc x.c pt { a with rows := p.1, steps := a.steps + 1, lastSlice := x.m.slices + 1 }
  let qa := advanceRing k1 t.a e.collA final
  let qb := advanceRing qa.1 t.b e.collB final
  let t1 := stepped t qa.2.1 qb.2.1 (a.steps + 1)
  let e1 := { e with
    turn := t1.needSpill, collA := qa.2.2, collB := qb.2.2
    latchA := some (latchOf x.c t.a 0 va), latchB := some (latchOf x.c t.b 7 vb) }
  let stops := opHeld x o && stopsHere { x with c := qb.1 } e1 t1
  let t' := if stops then { t1 with st := .stopped } else t1
  let e' := if stops then { e1 with cur := none } else e1
  let s1 := setCell s c { c := qb.1, m := { setEngineOf (setOp x.m o.id (.task t')) eng e' with slices := x.m.slices + 1 } }
  let s2 := flagAcc s1 (opLoc c o) pt p.2
  if t.phase = 0 then bump s2 c.die (setEngine c.site eng) 0 (taskBeats t) else s2

/-- A rank-one step, once both slots are entered and both vectors are held. At a spill point the engine first turns to its other
tile where that one has a ready step (R82). -/
def execRankOneStep (c : CellLoc) (eng : Nat) (s : State) : Res :=
  let x := getCell s c
  match curTask x eng with
  | none => nx s
  | some (o, t, pt) =>
    let e := getEngine x.m eng
    if stepping t && operandsHeld x e t && !(e.turn && (turnTo x eng o.id).isSome) then
      nx (takeStep s c eng o t pt)
    else nx s

/-! ### Spill points and the end of a task -/

/-- The spill of the engine's task is done; a task whose stream has stopped halts here (R79, R88). -/
def spillDone (x : CellAll) (m : CellMem) (eng : Nat) (o : Op) (t : Task) : CellMem :=
  if opHeld x o && t.step != t.k then
    let e := getEngine m eng
    setEngineOf (setOp m o.id (.task { t with needSpill := false, st := .stopped })) eng
      (if e.cur = some o.id then { e with cur := none, turn := false } else e)
  else setOp m o.id (.task { t with needSpill := false })

/-- The engine spills at a spill point, the older of its tiles first (R79, R137). -/
def execSpillPoint (c : CellLoc) (eng : Nat) (s : State) : Res :=
  let x := getCell s c
  match (engTasks x eng (fun t => t.st == .running && t.needSpill)).find? (fun o => (opTile x o).any (inputFree x)) with
  | none => nx s
  | some o => match taskOf o, opTile x o with
    | some t, some pt =>
      let s1 := spillTile s (opLoc c o) pt
      nx (settle (modM s1 c (fun m => spillDone x m eng o t)) c)
    | _, _ => nx s

/-- The last slice has entered: the tile-task slot is free, and the engine runs the task no more. It may have turned to its other tile
while the last step's spill was done (R82, R126). -/
def execLastSlice (c : CellLoc) (eng : Nat) (s : State) : Res :=
  let x := getCell s c
  match (engTasks x eng (fun t => t.st == .running && t.step == t.k && !t.needSpill)).head? with
  | none => nx s
  | some o =>
    let leave := fun (e : Engine) => if e.cur = some o.id then { e with cur := none, turn := false } else e
    nx (settle (modM s c (fun m => removeOp (setEngineOf m eng (leave (getEngine m eng))) o.id)) c)

/-! ### The drain unit (R77, R78, R83, R137, R164 to R167) -/

/-- The drain unit reads the tile or image of a DRAIN or of a RED of a name, which frees the tile, once its input stage accepts it
(R137); the read of ZSLOT may meet a parity error (R117, R166). -/
def execDrainRead (c : CellLoc) (r : Reader) (s : State) : Res :=
  let op := r.id
  let x := getCell s c
  match findOp x.m op with
  | some o =>
    if !isHead x.m o then nx s
    else match opTile x o with
    | none => nx s
    | some pt =>
      if !inputFree x pt then nx s
      else match o.kind with
      | .drain d =>
        if d.taken.isSome || o.bad then nx s
        else nx (withParity s c o d.zslot (r.perr && d.fmode == 2 && mayAct x o) (fun s =>
          let p := takeTile s (opLoc c o) pt
          settle (modM p.1 c (fun m => setOp m op (.drain { d with taken := some p.2 }))) c))
      | .redAcc wfmt tag win none =>
        let p := takeTile s (opLoc c o) pt
        nx (settle (modM p.1 c (fun m => setOp m op (.redAcc wfmt tag win (some p.2)))) c)
      | _ => nx s
  | none => nx s

/-- The value that a DRAIN writes at (i, j): acc, f(acc), or acc x f'(z) (R166). DESIGN CHOICE (assumption 81): the source of its
conversion, for NONFINITE (R58), is this value, so a non-finite accumulator whose function value is finite is not flagged. -/
def drainVal (x : CellAll) (d : DrainOp) (t : Taken) (i j : Nat) : Val :=
  let v := takenVal t i j
  match d.fmode with
  | 1 => decodeVal .fp32 (fnEval x.m.ftab d.fn (toFp32 v))
  | 2 => mulVal v (decodeVal .fp32 (dfnEval x.m.dtab d.fn (toFp32 (elemVal x.c d.zcfg d.zslot i j))))
  | _ => v

/-- Flags of a result: the destination slot's TNSTAT and the levels of R58. -/
def flagDest (s : State) (l : StreamLoc) (dest : Dest) (f : Flg) : State :=
  match dest with
  | .slot t => flagSlot s l t f
  | _ => if f.nonfinite then streamNonfinite s l else s

/-- Whether a destination is the store. -/
def toStore : Dest → Bool
  | .slot _ => false
  | _ => true

/-- A DRAIN or EW that uses a table lies between its entry to the input stage and its last write (R175). -/
def tableUsed (m : CellMem) (deriv : Bool) : Bool :=
  m.ops.any (fun o => match o.kind with
    | .drain d => d.fn == 8 && d.taken.isSome && (if deriv then d.fmode == 2 else d.fmode == 1)
    | .ew e => e.op == (if deriv then 0x13 else 0x12) && e.g.sc % 16 == 8 && e.out.isSome
    | _ => false)

/-- A write of a table register: 0 XMIN, 1 CTL, 2 + n coefficient n (Tables 6.10, 6.11). -/
def tabWriteReg (t : Dtab) (i : Nat) (v : W32) : Dtab :=
  match i with
  | 0 => { t with xmin := v }
  | 1 => { t with sw := BitVec.ofNat 8 v.toNat, extrap := bit v.toNat 8, valid := bit v.toNat 9 }
  | _ => if i < 258 then { t with coef := tabSet 0 t.coef (i - 2) v } else t

/-- The result of an EW is written: to the store from the output stage, with its flag and its count of lines (R135, R168). -/
def ewWrite (s : State) (c : CellLoc) (o : Op) (e : EwOp) (r : List (Nat × List Byte) × Bool) : State :=
  let s := modCell s c (fun x =>
    let y := writeStores x r.1
    { y with m := { removeOp y.m o.id with outHeld := none } })
  let s := if r.2 then streamNonfinite s (opLoc c o) else s
  settle (bump s c.die (setCellSet c.site) 5 e.lines) c

/-- Puts an item on a route's source port. -/
def queueItem (s : State) (d : DieId) (slot r : Nat) (it : Item) : State :=
  modRoute s d slot r (fun x => { x with outq := x.outq ++ [it] })

/-- The result of a DRAIN is converted and written; that of a RED of a name goes to the reduction output in issue order. A result
for the store that a grant holds stays in the output stage (R135, R137), where an EW's may wait too. DESIGN CHOICE (assumption 82): a
chain frame has no destination tile, so the flags of a RED of a name go to the TNSTAT of the tile that it read. -/
def drainWrite (s : State) (c : CellLoc) (op : Nat) : State :=
  let x := getCell s c
  match findOp x.m op with
  | some o => match o.kind with
    | .ew e => match e.out with
      | none => s
      | some r => if x.c.grant.isSome then s else ewWrite s c o e r
    | .drain d => match d.taken with
      | none => s
      | some t =>
        if !mayAct x o || x.m.outHeld.any (fun id => id != op) then s
        else if toStore d.dest && x.c.grant.isSome then modM s c (fun m => { m with outHeld := some op })
        else
          let s := modM s c (fun m => { m with outHeld := none })
          let x := getCell s c
          let sh := drainShape d
          let f := (fmtOfCode d.fmt).getD .fp32
          let k := convTile f ((rndOfCode d.rnd).getD .rne) sh.sat sh.saxis sh.rows sh.cols (drainVal x d t) d.draws
          let y := putConv x d.dest f d.cfg sh.rows sh.cols k
          let s2 := flagDest (setCell s c { y with m := removeOp y.m op }) (opLoc c o) d.dest k.flags
          settle (bump s2 c.die (setCellSet c.site) 4 1) c
    | .redAcc wfmt tag win (some t) =>
      if (firstRed x.m).any (fun f => f.id == op) then
        match cellRedRoute s c with
        | none => s
        | some (slot, r) =>
          if !(getRoute (getDie s c.die) slot r).outq.isEmpty then s
          else
            let p := redAccItem t wfmt tag win
            flagAcc (queueItem s c.die slot r p.1) (opLoc c o) t.pt p.2
      else s
    | _ => s
  | none => s

end Sys2Proof.Machine
end

