-- ==== Sys2Proof/Machine/CellActions.lean ====
section
/-! DEFINITION. Stream actions, fault resolution and the writes of a cell's own registers (R44, R88, R89, R112, R114, R131, R175, R182). -/

namespace Sys2Proof.Machine

/-! ### Stops (R88, R114) -/

/-- A task of the stream stops after its last step whose slices have entered, and its engine is free. One inside a period of W8 or
W4 goes on to the period's end while its operands are there, one at a spill point spills first, and one that has taken its last step
completes (R88). -/
def stopTasks (x : CellAll) (n : Nat) : CellMem :=
  let m := x.m
  let mine := fun (o : Op) => o.stream == n && (taskOf o).any (fun t => stopsHere x (getEngine m ((opTile x o).getD 0 / 2)) t)
  let ids := (m.ops.filter mine).map Op.id
  let m := mapEngines (fun e => match e.cur with
    | some i => if ids.contains i then { e with cur := none, turn := false } else e
    | none => e) m
  { m with ops := m.ops.map (fun o => match taskOf o with
      | some t => if mine o then { o with kind := .task { t with st := .stopped } } else o
      | none => o) }

/-- Stopped tasks of the stream may be chosen again (R88). -/
def resumeTasks (m : CellMem) (n : Nat) : CellMem :=
  { m with ops := m.ops.map (fun o => match taskOf o with
      | some t => if o.stream = n ∧ t.st = .stopped then { o with kind := .task { t with st := .ready } } else o
      | none => o) }

/-- A TFETCH in flight stops at its next uncommitted row with KIND ASYNC_STOP, and a TSTORE after its next accepted row (R114). -/
def stopTransfers (m : CellMem) (n : Nat) : CellMem :=
  { m with ops := m.ops.map (fun o => match o.kind with
      | .transfer t => if o.stream = n ∧ t.stopped.isNone then
          (if t.store then { o with kind := .transfer { t with stopReq := true } }
          else { o with kind := .transfer { t with stopped := some kAsyncStop, arrived := [], faults := [] } }) else o
      | _ => o) }

/-- The stream's transfers whose next row has already faulted record that fault, not the stop (R115). -/
def stopFaulted (s : State) (l : StreamLoc) : State :=
  (getCell s (cellOf l)).m.ops.foldl (fun s o => match o.kind with
    | .transfer t =>
      if o.stream = l.stream ∧ t.store = false ∧ t.stopped.isNone ∧ tabGet 0 t.faults t.row ≠ 0 then
        stopTransfer s (cellOf l) o t (tabGet 0 t.faults t.row)
      else s
    | _ => s) s

/-- Stopped transfers that a test on their kind picks go on from their row; the rows are translated afresh (R112). -/
def restartTransfers (m : CellMem) (n : Nat) (p : Nat → Bool) : CellMem :=
  { m with ops := m.ops.map (fun o => match o.kind with
      | .transfer t => if o.stream = n ∧ t.stopped.any p then
          { o with kind := .transfer { t with
            stopped := none, stopReq := false, arrived := [], faults := [], asked := t.row } } else o
      | _ => o) }

/-- A stop request that a TSTORE has not yet met ends with the RESUME of its stream. -/
def dropStops (m : CellMem) (n : Nat) : CellMem :=
  { m with ops := m.ops.map (fun o => match o.kind with
      | .transfer t => if o.stream = n then { o with kind := .transfer { t with stopReq := false } } else o
      | _ => o) }

/-- A stop by request or by the stop line: issue halts in a RUNNING stream, and transfers and tasks in flight stop. A fault that has
returned for a transfer's next row is recorded and leaves the stream FAULTED (R88, R114, R115). -/
def stopStream (s : State) (l : StreamLoc) : State :=
  let s := stopFaulted s l
  let s := modCell s (cellOf l) (fun x => { x with m := stopTransfers (stopTasks x l.stream) l.stream })
  recordStop (modStream s l (fun t => { t with
    st := if t.st = .running then .stopped else t.st
    stopAt := if t.st = .running then some (beatNow s l) else t.stopAt
    asyncStop := !(stoppedOf (getCell s (cellOf l)).m l.stream).isEmpty })) l

/-- The record of SFLT_INFO is cleared. DESIGN CHOICE (assumption 104): VALID and MORE read 0, and the record's other fields keep what it
held. -/
def clearSflt (t : Stream) : Stream := { t with sflt := { t.sflt with valid := false, more := false } }

/-! ### Actions (Table 6.20) -/

/-- The excepted instructions of a stream behind its issue point go on: a task may be chosen again, an XFETCH runs again from its
start. Those whose exception was not recorded meet it again (R180, Table 6.20). DESIGN CHOICE (assumption 83): an instruction that
raised TREG_PARITY reads again, a TST from the line that it had reached. -/
def retryOps (m : CellMem) (n : Nat) : CellMem :=
  { m with ops := m.ops.map (fun o => if o.stream ≠ n then o else match o.kind with
      | .task t => if t.st = .stopped then { o with kind := .task { t with st := .ready } } else o
      | .xfetch x => if x.fault.isSome then { o with kind := .xfetch { x with fault := none, done := 0, asked := 0, got := 0 } } else o
      | _ => { o with bad := false }) }

/-- The faulted XFETCHes of a stream ask their gate again for their transfers and grants (R134, R158). -/
def retryAsks (s : State) (l : StreamLoc) : State :=
  (getCell s (cellOf l)).m.ops.foldl (fun s o => match o.kind with
    | .xfetch x => if o.stream = l.stream ∧ x.fault.isSome then xfetchAsks s (cellOf l) o.id x else s
    | _ => s) s

/-- The excepted instructions of a stream run again. -/
def retryStream (s : State) (l : StreamLoc) : State :=
  settle (modM (retryAsks s l) (cellOf l) (fun m => retryOps m l.stream)) (cellOf l)

/-- The excepted instruction retires: it ends with what it has done. DESIGN CHOICE (assumption 83): a DRAIN that raised TREG_PARITY
frees its tile, which would else never be read. -/
def skipOp (x : CellAll) (id : Nat) : CellAll :=
  let m := removeOp (mapEngines (fun e => if e.cur = some id then { e with cur := none, turn := false } else e) x.m) id
  match findOp x.m id with
  | some o => match o.kind, opTile x o with
    | .drain _, some pt =>
      let c := match (getAcc x.c pt).img with
        | some i => closeImage x.c i
        | none => x.c
      { c := freeTile c pt, m := m }
    | _, _ => { x with m := m }
  | none => { x with m := m }

/-- A DRAIN or EW that retires unwritten has drawn nothing (R45): its draws go back to the generator. DESIGN CHOICE (assumption 105):
where a later instruction has drawn since, those draws stay. -/
def undraw (x : CellAll) (id : Nat) (t : Stream) : Stream :=
  let back := fun (was now : W64) => if t.sr = now then { t with sr := was } else t
  match (findOp x.m id).map Op.kind with
  | some (.drain d) => if d.draws.isEmpty then t else back d.srWas d.srNow
  | some (.ew e) => if e.draws.isEmpty then t else back e.srWas e.srNow
  | _ => t

/-- Transfers that a stop of EXCEPTION's beat stopped go on with the stream (R183). -/
def restartAsync (s : State) (l : StreamLoc) : State :=
  modStream (modM s (cellOf l) (fun m => dropStops (restartTransfers m l.stream (fun k => k == kAsyncStop)) l.stream)) l
    (fun t => if t.sflt.valid && t.sflt.kind == kAsyncStop then { clearSflt t with asyncStop := false } else { t with asyncStop := false })

/-- The stream goes on: RUNNING, or FAULTED while a transfer of it stands faulted, which SFLT_ACT has to resolve (R109, R182, R184). -/
def goOn (s : State) (l : StreamLoc) : State :=
  if (stoppedOf (getCell s (cellOf l)).m l.stream).isEmpty then modStream s l (fun t => { t with st := .running, excOp := none })
  else streamEvent (recordStop (modStream s l (fun t => { t with st := .faulted, excOp := none })) l) l 1

/-- An action of STREAM_ACT: its effect where the state of the stream allows it, else none. A stop that reaches the stream in the beat
of its exception is taken as done (R183). -/
def streamAct (s : State) (l : StreamLoc) (act : Nat) : Option State :=
  let t := getStream s l
  let c := cellOf l
  match act, t.st with
  | 1, .idle => some (modStream s l (fun t => { t with st := .running, loops := [], wait := .none }))
  | 1, .halted => some (modStream s l (fun t => { t with st := .running, loops := [], wait := .none }))
  | 2, .exception => some (retryStream (goOn (restartAsync s l) l) l)
  | 3, .exception =>
    match t.excOp with
    | none => some (goOn (restartAsync (modStream s l (fun t =>
        let p := loopBack t.loops t.pc.toNat
        { t with loops := p.1, pc := BitVec.ofNat 32 p.2 })) l) l)
    | some id =>
      some (retryStream (goOn (restartAsync (modCell (modStream s l (undraw (getCell s c) id)) c (fun x => skipOp x id)) l) l) l)
  | 4, .running => some (stopStream s l)
  | 4, .exception => if t.excAt = some (beatNow s l) then some (stopStream s l) else none
  | 5, .stopped =>
    let async := t.sflt.valid && t.sflt.kind == kAsyncStop
    let s := modM s c (fun m => dropStops (restartTransfers (resumeTasks m l.stream) l.stream (fun k => async || k == kAsyncStop)) l.stream)
    some (settle (goOn (modStream s l (fun t => { (if async then clearSflt t else t) with asyncStop := false })) l) c)
  | _, _ => none

/-- An action in a state that does not allow it sets ACT_IGNORED (R182). -/
def streamActWrite (s : State) (l : StreamLoc) (act : Nat) : State :=
  (streamAct s l act).getD (modStream s l (fun t => { t with actIgnored := true }))

/-- A write of STREAM_ACT by an agent. -/
def streamActCmd (s : State) (agent : Nat) (l : StreamLoc) (act : Nat) : Res := streamWrite s agent l 3 act (streamActWrite s l act)

def execStreamStart (agent : Nat) (l : StreamLoc) (s : State) : Res := streamActCmd s agent l 1
def execStreamRetry (agent : Nat) (l : StreamLoc) (s : State) : Res := streamActCmd s agent l 2
def execStreamSkip (agent : Nat) (l : StreamLoc) (s : State) : Res := streamActCmd s agent l 3
def execStreamStop (agent : Nat) (l : StreamLoc) (s : State) : Res := streamActCmd s agent l 4
def execStreamResume (agent : Nat) (l : StreamLoc) (s : State) : Res := streamActCmd s agent l 5

/-! ### SFLT_ACT (R112, R115, R116) -/

/-- The stream goes on after its transfers are resolved; one in EXCEPTION, HALTED or IDLE stays there. -/
def resumeIssue (s : State) (l : StreamLoc) : State :=
  let go := decide ((getStream s l).st = .faulted) || decide ((getStream s l).st = .stopped)
  let s := if go then modM s (cellOf l) (fun m => dropStops (resumeTasks m l.stream) l.stream) else s
  settle (modStream s l (fun t => { clearSflt t with st := if go then .running else t.st, asyncStop := false })) (cellOf l)

/-- A cancelled TFETCH leaves its slot INVALID and drops the latches tagged with it (R102, R112). -/
def cancelSlots (x : CellAll) (ts : List (Op × Transfer)) : CellAll :=
  ts.foldl (fun x p => if p.2.store then x else
    { c := setTslot x.c p.2.slot { getTslot x.c p.2.slot with invalid := true, srcValid := false }
      m := mapEngines (dropLatches (fun t => t == p.2.slot)) x.m }) x

/-- RESUME (1) or CANCEL (2) of SFLT_ACT; 0 and 3 have no effect. -/
def sfltAct (s : State) (l : StreamLoc) (act : Nat) : State :=
  let c := cellOf l
  let held := stoppedOf (getCell s c).m l.stream
  if act ≠ 1 ∧ act ≠ 2 then s
  else if held.isEmpty then modStream s l (fun t => { t with sflt := { t.sflt with actIgnored := true } })
  else if act = 1 then resumeIssue (modM s c (fun m => restartTransfers m l.stream (fun _ => true))) l
  else
    let s := modCell s c (fun x => cancelSlots x held)
    resumeIssue (modM s c (fun m => { m with ops := m.ops.filter (fun o => !(held.map (fun p => p.1.id)).contains o.id) })) l

/-- SFLT_ACT belongs to access streams only (R110); the slot of an execute stream holds no register and ignores writes. -/
def sfltCmd (s : State) (agent : Nat) (l : StreamLoc) (act : Nat) : Res :=
  streamWrite s agent l 14 act (if isExec l.stream then s else sfltAct s l act)

def execSfltResume (agent : Nat) (l : StreamLoc) (s : State) : Res := sfltCmd s agent l 1
def execSfltCancel (agent : Nat) (l : StreamLoc) (s : State) : Res := sfltCmd s agent l 2

/-! ### Writes of registers with a row of their own -/

/-- STREAM_PC is writable in IDLE and HALTED (R182, Table 6.15). -/
def writePc (s : State) (l : StreamLoc) (v : Nat) : State :=
  modStream s l (fun t => match t.st with
    | .idle => { t with pc := BitVec.ofNat 32 v }
    | .halted => { t with pc := BitVec.ofNat 32 v }
    | _ => { t with actIgnored := true })

def execStreamPcWrite (agent : Nat) (l : StreamLoc) (v : W64) (s : State) : Res :=
  streamWrite s agent l 1 v.toNat (writePc s l v.toNat)

def writeSr (s : State) (l : StreamLoc) (v : W64) : State := modStream s l (fun t => { t with sr := srSeed v })

def execSrStateWrite (agent : Nat) (l : StreamLoc) (v : W64) (s : State) : Res :=
  streamWrite s agent l 4 v.toNat (writeSr s l v)

/-- The three priorities name three distinct contexts (R131). -/
def prioOk (a b c : Nat) : Bool := decide (a < 3) && decide (b < 3) && decide (c < 3) && a != b && b != c && a != c

/-- A write of SCHED_CTL (R131, Table 5.3). -/
def schedWrite (d : Sched) (v : Nat) : Sched :=
  let p := prioOk (fld v 17 16) (fld v 19 18) (fld v 21 20)
  { mode := bit v 0, wF := fld v 7 4, wB := fld v 11 8, wU := fld v 15 12
    p1 := if p then fld v 17 16 else d.p1, p2 := if p then fld v 19 18 else d.p2, p3 := if p then fld v 21 20 else d.p3 }

def writeSched (s : State) (c : CellLoc) (v : Nat) : State := modC s c (fun k => { k with sched := schedWrite k.sched v })

def execSchedCtlWrite (agent : Nat) (c : CellLoc) (v : W32) (s : State) : Res := 
  cellReg s agent c 0x18 v.toNat (writeSched s c v.toNat)

def writeEng (s : State) (c : CellLoc) (v : Nat) : State := modC s c (fun k => { k with engEn := BitVec.ofNat 4 v })

def execEngCtlWrite (agent : Nat) (c : CellLoc) (v : W32) (s : State) : Res := cellReg s agent c 0x10 v.toNat (writeEng s c v.toNat)

def mapDtab (m : CellMem) (deriv : Bool) (f : Dtab → Dtab) : CellMem :=
  if deriv then { m with dtab := f m.dtab } else { m with ftab := f m.ftab }

def putDtab (s : State) (c : CellLoc) (deriv : Bool) (idx : Nat) (v : W32) : State :=
  modM s c (fun m => mapDtab m deriv (fun t => tabWriteReg t idx v))

/-- The offset of a table's register in the cell's block (Table 19.15). -/
def dtabOff (deriv : Bool) (idx : Nat) : Nat := (if deriv then 0x4000 else 0x3000) + 8 * idx

/-- A write of a table register waits, and so does its acknowledgement, while a DRAIN or EW uses the table (R175). -/
def execDtabWrite (agent : Nat) (c : CellLoc) (deriv : Bool) (idx : Nat) (v : W32) (s : State) : Res :=
  if reachesCell s agent c && tableUsed (getCell s c).m deriv && !cellHeld s c then
    nx (holdAccess s c { agent := agent, write := true, off := dtabOff deriv idx, mask := 2 ^ 64 - 1, val := v.toNat })
  else cellReg s agent c (dtabOff deriv idx) v.toNat (putDtab s c deriv idx v)

/-! ### Sector controllers (R19) -/

/-- The periodic check of a sector controller: an answer restarts its 100 µs. -/
def execSectorCheck (d : DieId) (sec : Nat) (answers : Bool) (s : State) : Res :=
  let x := getDie s d
  if x.clk.running && decide (sec < 16) && answers && decide (s.hd.sec.applying ≠ dieNum d + 1) then
    nx (modDie s d (fun x => { x with fuse := { x.fuse with lastAnswer := tabSet 0 x.fuse.lastAnswer sec x.clk.tb } }))
  else nx s

/-- Every stream of a site stops as its stop line is active: RUNNING streams become STOPPED, and the transfers and tasks in flight
of a stream in EXCEPTION or FAULTED stop too; the line then holds every task of the site (R19, R88, R114). -/
def stopSite (s : State) (d : DieId) (site : Nat) : State :=
  let s := modC s { die := d, site := site } (fun c => { c with stopLine := true })
  (List.range 6).foldl (fun s n => stopStream s { die := d, site := site, stream := n }) s

/-- A sector controller that gives no answer for 100 µs fails: its streams stop, a record is written, its sites are absent. -/
def execSectorFailed (d : DieId) (sec : Nat) (s : State) : Res :=
  let x := getDie s d
  if x.clk.running && decide (sec < 16) && !x.fuse.failed.toNat.testBit sec && decide (s.hd.sec.applying ≠ dieNum d + 1)
      && decide (tabGet 0 x.fuse.lastAnswer sec + 100000 ≤ x.clk.tb) then
    let sites := (List.range 272).filter (fun n => sectorOf n == sec && siteEnabled x n)
    let s := sites.foldl (fun s n => stopSite s d n) s
    let s := logErr s (some d) { cls := 0x0C, code := 1, unitKind := 0x0A, unitIndex := sec, detail := sec }
    nx (modDie s d (fun x => { x with fuse := { x.fuse with failed := x.fuse.failed ||| BitVec.ofNat 16 (2 ^ sec) } }))
  else nx s

end Sys2Proof.Machine
end

