-- ==== Sys2Proof/Machine/HostMem.lean ====
section
/-! DEFINITION. The host HBM window: accesses by host physical address (R296, R301, R469, R470, R474, Table 16.21). -/

namespace Sys2Proof.Machine

/-- What an access through the host HBM window gives. -/
inductive HostAcc where
  | ok (data : List Byte)
  | bus
  | uncorr
  deriving DecidableEq, Repr

/-- The granules of 1 GiB that a range of host addresses meets. -/
def hostGranules (addr n : Nat) : List Nat :=
  if n = 0 then [] else (List.range ((addr + n - 1) / gib - addr / gib + 1)).map (fun i => addr / gib + i)

/-- The range lies in the window, in VALID regions, within the capacity of running dies that the host die reaches. -/
def hostOk (s : State) (addr n : Nat) : Bool :=
  decide (addr + n ≤ 2 ^ 40) && (hostGranules addr n).all (fun g =>
    let h := g * gib
    let d := getDie s (hpaDie h)
    hostReaches s (hpaDie h) && (regionAt d (hpaOff h)).isSome && decide (hpaOff h + gib ≤ capacity d))

/-- The confidential partition whose region the range meets. -/
def hostConf (s : State) (addr n : Nat) : Option Nat :=
  (hostGranules addr n).findSome? (fun g =>
    let h := g * gib
    match regionAt (getDie s (hpaDie h)) (hpaOff h) with
    | some r => if !r.host && confidential s r.part.toNat then some r.part.toNat else none
    | none => none)

/-- The first refusal after CONF_SET writes a record (Table 16.21). -/
def refuseConf (s : State) (p : Nat) : State :=
  if (getSec s p).refusedOnce then s
  else
    let s := modSec s p (fun x => { x with refusedOnce := true })
    logErr s none { cls := 0x0B, code := 1, part := some p, unitKind := 0x0B, detail := p }

/-- The controller's record of an uncorrectable access by a host-die agent or by another module (R296, R361). -/
def recHostUncorr (s : State) (part : Option Nat) (addr n : Nat) (write : Bool) : State :=
  let a := (firstUncorr s addr n write).getD addr
  let x := getDie s (hpaDie a)
  let o := hpaOff a
  recUncorr s (hpaDie a) part a 5 0 (stackOf x o * 32 + channelOf x o) 0 0 0

/-- The range meets HBM whose controllers change their rate (R300). -/
def hostHeld (s : State) (addr n : Nat) : Bool := (hostGranules addr n).any (fun g => hbmStopped (getDie s (hpaDie (g * gib))))

/-- A read by host physical address, through the homes of its lines (R306). -/
def hostRead (s : State) (addr n : Nat) : HostAcc × State :=
  if !hostOk s addr n then (.bus, s)
  else match hostConf s addr n with
    | some p => (.ok (List.replicate n 0), refuseConf s p)
    | none => if hbmUncorr s addr n then (.uncorr, recHostUncorr s none addr n false) else (.ok (readHbm s addr n), touchLines s addr n)

/-- A write by host physical address; one to a confidential region is ignored. -/
def hostWrite (s : State) (addr : Nat) (bs : List Byte) : HostAcc × State :=
  if !hostOk s addr bs.length then (.bus, s)
  else match hostConf s addr bs.length with
    | some p => (.ok [], refuseConf s p)
    | none => if writeBlocked s addr bs.length then (.uncorr, recHostUncorr s none addr bs.length true) else (.ok [], storeHbm s addr bs)

end Sys2Proof.Machine
end

