-- ==== Sys2Proof/Machine/FlashStore.lean ====
section
/-! DEFINITION. The flash store as reads see it: units, stripes, the map in HBM, extents and health (R322 to R324, R330, R336, R338, R339). -/

namespace Sys2Proof.Machine

/-- Logical units of the user area (R322). -/
def userUnits : Nat := 427246093

/-- The package of a unit (R322). -/
def unitPkg (u : Nat) : Nat := u % 16

/-- A unit's entry of the map (Table 12.3). -/
def mapEntry (s : State) (u : Nat) : Nat := leNat (readHbm s (s.hd.flash.mapNow + 4 * u) 4)

def setMapEntry (s : State) (u v : Nat) : State := storeHbm s (s.hd.flash.mapNow + 4 * u) (leBytes 4 v)

def entMapped (e : Nat) : Bool := bit e 26
def entUncorr (e : Nat) : Bool := bit e 27
/-- Die, block and page of an entry, packed as Table 12.3 packs them. -/
def entPlace (e : Nat) : Nat := fld e 25 0

/-- The key of a stripe: its package, and its die, block and page. -/
def stripeKey (pkg place : Nat) : Nat := pkg * 2 ^ 26 + place

def getStripe (s : State) (key : Nat) : Option Stripe := tabGet none s.hd.flash.nand key

def modFlash (s : State) (f : HdFlash → HdFlash) : State := { s with hd := { s.hd with flash := f s.hd.flash } }

def setStripe (s : State) (key : Nat) (x : Option Stripe) : State := modFlash s (fun y => { y with nand := tabSet none y.nand key x })

/-- The map in HBM serves: it is whole, and its die's controllers do not change their rate (R300, R324). -/
def mapOpen (s : State) : Bool := s.hd.flash.mapReady && !hbmStopped (getDie s (hpaDie s.hd.flash.mapNow))

/-- The check value of a unit stored at a place of a package (R336). -/
def placeCheck (u pkg place : Nat) (bs : List Byte) : Nat := unitCheck u pkg (fld place 2 0) (fld place 13 3) (fld place 25 14) bs

/-- The unit's package has FAILED. -/
def pkgFailed (s : State) (u : Nat) : Bool := s.hd.flash.failedPkg.toNat.testBit (unitPkg u)

/-- What a read of a unit gives. -/
inductive UnitR where
  | ok (data : List Byte)
  /-- The map is not ready, or a retry of the unit is under way. -/
  | wait
  | pkg
  | uncorr
  | check
  deriving DecidableEq, Repr

/-- The stripe at an entry's place gives a unit's bytes, or fails its check. -/
def stripeRead (s : State) (u e : Nat) : UnitR :=
  match getStripe s (stripeKey (unitPkg u) (entPlace e)) with
  | none => .check
  | some x => if x.check ≠ placeCheck u (unitPkg u) (entPlace e) x.data then .check else .ok x.data

/-- A read of a unit, whole (R323, R324, R336, R338). -/
def readUnit (s : State) (u : Nat) : UnitR :=
  if !mapOpen s then .wait
  else if pkgFailed s u then .pkg
  else
    let e := mapEntry s u
    if !entMapped e then .ok (List.replicate 65536 0)
    else if entUncorr e then .uncorr
    else if tabGet 0 s.hd.flash.retries u ≠ 0 then .wait
    else stripeRead s u e

/-- A read of a unit by a command that waits for it: what its retries gave, else the unit as the map names it (R324). -/
def readNow (s : State) (u : Nat) : UnitR :=
  match tabGet (0, []) s.hd.flash.decoded u with
  | (1, bs) => .ok bs
  | (2, _) => .uncorr
  | (3, _) => .check
  | _ => readUnit s u

/-- What the retries of a unit gave is kept for the command that waits for it. -/
def keepRead (s : State) (u : Nat) (r : UnitR) : State :=
  modFlash s (fun x => { x with decoded := tabSet (0, []) x.decoded u (match r with
    | .ok bs => (1, bs)
    | .uncorr => (2, [])
    | .check => (3, [])
    | _ => (0, [])) })

/-- The outcomes kept for a run of units are used up. -/
def dropReads (s : State) (first count : Nat) : State :=
  modFlash s (fun x => { x with decoded := tabKeep (fun k => !(decide (first ≤ k) && decide (k < first + count))) x.decoded })

/-! ### Blocks (R320, R325 to R327, R329) -/

/-- The key of the block in which a stripe lies. -/
def blockOf (key : Nat) : Nat := key / 2 ^ 26 * 2 ^ 26 + key % 2 ^ 14

/-- Blocks that the boot region reserves in SLC mode: 688 of die 0 of NF00 and of NF01, four planes to a block number. DESIGN CHOICE
(assumption 58): the last 172 block numbers. -/
def bootBlock (block : Nat) : Bool :=
  decide (block / 2 ^ 26 < 2) && decide (fld block 2 0 = 0) && decide (1656 - 172 ≤ fld block 13 3)

/-- A block that the store may use for user data: it is there, in TLC mode, and not retired. -/
def blockGood (s : State) (block : Nat) : Bool :=
  decide (fld block 13 3 < 1656) && !bootBlock block && !s.hd.flash.retired.contains block

/-- The fewest erases of a good block of a package: none while some block of it has not been erased. -/
def leastErases (s : State) (pkg : Nat) : Nat :=
  let f := s.hd.flash
  let mine := f.erases.filter (fun e => decide (e.1 / 2 ^ 26 = pkg) && blockGood s e.1)
  let gone := (f.retired.filter (fun b => decide (b / 2 ^ 26 = pkg) && !bootBlock b)).length
  let blocks := 13248 - (if pkg < 2 then 172 else 0)
  if mine.length + gone < blocks then 0 else mine.foldl (fun m e => min m e.2) 65535

/-- One more erase of the block keeps the spread of its package at 300 cycles or less (R325). -/
def wearOk (s : State) (block : Nat) : Bool :=
  decide (tabGet 0 s.hd.flash.erases block + 1 ≤ leastErases s (block / 2 ^ 26) + 300)

/-- The block is erased. -/
def eraseBlock (s : State) (block : Nat) : State :=
  modFlash s (fun x => { x with
    nand := tabKeep (fun k => blockOf k != block) x.nand, erases := tabSet 0 x.erases block (tabGet 0 x.erases block + 1)
    reads := tabSet 0 x.reads block 0, refresh := x.refresh.filter (fun b => b != block) })

/-- A NAND read of a stripe counts in its block; the 80,000th since its erase makes the block due to move (R326). -/
def noteRead (s : State) (key : Nat) : State :=
  let b := blockOf key
  modFlash s (fun x =>
    let n := tabGet 0 x.reads b + 1
    { x with reads := tabSet 0 x.reads b n, refresh := if 80000 ≤ n ∧ !x.refresh.contains b then x.refresh ++ [b] else x.refresh })

/-- The NAND reads of a run of units that has been read. -/
def noteRun (s : State) (u n : Nat) : State :=
  (List.range n).foldl (fun s i =>
    let e := mapEntry s (u + i)
    if entMapped e && !entUncorr e then noteRead s (stripeKey (unitPkg (u + i)) (entPlace e)) else s) s

/-! ### The order of reads (R332, R337) -/

/-- A run of units has one of a package. -/
def runMeets (first count pkg : Nat) : Bool := (List.range (min 16 count)).any (fun i => unitPkg (first + i) == pkg)

/-- The fault kind that COPY and readers see (Table 4.9). -/
def unitKind : UnitR → Nat
  | .check => kCheckFail
  | _ => kFlashFail

/-- Bytes of consecutive units; the first that does not read decides. -/
def readUnits (s : State) (u : Nat) : Nat → Except UnitR (List Byte)
  | 0 => .ok []
  | n + 1 =>
    match readUnits s u n with
    | .error e => .error e
    | .ok bs => match readNow s (u + n) with
      | .ok x => .ok (bs ++ x)
      | r => .error r

end Sys2Proof.Machine
end

