-- ==== Sys2Proof/Machine/Stations.lean ====
section
/-! DEFINITION. Stations: where they attach, how they halt, their tokens, and what each kind does when a micro-batch begins
(R185 to R200, R289 to R292, R309, R310, R313, R334, R335). -/

namespace Sys2Proof.Machine

/-! ### Places -/

/-- The Floor node of a station instance (Table 7.1). -/
def nodeOf (kind place : Nat) : Nat :=
  match kind with
  | 1 => groupOf place | 2 => place % 16 | 3 => place / 4 | 4 => place / 4 | 5 => place / 4
  | 6 => place | 7 => place / 2 | 8 => 4 * (place / 4) + 1 | 9 => 4 * (place / 4) + 2 | 10 => place | _ => place % 16

/-- The number of instances of a kind on a die, by PLACE (Table 7.1). -/
def placesOf : Nat → Nat
  | 1 => 272 | 2 => 64 | 3 => 64 | 4 => 64 | 5 => 64 | 6 => 16 | 7 => 32 | 8 => 16 | 9 => 16 | 10 => 16 | 11 => 64 | _ => 0

/-- Where an event on a station of a Bill acts: the slot's Bill while it is enabled, and the station's record. -/
structure StAt where
  d : DieId
  slot : Nat
  bill : List Byte
  st : Nat
  deriving DecidableEq, Repr

/-- The station of an enabled Bill, if the slot holds one and the record exists. -/
def stAt (s : State) (d : DieId) (slot st : Nat) : Option StAt :=
  match runningBill (getDie s d) slot with
  | some b => if st < nStations b then some { d := d, slot := slot, bill := b, st := st } else none
  | none => none

def StAt.kind (a : StAt) : Nat := stKind a.bill a.st
def StAt.place (a : StAt) : Nat := stPlace a.bill a.st
def StAt.part (a : StAt) : Nat := bPart a.bill
def StAt.node (a : StAt) : Nat := nodeOf a.kind a.place
/-- A field of the station's parameter block. -/
def StAt.p (a : StAt) (off n : Nat) : Nat := pf a.bill a.st off n

def stGet (s : State) (a : StAt) (ctx : Nat) : Station := getStation (getDie s a.d) a.slot a.st ctx
def stMod (s : State) (a : StAt) (ctx : Nat) (f : Station → Station) : State := modStation s a.d a.slot a.st ctx f

/-- The caches of the station's memory gate. -/
def stCaches (s : State) (a : StAt) : List Tlb := gateCaches s a.d a.node

/-- The station has transfers to ask its memory gate for (R307). -/
def stAsks (s : State) (a : StAt) : State := askTransfer s a.d a.node (.station a.slot a.st)

/-- Bytes of a station's transfer through its memory gate. -/
def stBytes (s : State) (a : StAt) (va n : Nat) : State := gateBytes s a.d a.node a.part va n

/-- The switch of the slot's partition has reached phase 1 of Table 7.16: sources are stopped. -/
def sourcesStopped (s : State) (a : StAt) : Bool :=
  match (getPart (getDie s a.d) a.part).sw with
  | some w => decide (2 ≤ w.phase) && w.out == some a.slot
  | none => false

/-! ### Halts -/

/-- The station halts with an error record; its micro-batch does not end (R200, R290, R312, R315). -/
def haltStation (s : State) (a : StAt) (cls code detail : Nat) : State :=
  logErr (stMod s a 0 (fun x => { x with halted := true })) (some a.d) {
    cls := cls, code := code, part := some a.part, unitKind := 3, unitSub := a.kind, unitIndex := a.place, detail := detail }

/-- A station's transfer faults: its halt, after the controller's record of an uncorrectable access (R296, R312). -/
def haltFault (s : State) (a : StAt) (cls code detail k : Nat) (rs : List (Nat × Nat)) (write : Bool) : State :=
  let s := if k = kUncorr then
      recUncorr s a.d (some a.part) ((rs.findSome? (fun r => uncorrAt s a.d (stCaches s a) a.part r.1 r.2 write)).getD 0)
        3 a.kind a.place 0 0 0
    else s
  haltStation s a cls code detail

/-- The station is a cell whose sector has failed: it has stopped (R19, R219). -/
def siteLost (s : State) (a : StAt) : Bool := a.kind == 1 && !sitePresent (getDie s a.d) a.place

def stHalted (s : State) (a : StAt) : Bool := (stGet s a 0).halted || siteLost s a

/-! ### Tokens -/

/-- A token of one micro-batch on each of a list of routes. -/
def emitTokens (s : State) (a : StAt) (routes : List Nat) (seq : W32) (arg : W64) : State :=
  routes.foldl (fun s r => queueItem s a.d a.slot r (.token seq arg)) s

/-- The first item presented on a route. -/
def routeHead (s : State) (a : StAt) (r : Nat) : Option Item := (getRoute (getDie s a.d) a.slot r).inbox.head?

/-- Lines of an item; a token takes one credit (R192). -/
def itemLines : Item → Nat
  | .token _ _ => 1
  | .tile _ _ bs => ceilDiv bs.length 256

/-- The station has consumed the first item of a route: its lines' credits are owed (R193). -/
def consumeHead (s : State) (a : StAt) (r : Nat) : State :=
  modRoute s a.d a.slot r (fun x =>
    match x.inbox with
    | [] => x
    | i :: rest => { x with inbox := rest, owed := x.owed + itemLines i, taken := x.taken + 1 })

/-- The next data item of a station: its route, header and bytes, in order of presentation (R191). -/
def nextItem (s : State) (a : StAt) : Option (Nat × W64 × List Byte) :=
  match (stGet s a 0).order with
  | [] => none
  | r :: _ => match routeHead s a r with
    | some (.tile h _ bs) => some (r, h, bs)
    | _ => none

/-- The station takes its next data item. -/
def takeItem (s : State) (a : StAt) : State :=
  match (stGet s a 0).order with
  | [] => s
  | r :: rest => consumeHead (stMod s a 0 (fun x => { x with order := rest })) a r

/-- Data outputs of a station. -/
def dataOuts (a : StAt) : List Nat := (routesFrom a.bill a.st).filter (fun r => rtClass a.bill r == 0)

/-- Everything that the station has put on its data outputs has left (R289, R310, R335). -/
def outsEmpty (s : State) (a : StAt) : Bool :=
  (dataOuts a).all (fun r => (getRoute (getDie s a.d) a.slot r).outq.isEmpty)

/-! ### Work lists -/

/-- Entries of 32 bytes from a list in memory: those of block `k` of `nblk`, skipping earlier blocks; by fuel. -/
def scanBlock (s : State) (d : DieId) (caches : List Tlb) (part : Nat) (isEnd : Nat → Bool) :
    Nat → Nat → Nat → MemR (List Nat)
  | 0, _, _ => .fault kAccess
  | fuel + 1, va, skip =>
    match readVA s d caches part va 32 with
    | .fault k => .fault k
    | .ask q => .ask q
    | .ok bs =>
      let e := leNat bs
      if 0 < skip then scanBlock s d caches part isEnd fuel (va + 32) (if isEnd e then skip - 1 else skip)
      else if isEnd e then .ok [e]
      else match scanBlock s d caches part isEnd fuel (va + 32) 0 with
        | .ok r => .ok (e :: r)
        | x => x

/-- A list cannot hold more entries than the address space has places for. -/
def scanFuel : Nat := 2 ^ 43

/-- The addresses at which the entries of the same block begin and end; an entry that the memory does not give ends them; by fuel. -/
def blockSpan (s : State) (d : DieId) (caches : List Tlb) (part : Nat) (isEnd : Nat → Bool) : Nat → Nat → Nat → Nat × Nat
  | 0, va, _ => (va, va)
  | fuel + 1, va, skip =>
    match readVA s d caches part va 32 with
    | .ok bs =>
      let e := leNat bs
      if 0 < skip then blockSpan s d caches part isEnd fuel (va + 32) (if isEnd e then skip - 1 else skip)
      else (va, if isEnd e then va + 32 else (blockSpan s d caches part isEnd fuel (va + 32) 0).2)
    | _ => (va, va + 32)

/-- A route of a class leaves the port. -/
def portRoute (a : StAt) (port cls : Nat) : Option Nat :=
  (routeAt a.bill a.st port).bind (fun r => if rtClass a.bill r = cls then some r else none)

/-- What stops a station at the beginning of a micro-batch. -/
inductive BeginR (α : Type) where
  | ok (x : α)
  | wait
  | ask (reqs : List (Nat × Nat × Nat × Option (List Byte)))
  | halt (cls code detail : Nat)

/-- A write to a dual entry of a COMMITTING group waits at its handle check (R261). -/
def captureWaits (s : State) (d : DieId) (e : Nat) : Bool :=
  eDual e && (getEpoch (getDie s d) (eGroup e)).commit.isSome

/-- Work of one schedule entry (Table 11.15, R310). -/
def schedWork (s : State) (a : StAt) (blk e : Nat) : BeginR (List Work) :=
  let nt := fld e 63 48
  let doff := fld e 159 128
  if decide (7 < fld e 39 32) || fld e 47 42 != 0 || nt == 0 || decide (256 < nt) || doff % 256 != 0 || fld e 255 160 != 0
      || (portRoute a (fld e 39 32) 0).isNone then .halt 2 4 blk
  else match handleEnt s a.d a.part (fld e 31 0) with
    | none => .halt 5 1 (fld e 31 0)
    | some t => .ok ((List.range nt).map (fun n => {
        port := fld e 39 32, ent := t, base := versBase t (bit e 41), coord := coordPlus (fld e 127 64) n
        off := doff + tileStep t n }))

/-- Work of one read-list entry (Table 12.8, R335); `inExtent` says that a unit lies in the partition's extents. -/
def listWork (s : State) (a : StAt) (inExtent : Nat → Bool) (e : Nat) : BeginR (List Work) :=
  let lunit := fld e 31 0
  let n := fld e 47 32
  let port := fld e 63 56
  let sink := bit e 65
  let bad := n == 0 || decide (4096 < n) || (decide (7 < port) && port != 0xFF) || fld e 71 67 != 0 || fld e 95 72 != 0
    || fld e 191 128 % 256 != 0 || fld e 255 192 != 0 || (port != 0xFF && (portRoute a port 0).isNone)
  if bad then .halt 7 2 lunit
  else if !(List.range n).all (fun i => inExtent (lunit + i)) then .halt 7 2 lunit
  else
    let w : Work := { port := port, off := fld e 191 128, n := fld e 55 48 + 1, unit := lunit, left := n, whole := n, due := n, sink := sink }
    if !sink then .ok [w]
    else match handleEnt s a.d a.part (fld e 127 96) with
      | none => .halt 5 1 (fld e 127 96)
      | some t =>
        if eReadOnly t then .halt 5 3 (fld e 127 96)
        else if captureWaits s a.d t then .wait
        else .ok [{ w with ent := t, base := versBase t (bit e 66) + fld e 191 128 }]

/-- Joins the work of a block's entries: the first entry that stops decides. -/
def joinWork (f : Nat → BeginR (List Work)) : List Nat → BeginR (List Work)
  | [] => .ok []
  | e :: r =>
    match f e with
    | .ok w => match joinWork f r with
      | .ok ws => .ok (w ++ ws)
      | x => x
    | x => x

/-- Extents of a partition in the flash store, as the extent registers give them (R330). -/
def unitOwned (s : State) (part unit : Nat) : Bool :=
  (List.range 64).any (fun i =>
    let v := (tabGet 0 s.hd.flash.ext i).toNat
    bit v 63 && fld v 61 58 == part && decide (fld v 28 0 ≤ unit) && decide (unit < fld v 57 29))

/-- The first bit of a relay's block of candidates in its mask, and the bytes of the mask that hold the block: first byte and number. -/
def relayMask (a : StAt) (m k : Nat) : Nat × Nat × Nat :=
  let lo := tc (a.p 8 8) 0 + k * a.p 4 4
  (lo, lo / 8, min ((lo + a.p 4 4 + 7) / 8) (eExt m 0) - lo / 8)

/-- The bits of a relay's candidates (R289): none where the mask read stops. -/
def expectedTiles (s : State) (a : StAt) (e k : Nat) : BeginR (List Work) :=
  let tiles := a.p 4 4
  let all := (List.range tiles).map (fun n => ({ coord := coordPlus (a.p 8 8) (k * tiles + n), n := n, ent := e } : Work))
  if e = 0 ∨ !eMasked e then .ok all
  else match handleEnt s a.d a.part (eMask e) with
    | none => .halt 5 1 (eMask e)
    | some m =>
      let r := relayMask a m k
      match readEntBytes s a.d (stCaches s a) a.part m (readBase m) r.2.1 r.2.2 with
      | .fault k => .halt 2 5 k
      | .ask q => .ask q
      | .ok bs => .ok (all.filter (fun w => maskBit m (fun i => bs.getD (i - r.2.1) 0) (r.1 + w.n)))

/-! ### Beginning a micro-batch, by kind -/

/-- Applies the begin of a cell context: ARG to s31, MB_SEQ to s30, the entry address and START on each stream with an image (R197). -/
def beginCell (s : State) (a : StAt) (ctx : Nat) (seq : W32) (arg : W64) : State :=
  [2 * ctx, 2 * ctx + 1].foldl (fun s n =>
    match cellImage a.bill a.st n with
    | none => s
    | some _ =>
      let l : StreamLoc := { die := a.d, site := a.place, stream := n }
      let s := modStream s l (fun t => setReg (setReg t 31 arg) 30 (BitVec.ofNat 64 seq.toNat))
      streamActWrite (writePc s l (cellEntry a.bill a.st n)) l 1) s

/-- The captured state of a station at the beginning of its micro-batch `k`. -/
structure Captured where
  ent : Nat := 0
  work : List Work := []
  ents : List Nat := []
  deriving DecidableEq, Repr

/-- The modes of a mover (Table 11.17) and its entries (Table 11.18). -/
def mvMode (a : StAt) : Nat := a.p 0 1
def mvNent (a : StAt) : Nat := a.p 1 1
def mvNblk (a : StAt) : Nat := a.p 4 4
def mvImage (a : StAt) : Nat := a.p 8 8
def mvF (a : StAt) (i off n : Nat) : Nat := a.p (0x10 + 16 * i + off) n

/-- Captures a mover's entries; none for cell-store entries. DESIGN CHOICE (assumption 88): the record of a stale handle has class
MEMORY, which R315 gives for a mover, where Table 8.2 has class FLOOR for stations. -/
def mvCapture (s : State) (a : StAt) : Nat → BeginR (List Nat)
  | 0 => .ok []
  | n + 1 =>
    match mvCapture s a n with
    | .ok r =>
      if mvF a n 0 1 = 1 then .ok (r ++ [0])
      else match handleEnt s a.d a.part (mvF a n 4 4) with
        | none => .halt 2 6 0
        | some e =>
          if mvMode a = 1 ∧ eReadOnly e then .halt 5 3 (mvF a n 4 4)
          else if mvMode a = 1 ∧ captureWaits s a.d e then .wait
          else .ok (r ++ [e])
    | x => x

/-- The block of a schedule or read list that micro-batch `k` reads, and which entries end a block (Tables 11.15, 12.8). -/
def listBlock (a : StAt) (k : Nat) : Nat := k % max 1 (a.p 8 4)
def listEnd (a : StAt) (e : Nat) : Bool := bit e (if a.kind = 3 then 40 else 64)

/-- What a station of each kind captures and checks when its micro-batch `k` begins. -/
def captureFor (s : State) (a : StAt) (k : Nat) : BeginR Captured :=
  match a.kind with
  | 3 =>
    let blk := listBlock a k
    match scanBlock s a.d (stCaches s a) a.part (listEnd a) scanFuel (a.p 0 8) blk with
    | .fault _ => .halt 2 4 blk
    | .ask q => .ask q
    | .ok es => match joinWork (schedWork s a blk) es with
      | .ok w => .ok { work := w }
      | .wait => .wait
      | .ask q => .ask q
      | .halt x y z => .halt x y z
  | 4 => match handleEnt s a.d a.part (a.p 0 4) with
    | none => .halt 5 1 (a.p 0 4)
    | some e => if captureWaits s a.d e then .wait else .ok { ent := e }
  | 6 => match mvCapture s a (mvNent a) with
    | .ok es => .ok { ents := es }
    | .wait => .wait
    | .ask q => .ask q
    | .halt x y z => .halt x y z
  | 7 =>
    let go := fun (e : Nat) => match expectedTiles s a e k with
      | .ok w => BeginR.ok ({ ent := e, work := w } : Captured)
      | .wait => .wait
      | .ask q => .ask q
      | .halt x y z => .halt x y z
    if a.p 0 4 = 0 then go 0
    else match handleEnt s a.d a.part (a.p 0 4) with
      | none => .halt 5 1 (a.p 0 4)
      | some e =>
        if eMasked e && !eMaskBlocks e then .halt 5 4 2
        else if eSlayout e != 0 then .halt 5 4 3
        else if eTrows e != 64 || eTcols e != 64 then .halt 5 4 4
        else if captureWaits s a.d e then .wait else go e
  | 8 =>
    match scanBlock s a.d (stCaches s a) a.part (listEnd a) scanFuel (a.p 0 8) (listBlock a k) with
    | .fault _ => .halt 7 2 0
    | .ask q => .ask q
    | .ok es => match joinWork (listWork s a (unitOwned s a.part)) es with
      | .ok w => .ok { work := w }
      | .wait => .wait
      | .ask q => .ask q
      | .halt x y z => .halt x y z
  | _ => .ok {}

/-! ### The barrier (R200, R291, R292) -/

/-- A STEP_COMMIT in progress that names the barrier and has not voted. -/
def voteDue (s : State) (a : StAt) : Bool :=
  (getDie s a.d).epochs.any (fun e => match e.2.commit with
    | some c => !c.abandon && c.barrier == a.place && c.voted.isNone && ownerEpoch s a.d e.1 == some a.part
    | none => false)

/-- ARG[0] that the barrier's micro-batch emits: the OR over its tokens and the die's vote. -/
def barrierBit (s : State) (a : StAt) (gating : List Nat) : Bool :=
  gating.any (fun r => match routeHead s a r with
    | some (.token _ arg) => arg.toNat.testBit 0
    | _ => false) || (stGet s a 0).votes.head? == some true

/-- The barrier may begin: with a vote due it waits for it, and with no input route it begins only on a vote. -/
def barrierReady (s : State) (a : StAt) (gating : List Nat) : Bool :=
  !(stGet s a 0).votes.isEmpty || (!gating.isEmpty && !voteDue s a)

/-! ### Transfers of stations (R307, R310, R313) -/

/-- The entry of a mover that holds block `b`, and the byte at which the block begins in it. -/
def mvEntryAt (a : StAt) (b : Nat) : Nat → Nat → Option (Nat × Nat)
  | 0, _ => none
  | n + 1, i =>
    let nb := ceilDiv (mvF a i 0xC 4) 65536
    if b < nb then some (i, b * 65536) else mvEntryAt a (b - nb) n (i + 1)

/-- The transfers that read what micro-batch `k` captures: its block of a schedule or read list, or a relay's mask. -/
def listTransfers (s : State) (a : StAt) (k : Nat) : List (Nat × Nat) :=
  match a.kind with
  | 7 => match handleEnt s a.d a.part (a.p 0 4) with
    | some e => if eMasked e then match handleEnt s a.d a.part (eMask e) with
        | some m => let r := relayMask a m k; rangeTransfers (readBase m + r.2.1) r.2.2
        | none => []
      else []
    | none => []
  | 3 | 8 =>
    let p := blockSpan s a.d (stCaches s a) a.part (listEnd a) scanFuel (a.p 0 8) (listBlock a k)
    rangeTransfers p.1 (p.2 - p.1)
  | _ => []

/-- The transfers of a mover's block: those of its tensor, and those of its image in memory with the block's check value. -/
def blockTransfers (a : StAt) (x : Station) (b : Nat) : List (Nat × Nat) :=
  let ent := if 2 ≤ mvMode a then [] else match mvEntryAt a b (mvNent a) 0 with
    | some (i, o) =>
      let e := x.ents.getD i 0
      if mvF a i 0 1 = 1 then []
      else rangeTransfers (versBase e (mvF a i 1 1 == 1) + mvF a i 8 4 + o) (min 65536 (mvF a i 0xC 4 - o))
    | none => []
  let img := if mvImage a = 0 then []
    else rangeTransfers (mvImage a + 65536 * b) 65536 ++ [(mvImage a + 65536 * mvNblk a + 8 * b, 8)]
  if mvMode a = 0 ∨ mvMode a = 2 then ent ++ img else img ++ ent

/-- Where the next unit of a read-list entry goes in its sink (R335). -/
def sinkVa (w : Work) : Nat := w.base + 65536 * (w.whole - w.due)

/-- The transfers of the step before a station: a tile to deliver or to write, a block, or a unit for a sink. -/
def stepTransfers (a : StAt) (x : Station) : List (Nat × Nat) :=
  match a.kind with
  | 3 => match x.work with
    | w :: _ => tileTransfers w.ent w.base w.coord
    | [] => []
  | 4 => tileTransfers x.ent (writeBase x.ent) (coordPlus (a.p 8 8) ((x.begun - 1) * a.p 4 4 + x.count))
  | 6 => if x.count < mvNblk a then blockTransfers a x x.count else []
  | 7 => match x.work with
    | w :: _ => if x.ent = 0 then [] else tileTransfers x.ent (writeBase x.ent) w.coord
    | [] => []
  | 8 => match x.work with
    | w :: _ => if w.sink then rangeTransfers (sinkVa w) 65536 else []
    | [] => []
  | _ => []

/-- The transfers that a station may issue in its micro-batch: a memory-gate context runs ahead over its block; a station that takes
items waits for the next one (R310, R313). -/
def dueTransfers (s : State) (a : StAt) : List (Nat × Nat) :=
  let x := stGet s a 0
  if stHalted s a || decide (x.begun ≠ x.ended + 1) then []
  else match a.kind with
    | 3 => x.work.flatMap (fun w => tileTransfers w.ent w.base w.coord)
    | 4 => if (nextItem s a).isSome then stepTransfers a x else []
    | 6 => if (mvMode a = 2 ∨ (mvMode a = 1 ∧ mvImage a = 0)) ∧ (nextItem s a).isNone then [] else stepTransfers a x
    | 7 => if (nextItem s a).isSome then stepTransfers a x else []
    | 8 => if x.units.head?.any (fun u => u.2.1 == 1) then stepTransfers a x else []
    | _ => []

/-- Every transfer of the station's step has arrived or been accepted. -/
def stepFetched (a : StAt) (x : Station) : Bool := decide ((stepTransfers a x).length ≤ x.got)

/-- A step is done: its transfers leave the counts. -/
def stepDone (a : StAt) (x : Station) : Station :=
  { x with asked := x.asked - (stepTransfers a x).length, got := x.got - (stepTransfers a x).length }

/-! ### Begin and end -/

/-- Whether a station with no gating route begins micro-batches by itself (R195, R289, R313, R335). -/
def selfBegins (s : State) (a : StAt) : Bool :=
  match a.kind with
  | 1 => false
  | 6 => mvMode a == 2 && (nextItem s a).isSome
  | 11 => true
  | 5 => false | 9 => false | 10 => false | 2 => false
  | _ => true

/-- The conditions under which a micro-batch begins, apart from what the kind captures. -/
def mayBegin (s : State) (a : StAt) (ctx : Nat) : Bool :=
  let x := stGet s a ctx
  let gating := gatingRoutes a.bill a.st ctx
  let loc : CellLoc := { die := a.d, site := a.place }
  (if a.kind = 1 then decide (ctx < 3) && decide ((getCell s loc).c.fn.st = .on) && !(getCell s loc).c.initBusy else ctx == 0)
    && [1, 3, 4, 6, 7, 8, 11].contains a.kind && !stHalted s a && decide (x.begun = x.ended) && !sourcesStopped s a
    && gating.all (fun r => (routeHead s a r).isSome)
    && (!gating.isEmpty || selfBegins s a)
    && (a.kind != 11 || barrierReady s a gating)

/-- The transfers that a station may issue now: before a micro-batch, those that read what it captures. -/
def gateTransfers (s : State) (a : StAt) : List (Nat × Nat) :=
  if mayBegin s a 0 then listTransfers s a (stGet s a 0).begun else dueTransfers s a

/-- What the station captures has arrived. -/
def listFetched (s : State) (a : StAt) : Bool :=
  decide ((listTransfers s a (stGet s a 0).begun).length ≤ (stGet s a 0).got)

/-- ARG and MB_SEQ of the token on the gating route with the lowest index (R195); zero where there is none. -/
def firstToken (s : State) (a : StAt) (gating : List Nat) : W32 × W64 :=
  match gating.head?.bind (routeHead s a) with
  | some (.token seq arg) => (seq, arg)
  | _ => (0, 0)

/-- A mover whose block lies in a cell's store asks for the grant of that block (R134, R313). -/
def moverAsks (s : State) (a : StAt) : State :=
  let x := stGet s a 0
  if 2 ≤ mvMode a ∨ mvNblk a ≤ x.count then s
  else match mvEntryAt a x.count (mvNent a) 0 with
    | some (i, _) =>
      if mvF a i 0 1 = 1 then
        askGrant s a.d a.node [if mvMode a = 0 then .moverRead (mvF a i 2 2) else .moverWrite (mvF a i 2 2)]
      else s
    | none => s

/-- A micro-batch begins: its tokens are consumed and the kind's state is set; a barrier ends it at once. -/
def beginWith (s : State) (a : StAt) (ctx : Nat) (cap : Captured) : State :=
  let gating := gatingRoutes a.bill a.st ctx
  let tok := firstToken s a gating
  let out := barrierBit s a gating
  let s := gating.foldl (fun s r => consumeHead s a r) s
  let s := stMod s a ctx (fun x => { x with
    begun := x.begun + 1, arg := tok.2, seq := tok.1, count := 0, ent := cap.ent, work := cap.work, ents := cap.ents, units := []
    buf := [], asked := 0, got := 0 })
  match a.kind with
  | 1 => beginCell s a ctx tok.1 tok.2
  | 11 =>
    let s := stMod s a 0 (fun x => { x with ended := x.ended + 1, votes := x.votes.tail, lastArg0 := out, verdicts := (out, timeOf s (some a.d)) :: x.verdicts })
    let arg := BitVec.ofNat 64 (setFld tok.2.toNat 0 0 (b2n out))
    bump (emitTokens s a (doneRoutes a.bill a.st 0) tok.1 arg) a.d (setStationSet 11 a.place) 0 1
  | 3 => stAsks s a
  | 4 => stAsks s a
  | 6 => moverAsks (stAsks s a) a
  | 7 => stAsks s a
  | _ => s

/-- A station halts at the beginning of a micro-batch, after the controller's record where what it captures is uncorrectable (R296). -/
def haltBegin (s : State) (a : StAt) (cls code detail : Nat) : State :=
  let rs := listTransfers s a (stGet s a 0).begun
  let bad := rs.any (fun r => (uncorrAt s a.d (stCaches s a) a.part r.1 r.2 false).isSome)
  haltFault s a cls code detail (if bad then kUncorr else 0) rs false

/-- A station begins its next micro-batch (R195), once its memory gate has read what it captures (R307). -/
def execMicroBatchBegin (d : DieId) (slot station ctx : Nat) (s : State) : Res :=
  match stAt s d slot station with
  | none => nx s
  | some a =>
    if !mayBegin s a ctx then nx s
    else if !listFetched s a then nx (stAsks s a)
    else match captureFor s a (stGet s a ctx).begun with
      | .ok cap => nx (dropAnswers (beginWith s a ctx cap) d)
      | .wait => nx s
      | .ask q => nx (askPeers s d a.part q)
      | .halt x y z => nx (haltBegin s a x y z)

/-- The work of the micro-batch in progress is done, by kind. -/
def workDone (s : State) (a : StAt) (ctx : Nat) : Bool :=
  let x := stGet s a ctx
  match a.kind with
  | 1 => [2 * ctx, 2 * ctx + 1].all (fun n => (cellImage a.bill a.st n).isNone
      || decide ((getStream s { die := a.d, site := a.place, stream := n }).st = .halted))
  | 3 => x.work.isEmpty && outsEmpty s a
  | 4 => decide (x.count = a.p 4 4)
  | 6 => decide (x.count = mvNblk a) && outsEmpty s a
  | 7 => x.work.isEmpty && outsEmpty s a
  | 8 => x.work.isEmpty && outsEmpty s a
  | _ => false

/-- A station or cell context ends its micro-batch and emits its DONE tokens (R197, R200). -/
def execMicroBatchEnd (d : DieId) (slot station ctx : Nat) (s : State) : Res :=
  match stAt s d slot station with
  | none => nx s
  | some a =>
    let x := stGet s a ctx
    if decide (ctx < 3) && (a.kind == 1 || ctx == 0) && decide (x.begun = x.ended + 1) && !stHalted s a && workDone s a ctx then
      let s := stMod s a ctx (fun x => { x with ended := x.ended + 1, asked := 0, got := 0 })
      let s := emitTokens s a (doneRoutes a.bill a.st ctx) x.seq x.arg
      nx (bump s d (setStationSet a.kind a.place) 0 1)
    else nx s

/-! ### Which micro-batches a RUN waits for (R238) -/

/-- A station, or a context of a cell. -/
abbrev Node := Nat × Nat

/-- The nodes that a node's tokens gate. -/
def gatedBy (b : List Byte) (n : Node) : List Node :=
  ((routesFrom b n.1).filter (fun r => rtClass b r == 1 && (stKind b n.1 != 1 || rtCtx b r == n.2)
      && (rtGating b r || stKind b (rtDst b r) == 11))).map
    (fun r => (rtDst b r, if stKind b (rtDst b r) = 1 then rtCtx b r else 0))

/-- The nodes reached in at most `fuel` routes. -/
def reachNodes (b : List Byte) : Nat → List Node → List Node
  | 0, ns => ns
  | fuel + 1, ns =>
    let more := (ns.flatMap (gatedBy b)).filter (fun n => !ns.contains n)
    if more.isEmpty then ns else reachNodes b fuel (ns ++ more.eraseDups)

/-- Every station reached from the fetch station has ended micro-batch `k`. -/
def runEnded (s : State) (d : DieId) (slot : Nat) (b : List Byte) (fetch k : Nat) : Bool :=
  (reachNodes b (3 * nStations b + 1) (gatedBy b (fetch, 0)).eraseDups).all (fun n =>
    decide (k < (getStation (getDie s d) slot n.1 n.2).ended))

end Sys2Proof.Machine
end

