-- ==== Sys2Proof/Machine/ChainSend.lean ====
section
/-! DEFINITION. Chain ports as senders: which items leave an input, on which credit, in which frames (R356, R359, R360). -/

namespace Sys2Proof.Machine

/-- Entry `i` of a chain port's inputs: peer and far output; and of its outputs: peer and RXSHARE (R359). -/
def cpIn (a : StAt) (i : Nat) : Nat × Nat := (a.p (4 * i) 2, a.p (4 * i + 2) 1)
def cpOut (a : StAt) (o : Nat) : Nat × Nat := (a.p (16 + 4 * o) 2, a.p (18 + 4 * o) 2)

/-- Routes of the items that wait at an input port, in the order of presentation. -/
def portOrder (s : State) (a : StAt) (i : Nat) : List Nat := (stGet s a 0).order.filter (fun r => rtDstPort a.bill r == i)

/-- Item `n` of an input port: its route and the item. -/
def portItem (s : State) (a : StAt) (i n : Nat) : Option (Nat × Item) :=
  let rs := portOrder s a i
  match rs[n]? with
  | none => none
  | some r =>
    match (getRoute (getDie s a.d) a.slot r).inbox[(rs.take n).count r]? with
    | none => none
    | some it => some (r, it)

/-- The next item of an input port that has not been sent whole. -/
def portNext (s : State) (a : StAt) (i : Nat) : Option (Nat × Item) := portItem s a i (tabGet 0 (stGet s a 0).sentItems i)

/-- Lines that an entry may still send to a far output (R360). -/
def creditLeft (p : Peer) (chan : Nat) : Nat := (tabGet 0 p.credTotal chan + 2 ^ 32 - tabGet 0 p.linesSent chan) % 2 ^ 32

/-- The chain port that carries the station's lines is ON and so is its entry. -/
def chainOpen (s : State) (a : StAt) (idx : Nat) : Bool := peerUp (getDie s a.d) idx && !stHalted s a

/-- The frames sent from an input: lines spent, and whether the item has now been sent whole. -/
def noteSent (s : State) (a : StAt) (i n : Nat) (whole : Bool) : State :=
  let idx := (cpIn a i).1
  let ch := (cpIn a i).2
  let s := modPeer s a.d idx (fun p => { p with linesSent := tabSet 0 p.linesSent ch ((tabGet 0 p.linesSent ch + n) % 2 ^ 32) })
  stMod s a 0 (fun x =>
    if whole then { x with sentItems := tabSet 0 x.sentItems i (tabGet 0 x.sentItems i + 1), sentLines := tabSet 0 x.sentLines i 0 }
    else { x with sentLines := tabSet 0 x.sentLines i (tabGet 0 x.sentLines i + n) })

/-- One frame from an input, where an item waits and credit for the frame's lines is held; none otherwise. -/
def sendOne (s : State) (a : StAt) (i : Nat) : Option State :=
  let idx := (cpIn a i).1
  let ch := (cpIn a i).2
  let credit := creditLeft (getPeer (getDie s a.d) idx) ch
  if !chainOpen s a idx then none
  else match portNext s a i with
    | none => none
    | some (r, .token seq arg) =>
      if credit = 0 then none
      else some (noteSent (sendSeq s a.d idx a.part 2 ch 0 0 (leBytes 4 seq.toNat ++ leBytes 8 arg.toNat) (rtKey a.slot r + 1) 1 true) a i 1 true)
    | some (r, .tile h off bs) =>
      let lines := itemLines (.tile h off bs)
      let sent := tabGet 0 (stGet s a 0).sentLines i
      let n := min 32 (lines - sent)
      let first := decide (sent = 0)
      let last := decide (sent + n = lines)
      if credit < n then none
      else some (noteSent (sendSeq s a.d idx a.part 1 ch (b2n first + 2 * b2n last) (if first then h.toNat else 0)
        ((bs.drop (256 * sent)).take (256 * n)) (rtKey a.slot r + 1) n last) a i n last)

/-- Every frame that an input may send now, by fuel. -/
def sendInput (a : StAt) (i : Nat) : Nat → State → State
  | 0, s => s
  | fuel + 1, s =>
    match sendOne s a i with
    | none => s
    | some s1 => sendInput a i fuel s1

/-- Every frame that a chain port may send now: its buffer holds at most 1,024 lines. -/
def sendChain (s : State) (a : StAt) : State :=
  if a.kind = 9 then (List.range (stNin a.bill a.st)).foldl (fun s i => sendInput a i 1024 s) s else s

/-- The chain ports of enabled Bills that name an entry for input. -/
def chainSenders (s : State) (d : DieId) (idx : Nat) : List StAt :=
  (getDie s d).slots.filterMap (fun e =>
    match runningBill (getDie s d) e.1 with
    | none => none
    | some b =>
      match findStation b 9 (getPeer (getDie s d) idx).port.toNat with
      | none => none
      | some st =>
        let a : StAt := { d := d, slot := e.1, bill := b, st := st }
        if (List.range (stNin b st)).any (fun i => (cpIn a i).1 == idx) then some a else none)

/-- Sends what an entry's state now allows. -/
def sendEntry (s : State) (d : DieId) (idx : Nat) : State := (chainSenders s d idx).foldl sendChain s

/-- Lines have left an output of a chain port or bridge port on the ring: their receive space is free (R352, R360). -/
def freeOut (s : State) (a : StAt) (r n : Nat) : State :=
  let o := rtSrcPort a.bill r
  match a.kind with
  | 9 => modPeer s a.d (cpOut a o).1 (fun p => { p with freed := tabSet 0 p.freed o ((tabGet 0 p.freed o + n) % 2 ^ 32) })
  | 10 => modSeg s (otherDie a.d) a.place (fun g => { g with credFloor := tabSet 128 g.credFloor o (min 128 (tabGet 128 g.credFloor o + n)) })
  | _ => s

end Sys2Proof.Machine
end

