-- ==== Sys2Proof/Machine/Floor.lean ====
section
/-! DEFINITION. The Floor: lines, items, credits and tokens on routes, deliveries and grants into cells, and the items that
drain stages, relays, memory gates and movers handle (R134 to R136, R158, R190 to R200, R207, R289, R290, R310 to R315). -/

namespace Sys2Proof.Machine

/-! ### Routes -/

/-- A route of an enabled Bill: its station at the source. -/
def rtAt (s : State) (d : DieId) (slot r : Nat) : Option StAt :=
  match runningBill (getDie s d) slot with
  | some b => if r < nRoutes b then some { d := d, slot := slot, bill := b, st := rtSrc b r } else none
  | none => none

/-- The station at the destination of a route. -/
def dstOf (a : StAt) (r : Nat) : StAt := { a with st := rtDst a.bill r }

/-- A RED of a slot whose contribution output 0 of its cell may form now: its lines may be read (R142, R271). -/
def redReady (s : State) (a : StAt) (r : Nat) : Option Op :=
  let x := getCell s { die := a.d, site := a.place }
  if a.kind = 1 ∧ rtSrcPort a.bill r = 0 ∧ (getRoute (getDie s a.d) a.slot r).outq.isEmpty then
    (firstRed x.m).bind (fun o => match o.kind with
      | .redSlot _ _ _ _ => if mayAct x o && !o.bad then some o else none
      | _ => none)
  else none

/-- The slot of a RED. -/
def redSlotOf (o : Op) : Nat :=
  match o.kind with
  | .redSlot slot _ _ _ => slot
  | _ => 0

/-- The contribution of a RED of a slot goes on output 0, with the levels of R58 for a non-finite element; the tile's own flag is
that of the slot read (assumption 82). -/
def redForm (s : State) (a : StAt) (r : Nat) (o : Op) : State :=
  let c : CellLoc := { die := a.d, site := a.place }
  match o.kind with
  | .redSlot slot wfmt tag cfg =>
    let p := redSlotItem (getCell s c).c slot wfmt tag cfg
    flagSlot (queueItem s a.d a.slot r p.1) (opLoc c o) slot p.2
  | _ => s

/-- The last line of a RED's item has been accepted: the RED completes (R178). -/
def redSent (s : State) (a : StAt) (r : Nat) : State :=
  let c : CellLoc := { die := a.d, site := a.place }
  if a.kind = 1 ∧ rtSrcPort a.bill r = 0 then
    match firstRed (getCell s c).m with
    | some o => settle (modM s c (fun m => removeOp m o.id)) c
    | none => s
  else s

/-- The last result line of a bucket has left on one output; the bucket closes when all have (R278, R281). -/
def bucketSent (s : State) (a : StAt) (hdr : W64) : State :=
  if a.kind ≠ 5 then s
  else
    let t := fld hdr.toNat 11 0
    let ps := (getLink (getDie s a.d) a.place).places.map (fun p => if p.tag = t ∧ p.emitted then { p with left := p.left - 1 } else p)
    if ps.any (fun p => p.tag == t && p.emitted && p.left == 0) then
      countClosed (modLink s a.d a.place (fun k => { k with
        places := ps.filter (fun p => !(p.tag == t && p.emitted)), closed := setFld k.closed t t 1 })) a.d a.place 1
    else modLink s a.d a.place (fun k => { k with places := ps })

/-- The lines of a route's oldest item that its source holds so far. -/
def linesHeld (x : Route) : Nat :=
  match x.outq with
  | [i] => itemLines i - x.lacks
  | i :: _ => itemLines i
  | [] => 0

/-! ### The ring (R189, R191) -/

/-- Hops of a route from node `a` to node `b`, and whether it runs in ascending node order. -/
def ringDist (a b : Nat) : Nat := (b + 16 - a) % 16
def ringUp (a b : Nat) : Bool := decide (ringDist a b ≤ 8)
def hops (a b : Nat) : Nat := if ringUp a b then ringDist a b else 16 - ringDist a b

/-- The node after `a` in a direction. -/
def ringNext (a : Nat) (up : Bool) : Nat := if up then (a + 1) % 16 else (a + 15) % 16

/-- The ring links of a route in order, each as node * 2 + direction. -/
def ringLinks (up : Bool) : Nat → Nat → List Nat
  | 0, _ => []
  | n + 1, a => (2 * a + b2n up) :: ringLinks up n (ringNext a up)

/-- The links that a route of an enabled Bill takes. -/
def routeLinks (a : StAt) (r : Nat) : List Nat :=
  let dst := (dstOf a r).node
  ringLinks (ringUp a.node dst) (hops a.node dst) a.node

/-- The ring link that lines of the route with `j` links behind them take next. -/
def linkAt (a : StAt) (r j : Nat) : Option Nat := (routeLinks a r)[j]?

/-- The route has a line and a credit ready. -/
def lineReady (s : State) (a : StAt) (r : Nat) : Bool :=
  let x := getRoute (getDie s a.d) a.slot r
  decide (0 < x.credits) && decide (x.sentLines < linesHeld x) && !sourcesStopped s a && !siteLost s a

/-- A route's place in the rotation: by route record index (R191). DESIGN CHOICE (assumption 96): routes of two Bills with one index
come by slot. -/
def turnKey (slot r : Nat) : Nat := 1 + r * 8 + slot

/-- The places in the rotation of the routes of a die's running Bills for which `p` holds. -/
def routeKeys (s : State) (d : DieId) (p : StAt → Nat → Bool) : List Nat :=
  (List.range 8).flatMap (fun slot => match runningBill (getDie s d) slot with
    | none => []
    | some b => ((List.range (nRoutes b)).filter (fun r => p { d := d, slot := slot, bill := b, st := rtSrc b r } r)).map (turnKey slot))

/-- A line of the route that is on the ring waits for a link. -/
def passing (s : State) (k : Nat) (a : StAt) (r : Nat) : Bool :=
  (getRoute (getDie s a.d) a.slot r).transit.any (fun j => linkAt a r j == some k)

/-- The routes of a die that compete for a ring link: those ready to send a line onto it, and those with a line that comes to it. -/
def rivals (s : State) (d : DieId) (k : Nat) : List Nat :=
  routeKeys s d (fun a r => (linkAt a r 0 == some k && lineReady s a r) || passing s k a r)

/-- The least of some numbers. -/
def leastOf (xs : List Nat) : Option Nat := xs.foldl (fun m x => some (match m with
  | some y => min x y
  | none => x)) none

/-- The route that a link serves next of some: rotation by route record index from the route served last (R191). -/
def nextTurn (s : State) (d : DieId) (k : Nat) (rs : List Nat) : Option Nat :=
  let last := tabGet 0 (getDie s d).ringLast k
  (leastOf (rs.filter (fun x => decide (last < x)))).orElse (fun _ => leastOf rs)

/-- The first ring link of the route serves it next; a route at one node takes no link. -/
def linkTurn (s : State) (a : StAt) (r : Nat) : Bool :=
  (linkAt a r 0).all (fun k => nextTurn s a.d k (rivals s a.d k) == some (turnKey a.slot r))

/-- A link has served the route last. -/
def tookLink (s : State) (a : StAt) (r j : Nat) : State :=
  match linkAt a r j with
  | some k => modDie s a.d (fun x => { x with ringLast := tabSet 0 x.ringLast k (turnKey a.slot r) })
  | none => s

/-- The oldest line of a route with `j` links behind it has taken one more. -/
def hopLine : List Nat → Nat → List Nat
  | [], _ => []
  | x :: xs, j => if x = j then (j + 1) :: xs else x :: hopLine xs j

/-- A ring link carries one line that has come to it, in rotation: its route, and the links behind it. -/
def hopOf (s : State) (d : DieId) (k : Nat) : Option (StAt × Nat × Nat) :=
  (nextTurn s d k (routeKeys s d (passing s k))).bind (fun key =>
    (runningBill (getDie s d) ((key - 1) % 8)).bind (fun b =>
      let r := (key - 1) / 8
      let a : StAt := { d := d, slot := (key - 1) % 8, bill := b, st := rtSrc b r }
      ((getRoute (getDie s d) a.slot r).transit.find? (fun j => linkAt a r j == some k)).map (fun j => (a, r, j))))

/-- In a nanosecond every ring link of a die carries one of the lines that have come to it (R190; assumption 96). -/
def tickRing (s : State) (d : DieId) : State :=
  ((List.range 32).filterMap (hopOf s d)).foldl (fun s m =>
    modRoute (tookLink s m.1 m.2.1 m.2.2) d m.1.slot m.2.1 (fun x => { x with transit := hopLine x.transit m.2.2 })) s

/-- The next line of a route's oldest item, or its token, leaves the source port. -/
def sendLine (s : State) (a : StAt) (r : Nat) : State :=
  let x := getRoute (getDie s a.d) a.slot r
  match x.outq with
  | [] => s
  | i :: rest =>
    let last := decide (itemLines i ≤ x.sentLines + 1)
    let x := { x with credits := x.credits - 1, transit := x.transit ++ [min 1 (routeLinks a r).length] }
    let y := if last then { x with outq := rest, sentLines := 0, flight := x.flight ++ [i] } else { x with sentLines := x.sentLines + 1 }
    let s := freeOut (modRoute (tookLink s a r 0) a.d a.slot r (fun _ => y)) a r 1
    let set := setStationSet a.kind a.place
    match i with
    | .tile h _ _ =>
      let s := bump s a.d set 2 1
      if last then bump (bucketSent (redSent s a r) a h) a.d set 1 1 else s
    | .token _ _ => s

/-- A line or a token leaves its source port on a credit, in its turn on the ring (R190, R191, R193); the read of
a RED's slot may meet a parity error (R117). -/
def execLineSend (d : DieId) (slot : Nat) (r : Reader) (s : State) : Res :=
  let route := r.id
  match rtAt s d slot route with
  | none => nx s
  | some a =>
    let go := fun (s : State) => if lineReady s a route && linkTurn s a route then sendLine s a route else s
    if sourcesStopped s a || siteLost s a then nx s
    else match redReady s a route with
      | some o => nx (withParity s { die := d, site := a.place } o (redSlotOf o) r.perr (fun s => go (redForm s a route o)))
      | none => nx (go s)

/-- Every line of the oldest item in flight has taken the last ring link of the route. -/
def itemArrived (a : StAt) (r : Nat) (x : Route) : Bool :=
  x.flight.head?.any (fun i => decide (itemLines i ≤ x.transit.length)
    && (x.transit.take (itemLines i)).all (fun j => decide ((routeLinks a r).length ≤ j)))

/-- The last line of the oldest item in flight arrives and the input port presents it; a token that gates nothing is consumed
there (R191, R194). -/
def execItemPresent (d : DieId) (slot route : Nat) (s : State) : Res :=
  match rtAt s d slot route with
  | none => nx s
  | some a =>
    let x := getRoute (getDie s d) slot route
    if !itemArrived a route x then nx s
    else match x.flight with
    | [] => nx s
    | i :: rest =>
      let s := modRoute s d slot route (fun x => { x with
        flight := rest, inbox := x.inbox ++ [i], transit := x.transit.drop (itemLines i) })
      let dst := dstOf a route
      let gates := rtGating a.bill route || dst.kind == 11
      match i with
      | .token _ _ =>
        if dst.kind = 9 ∨ dst.kind = 10 then nx (sendChain (stMod s dst 0 (fun x => { x with order := x.order ++ [route] })) dst)
        else if gates then nx s
        else nx (consumeHead s dst route)
      | .tile _ _ _ =>
        let s := stMod s dst 0 (fun x => { x with order := x.order ++ [route] })
        nx (if dst.kind = 1 then askGrant s d (groupOf dst.place) [.delivery slot route]
          else if [4, 6, 7].contains dst.kind then stAsks s dst
          else sendChain s dst)

/-- The credit of a consumed line returns to the source (R193). -/
def execCreditReturn (d : DieId) (slot route : Nat) (s : State) : Res :=
  match rtAt s d slot route with
  | none => nx s
  | some _ =>
    if (getRoute (getDie s d) slot route).owed = 0 then nx s
    else nx (modRoute s d slot route (fun x => { x with owed := x.owed - 1, credits := x.credits + 1 }))

/-! ### Grants (R134 to R136) -/

/-- EXT_KIND of a delivery by the kind of the station whose route ends at the cell (Table 5.7). -/
def extKind : Nat → Nat
  | 8 => 1 | 7 => 2 | 3 => 4 | 5 => 5 | 6 => 7 | _ => 6

/-- The store offset of the next item of a data route into a cell (R207). -/
def deliverOff (b : List Byte) (r : Nat) (x : Route) (off : Nat) (bs : List Byte) : Nat :=
  match stKind b (rtSrc b r) with
  | 5 => off | 7 => off | 3 => off | 8 => off
  | _ => 256 * rtDbase b r + (x.delivered % max 1 (rtDslots b r)) * (itemLines (.tile 0 0 bs) * 256)

/-- An internal access of the cell waits for the port while no grant holds it: a store write of the drain unit, a parity retry, or a
move whose line waited when a grant ended (R134, R135). -/
def intWaiting (x : CellAll) : Bool :=
  x.m.outHeld.isSome || retryWaits x.m || x.m.ops.any (fun o => x.m.waits.contains o.id && wantsPort x o)

/-- The cell's store takes a grant: none holds it, MIN_GAP is over and no internal access waits. -/
def storeFree (s : State) (d : DieId) (group site : Nat) : Bool :=
  let x := getCell s { die := d, site := site }
  decide (group < 16) && groupOf site == group && sitePresent (getDie s d) site && x.c.grant.isNone && !x.c.gapRun && !intWaiting x

/-- Bytes laid over others at an offset. -/
def overlay (base : List Byte) (off : Nat) (bs : List Byte) : List Byte :=
  base.take off ++ bs ++ base.drop (off + bs.length)

/-- The bytes of an XFETCH's next part of at most 128 KiB: its tiles over what the store holds between them (R134, R158). -/
def xfetchPart (m : CellMem) (x : Xfetch) (tiles : List (Nat × List Byte)) : List Byte :=
  let whole := tiles.foldl (fun b t => overlay b t.1 t.2) (readStore m x.off (xfetchSpan x))
  (whole.drop x.done).take 131072

/-- Bytes of an XFETCH's next part. -/
def xfetchNeed (x : Xfetch) : Nat := min (xfetchSpan x - x.done) 131072

/-- The gate holds the bytes of an XFETCH's next part: the transfers of every tile that begins before the part's end (R134). -/
def xfetchHeld (x : Xfetch) : Bool :=
  decide ((((xfetchTransfers x).zipIdx.filter (fun p => decide (tileStep x.ent p.2 < x.done + xfetchNeed x))).map
    (fun p => p.1.length)).sum ≤ x.got)

/-- The next SAVE or RESTORE block of an active mover of the group lies in the cell store of a site; with `held`, the gate also holds
the bytes of a write. -/
def moverWants (s : State) (d : DieId) (group site mode : Nat) (held : Bool) : Bool :=
  (getDie s d).slots.any (fun e =>
    match runningBill (getDie s d) e.1 with
    | none => false
    | some b => match findStation b 6 group with
      | none => false
      | some st =>
        let a : StAt := { d := d, slot := e.1, bill := b, st := st }
        let x := stGet s a 0
        mvMode a == mode && decide (x.begun = x.ended + 1) && !x.halted
          && (mvEntryAt a x.count (mvNent a) 0).any (fun p => mvF a p.1 0 1 == 1 && mvF a p.1 2 2 == site)
          && (mode == 0 || !held || (if mvImage a = 0 then (nextItem s a).isSome else stepFetched a x)))

/-- Bytes of an item. -/
def itemBytes : Item → Nat
  | .token _ _ => 0
  | .tile _ _ bs => bs.length

/-- The bytes that the staging buffer of a gate's cache slice holds or keeps space for (R306): what has been asked for XFETCHes, the
block of a mover's grant, the items that have come or are coming to the cells of the gate's group, and those that its context has still to send. -/
def stagingUsed (s : State) (d : DieId) (group : Nat) : Nat :=
  let cells := (List.range 17).map (fun i =>
    let x := getCell s { die := d, site := 17 * group + i }
    (x.c.grant.elim 0 (fun g => if g.op.isNone && g.data.isEmpty then 65536 else 0)) + (x.m.ops.map (fun o => match o.kind with
      | .xfetch f => if f.fault.isSome then 0 else 2048 * f.asked - f.done
      | _ => 0)).sum)
  let items := (List.range 8).map (fun slot => match runningBill (getDie s d) slot with
    | none => 0
    | some b => ((List.range (nRoutes b)).map (fun r =>
        let a : StAt := { d := d, slot := slot, bill := b, st := rtSrc b r }
        let x := getRoute (getDie s d) slot r
        let dst := dstOf a r
        (if dst.kind = 1 ∧ dst.node = group then ((x.flight ++ x.inbox).map itemBytes).sum else 0)
          + (if a.kind = 3 ∧ a.node = group then (x.outq.map itemBytes).sum else 0))).sum)
  cells.sum + items.sum

/-- Space for more bytes in the staging buffer of 1 MiB of the gate's cache slice (R134, R306). -/
def stagingRoom (s : State) (d : DieId) (group n : Nat) : Bool := decide (stagingUsed s d group + n ≤ 0x100000)

/-- The cell whose store a request is for. -/
def grantCell (s : State) (d : DieId) (r : GrantReq) : Option Nat :=
  match r with
  | .xfetch site _ => some site
  | .delivery slot route => (rtAt s d slot route).map (fun a => (dstOf a route).place)
  | .moverRead site => some site
  | .moverWrite site => some site

/-- The request can begin as far as its own bytes go: they are held, or there is space for them (R134). -/
def grantReady (s : State) (d : DieId) (group : Nat) (r : GrantReq) : Bool :=
  match r with
  | .xfetch site op =>
    let x := getCell s { die := d, site := site }
    (findOp x.m op).any (fun o => match o.kind with
      | .xfetch f => f.fault.isNone && mayAct x o && xfetchHeld f
      | _ => false)
  | .delivery slot route => (rtAt s d slot route).any (fun a =>
      let dst := dstOf a route
      let x := getCell s { die := d, site := dst.place }
      let busy := x.c.semWait.any (fun p => rtDstPort a.bill p.1 == rtDstPort a.bill route)
      dst.kind == 1 && rtClass a.bill route == 0 && !stHalted s dst && !busy && (routeHead s dst route).isSome)
  | .moverRead site => moverWants s d group site 0 true && stagingRoom s d group 65536
  | .moverWrite site => moverWants s d group site 1 true

/-- The request still stands: its instruction or its item waits. -/
def grantLive (s : State) (d : DieId) (group : Nat) (r : GrantReq) : Bool :=
  match r with
  | .xfetch site op => (findOp (getCell s { die := d, site := site }).m op).isSome
  | .delivery slot route => (rtAt s d slot route).any (fun a => (routeHead s (dstOf a route) route).isSome && !stHalted s (dstOf a route))
  | .moverRead site => moverWants s d group site 0 false
  | .moverWrite site => moverWants s d group site 1 false

/-- The request may begin: its bytes are held and its cell's store takes a grant. -/
def grantAble (s : State) (d : DieId) (group : Nat) (r : GrantReq) : Bool :=
  grantReady s d group r && (grantCell s d r).any (storeFree s d group)

/-- First come, first served: the gate holds no grant, and every older request that stands is of another cell and cannot begin. A
request that the queue does not hold is the youngest (R134). DESIGN CHOICE (assumption 107): a delivery at a port whose release waits
stands in the queue from its presentation, and keeps later requests of its cell behind it (R199). -/
def grantTurn (s : State) (d : DieId) (group : Nat) (r : GrantReq) : Bool :=
  let g := getGate (getDie s d) group
  g.grantSite.isNone && grantAble s d group r
    && (g.reqs.takeWhile (fun q => q != r)).all (fun q =>
      !grantLive s d group q || (grantCell s d q != grantCell s d r && !grantAble s d group q))

/-- A grant begins: it holds the store, and its request leaves the queue. -/
def startGrant (s : State) (d : DieId) (group site : Nat) (r : GrantReq) (k : Grant) : State :=
  modGate (modC s { die := d, site := site } (fun c => { c with grant := some k })) d group (fun g =>
    { g with grantSite := some site, reqs := (g.reqs.erase r).filter (grantLive s d group) })

/-- A memory gate starts a grant, which holds the cell's store (R134). -/
def execGrantStart (d : DieId) (group : Nat) (r : GrantReq) (s : State) : Res :=
  if !grantTurn s d group r then nx s
  else match r with
  | .xfetch site op =>
    let c : CellLoc := { die := d, site := site }
    match findOp (getCell s c).m op with
    | some o => match o.kind with
      | .xfetch f => match xfetchTiles s c f f.nt with
        | .ok tiles => nx (dropAnswers (startGrant s d group site r
            { kind := 0, off := f.off + f.done, data := xfetchPart (getCell s c).m f tiles, op := some op, route := none }) d)
        | .fault _ => nx s
        | .ask q => nx (askPeers s d (cellPart s c) q)
      | _ => nx s
    | none => nx s
  | .delivery slot route =>
    match rtAt s d slot route with
    | none => nx s
    | some a =>
      let dst := dstOf a route
      match routeHead s dst route with
      | some (.tile _ off bs) =>
        let at_ := deliverOff a.bill route (getRoute (getDie s d) slot route) off bs
        if storeSize < at_ + bs.length then nx (haltStation s dst 5 2 (itemLines (.tile 0 0 bs)))
        else nx (startGrant s d group dst.place r
          { kind := extKind a.kind, off := at_, data := bs, op := none, route := some (rtKey slot route, true) })
      | _ => nx s
  | .moverRead site => nx (startGrant s d group site r { kind := 3, off := 0, data := [], op := none, route := none })
  | .moverWrite site => nx (startGrant s d group site r { kind := 7, off := 0, data := [], op := none, route := none })

/-- The part of an XFETCH that a grant carried has been written; the last part completes it (R139, R158). -/
def xfetchGranted (s : State) (c : CellLoc) (op : Nat) : State :=
  match findOp (getCell s c).m op with
  | some o => match o.kind with
    | .xfetch f =>
      let f' := { f with done := f.done + xfetchNeed f }
      if xfetchSpan f ≤ f'.done then settle (modM s c (fun m => removeOp m op)) c
      else modM s c (fun m => setOp m op (.xfetch f'))
    | _ => s
  | none => s

/-- An item has been written into a cell: its lines are consumed, and its route's semaphore release is due (R193, R199). -/
def deliveryGranted (s : State) (c : CellLoc) (key : Nat) : State :=
  let slot := key / 65536
  let route := key % 65536
  match rtAt s c.die slot route with
  | none => s
  | some a =>
    let dst := dstOf a route
    let s := consumeHead (stMod s dst 0 (fun x => { x with order := x.order.erase route })) dst route
    let s := modRoute s c.die slot route (fun x => { x with delivered := x.delivered + 1 })
    let sem := rtSem a.bill route
    if bit sem 7 then modC s c (fun k => { k with semWait := k.semWait ++ [(route, fld sem 3 0)] }) else s

/-- The moves that want the port when a grant ends have their line before the next grant (R135). -/
def markWaits (x : CellAll) : CellAll :=
  { x with m := { x.m with waits := addNew (x.m.waits.filter (fun i => (findOp x.m i).isSome)) ((x.m.ops.filter (wantsPort x)).map Op.id) } }

/-- A grant ends: its bytes are in the store and internal accesses go on (R135, R136). -/
def execGrantEnd (d : DieId) (group : Nat) (s : State) : Res :=
  match (getGate (getDie s d) group).grantSite with
  | none => nx s
  | some site =>
    let c : CellLoc := { die := d, site := site }
    let s := modGate s d group (fun g => { g with grantSite := none })
    match (getCell s c).c.grant with
    | none => nx s
    | some g =>
      let s := if g.data.isEmpty then s else modCell s c (fun x => writeStore x g.off g.data)
      let s := modCell s c (fun x => markWaits { x with c := { x.c with grant := none, gapRun := x.c.minGap != 0 } })
      let s := match g.op with
        | some op => xfetchGranted s c op
        | none => s
      nx (match g.route with
        | some (key, _) => deliveryGranted s c key
        | none => s)

/-- MIN_GAP after a grant has run out (R136). -/
def execMinGapExpiry (c : CellLoc) (s : State) : Res :=
  if (getCell s c).c.gapRun then nx (modC s c (fun k => { k with gapRun := false })) else nx s

/-- A due release is applied once the semaphore is below 255 (R199). -/
def execRouteRelease (d : DieId) (slot route : Nat) (s : State) : Res :=
  match rtAt s d slot route with
  | none => nx s
  | some a =>
    let c : CellLoc := { die := d, site := (dstOf a route).place }
    let k := (getCell s c).c
    match k.semWait.find? (fun p => p.1 == route) with
    | none => nx s
    | some (r, sem) =>
      if (dstOf a route).kind ≠ 1 ∨ 255 ≤ getSem k sem then nx s
      else nx (modC s c (fun k => { setSem k sem (getSem k sem + 1) with semWait := k.semWait.erase (r, sem) }))

/-! ### Drain stages (R200) -/

/-- A drain stage writes the next item through its descriptor. -/
def execDrainStageItem (d : DieId) (slot station : Nat) (s : State) : Res :=
  match stAt s d slot station with
  | none => nx s
  | some a =>
    let x := stGet s a 0
    let tiles := a.p 4 4
    if a.kind ≠ 4 || stHalted s a || decide (x.begun ≠ x.ended + 1) || decide (tiles ≤ x.count) || !stepFetched a x then nx s
    else match nextItem s a with
      | none => nx s
      | some (_, _, bs) =>
        if itemLines (.tile 0 0 bs) ≠ ceilDiv (tileBytes x.ent) 256 then nx (haltStation s a 5 2 (itemLines (.tile 0 0 bs)))
        else if eReadOnly x.ent then nx (haltStation s a 5 3 (a.p 0 4))
        else match writeTile s d (stCaches s a) a.part x.ent (writeBase x.ent)
            (coordPlus (a.p 8 8) ((x.begun - 1) * tiles + x.count)) bs with
          | .fault k => nx (haltFault s a 2 5 k k (stepTransfers a x) true)
          | .ask q => nx (askPeers s d a.part q)
          | .ok s1 =>
            let s2 := stBytes (dropAnswers s1 d) a (writeBase x.ent + rowOff x.ent (coordPlus (a.p 8 8) ((x.begun - 1) * tiles + x.count)) 0) (tileBytes x.ent)
            nx (stMod (takeItem s2 a) a 0 (fun x => { stepDone a x with count := x.count + 1 }))

/-! ### Relays (R289, R290) -/

/-- The FMT code that a wire format has as a storage format. -/
def wireFmt (hdr : Nat) : Nat := fld hdr 16 12

/-- The item goes out on every data output, with its place in a cell's store. -/
def relaySend (s : State) (a : StAt) (i : Nat) (hdr : W64) (bs : List Byte) : State :=
  let off := a.p 0x10 4 + (i % max 1 (a.p 0x14 1)) * (itemLines (.tile 0 0 bs) * 256)
  (dataOuts a).foldl (fun s r => queueItem s a.d a.slot r (.tile hdr off bs)) s

/-- A relay handles the next item of its micro-batch. -/
def execRelayItem (d : DieId) (slot station : Nat) (s : State) : Res :=
  match stAt s d slot station with
  | none => nx s
  | some a =>
    let x := stGet s a 0
    if a.kind ≠ 7 || stHalted s a || decide (x.begun ≠ x.ended + 1) || !stepFetched a x then nx s
    else match x.work, nextItem s a with
      | w :: rest, some (_, hdr, bs) =>
        let h := hdr.toNat
        if bit h 30 then nx (haltStation s a 5 5 (fld h 11 0))
        else
          let go := fun (s : State) =>
            stMod (relaySend (takeItem s a) a x.count hdr bs) a 0 (fun x => { stepDone a x with work := rest, count := x.count + 1 })
          if x.ent = 0 then nx (go s)
          else if eFmt x.ent ≠ wireFmt h then nx (haltStation s a 5 4 5)
          else if eReadOnly x.ent then nx (haltStation s a 5 3 (a.p 0 4))
          else match writeTile s d (stCaches s a) a.part x.ent (writeBase x.ent) w.coord bs with
            | .fault k => nx (haltFault s a 2 5 k k (stepTransfers a x) true)
            | .ask q => nx (askPeers s d a.part q)
            | .ok s1 => nx (go (stBytes (dropAnswers s1 d) a (writeBase x.ent + rowOff x.ent w.coord 0) (tileBytes x.ent)))
      | _, _ => nx s

/-! ### Scheduled deliveries (R310, R312) -/

/-- A memory-gate context sends the next tile of its block. -/
def execScheduleDelivery (d : DieId) (slot station : Nat) (s : State) : Res :=
  match stAt s d slot station with
  | none => nx s
  | some a =>
    let x := stGet s a 0
    if a.kind ≠ 3 || stHalted s a || decide (x.begun ≠ x.ended + 1) || !stepFetched a x then nx s
    else match x.work with
      | [] => nx s
      | w :: rest => match portRoute a w.port 0 with
        | none => nx s
        | some r => match readTile s d (stCaches s a) a.part w.ent w.base w.coord with
          | .fault k => nx (haltFault s a 2 5 k k (stepTransfers a x) false)
          | .ask q => nx (askPeers s d a.part q)
          | .ok bs =>
            let s1 := stBytes (dropAnswers s d) a (w.base + rowOff w.ent w.coord 0) (tileBytes w.ent)
            nx (stMod (queueItem s1 d slot r (.tile 0 w.off bs)) a 0 (fun x => { stepDone a x with work := rest }))

/-! ### Checkpoint movers (R313 to R315) -/

/-- A mover halts with a record of class MEMORY: the block, and the kind in byte 23. -/
def haltMover (s : State) (a : StAt) (b kind : Nat) : State :=
  haltFault s a 2 6 (b % 2 ^ 32 + 2 ^ 56 * kind) kind (blockTransfers a (stGet s a 0) b) (decide (mvMode a = 2))

/-- The grant that holds a site's store for a mover's next block. -/
def mvGranted (s : State) (d : DieId) (site kind : Nat) : Bool :=
  (getCell s { die := d, site := site }).c.grant.any (fun g => g.kind == kind && g.data.isEmpty && g.route.isNone && !g.used)

/-- The grant has carried its block. -/
def mvUsed (s : State) (d : DieId) (site : Nat) : State :=
  modC s { die := d, site := site } (fun c => { c with grant := c.grant.map (fun g => { g with used := true }) })

/-- Bytes of block `b` read from its entry, padded with zeros; none while a cell's store is not granted. -/
def mvReadBlock (s : State) (a : StAt) (x : Station) (b : Nat) : Option (MemR (List Byte)) :=
  match mvEntryAt a b (mvNent a) 0 with
  | none => none
  | some (i, o) =>
    let n := min 65536 (mvF a i 0xC 4 - o)
    let pad := fun (bs : List Byte) => bs ++ List.replicate (65536 - bs.length) 0
    if mvF a i 0 1 = 1 then
      let site := mvF a i 2 2
      if mvGranted s a.d site 3 then
        some (.ok (pad (readStore (getCell s { die := a.d, site := site }).m (mvF a i 4 4 + o) n)))
      else none
    else
      let e := x.ents.getD i 0
      some (match readEntBytes s a.d (stCaches s a) a.part e (versBase e (mvF a i 1 1 == 1)) (mvF a i 8 4 + o) n with
        | .ok bs => .ok (pad bs)
        | r => r)

/-- Transfers of a mover written in order: a fault leaves those before it written (R315). -/
def mvWrite (a : StAt) : List (Nat × Nat) → List Byte → State → State × MemR Unit
  | [], _, s => (s, .ok ())
  | (va, n) :: r, bs, s =>
    match writeVA s a.d (stCaches s a) a.part va (bs.take n) with
    | .ok s1 => mvWrite a r (bs.drop n) s1
    | .fault k => (s, .fault k)
    | .ask q => (s, .ask q)

/-- Bytes of block `b` written into its entry; none while a cell's store is not granted. -/
def mvWriteBlock (s : State) (a : StAt) (x : Station) (b : Nat) (bs : List Byte) : Option (State × MemR Unit) :=
  match mvEntryAt a b (mvNent a) 0 with
  | none => none
  | some (i, o) =>
    let n := min 65536 (mvF a i 0xC 4 - o)
    if mvF a i 0 1 = 1 then
      let site := mvF a i 2 2
      if mvGranted s a.d site 7 then
        some (mvUsed (modCell s { die := a.d, site := site } (fun c => writeStore c (mvF a i 4 4 + o) (bs.take n))) a.d site, .ok ())
      else none
    else
      let e := x.ents.getD i 0
      some (mvWrite a (rangeTransfers (versBase e (mvF a i 1 1 == 1) + mvF a i 8 4 + o) n) bs s)

/-- The HPA of a block's first byte. -/
def mvHpa (s : State) (a : StAt) (b : Nat) : Nat :=
  match translate s a.d (stCaches s a) a.part (mvImage a + 65536 * b) false with
  | .ok (.here h) => h
  | .ok (.peer _ h) => h
  | .error _ => 0

/-- A block, then its check value, written into the image. -/
def mvStoreImage (s : State) (a : StAt) (b : Nat) (bs : List Byte) : State × MemR Unit :=
  match mvWrite a (rangeTransfers (mvImage a + 65536 * b) 65536) bs s with
  | (s1, .ok _) => mvWrite a [(mvImage a + 65536 * mvNblk a + 8 * b, 8)] (leBytes 8 (blockCheck (mvHpa s1 a b) bs)) s1
  | r => r

/-- A block of the image, checked. -/
def mvLoadImage (s : State) (a : StAt) (b : Nat) : MemR (List Byte) :=
  match readVA s a.d (stCaches s a) a.part (mvImage a + 65536 * b) 65536,
      readVA s a.d (stCaches s a) a.part (mvImage a + 65536 * mvNblk a + 8 * b) 8 with
  | .ok bs, .ok cv => if leNat cv = blockCheck (mvHpa s a b) bs then .ok bs else .fault kCheckFail
  | .fault k, _ => .fault k
  | _, .fault k => .fault k
  | .ask q, .ask q' => .ask (q ++ q')
  | .ask q, .ok _ => .ask q
  | .ok _, .ask q => .ask q

/-- A block sent to another mover: one item of 256 lines with the block number in its header. -/
def mvSendBlock (s : State) (a : StAt) (b : Nat) (bs : List Byte) : State :=
  match portRoute a 0 0 with
  | some r => queueItem s a.d a.slot r (.tile (BitVec.ofNat 64 (b % 2 ^ 24)) 0 bs)
  | none => s

/-- The grant under which a SAVE read its block from a cell's store has carried it. -/
def mvReadUsed (s : State) (a : StAt) (b : Nat) : State :=
  match mvEntryAt a b (mvNent a) 0 with
  | some (i, _) => if mvF a i 0 1 = 1 then mvUsed s a.d (mvF a i 2 2) else s
  | none => s

/-- The item that a mover's block came from is taken once the block has been written. -/
def mvTake (a : StAt) (r : State × MemR Unit) : State × MemR Unit :=
  match r with
  | (s, .ok _) => (takeItem s a, .ok ())
  | r => r

/-- What a mover does with its next block: the state that it leaves, whether the block ends or faults; none while it waits. -/
def moverStep (s : State) (a : StAt) (x : Station) (b : Nat) : Option (State × MemR Unit) :=
  match mvMode a with
  | 0 => (mvReadBlock s a x b).map (fun r => match r with
    | .ok bs => if mvImage a = 0 then (mvSendBlock (mvReadUsed s a b) a b bs, .ok ()) else mvStoreImage (mvReadUsed s a b) a b bs
    | .fault k => (s, .fault k)
    | .ask q => (s, .ask q))
  | 1 =>
    if mvImage a = 0 then (nextItem s a).bind (fun i => (mvWriteBlock s a x b i.2.2).map (mvTake a))
    else match mvLoadImage s a b with
      | .ok bs => mvWriteBlock s a x b bs
      | .fault k => some (s, .fault k)
      | .ask q => some (s, .ask q)
  | 2 => (nextItem s a).map (fun i => mvTake a (mvStoreImage s a b i.2.2))
  | _ => some (match mvLoadImage s a b with
    | .ok bs => (mvSendBlock s a b bs, .ok ())
    | .fault k => (s, .fault k)
    | .ask q => (s, .ask q))

/-- A HOLD receives a block whose number is not the next expected (R315). -/
def mvOutOfOrder (s : State) (a : StAt) (b : Nat) : Bool :=
  mvMode a == 2 && (nextItem s a).any (fun i => fld i.2.1.toNat 23 0 != b)

/-- The bytes that a SAVE or RESTORE moves to or from a tensor (R313). -/
def mvEntryBytes (s : State) (a : StAt) (x : Station) : State :=
  if 2 ≤ mvMode a then s
  else match mvEntryAt a x.count (mvNent a) 0 with
    | none => s
    | some (i, o) =>
      let e := x.ents.getD i 0
      if mvF a i 0 1 = 1 then s
      else stBytes s a (versBase e (mvF a i 1 1 == 1) + mvF a i 8 4 + o) (min 65536 (mvF a i 0xC 4 - o))

/-- A mover reads or writes one 64 KiB image block with its check value (R314). -/
def execMoverBlock (d : DieId) (slot station : Nat) (s : State) : Res :=
  match stAt s d slot station with
  | none => nx s
  | some a =>
    let x := stGet s a 0
    if a.kind ≠ 6 || stHalted s a || decide (x.begun ≠ x.ended + 1) || decide (mvNblk a ≤ x.count) || !stepFetched a x then nx s
    else if mvOutOfOrder s a x.count then nx (haltMover s a x.count 0)
    else match moverStep s a x x.count with
      | none => nx s
      | some (s1, .fault k) => nx (haltMover s1 a x.count k)
      | some (_, .ask q) => nx (askPeers s d a.part q)
      | some (s1, .ok _) =>
        let s2 := if mvImage a = 0 then s1 else stBytes s1 a (mvImage a + 65536 * x.count) 65544
        nx (moverAsks (stMod (dropAnswers (mvEntryBytes s2 a x) d) a 0 (fun x => { stepDone a x with count := x.count + 1 })) a)

end Sys2Proof.Machine
end

