-- ==== Sys2Proof/Machine/Reduce.lean ====
section
/-! DEFINITION. Reduction links: judging, folding, emitting and timing out buckets (R273 to R285). -/

namespace Sys2Proof.Machine

/-! ### The parameter block (Table 10.2) -/

def rlNord (a : StAt) : Nat := a.p 0 1
def rlRmod (a : StAt) : Nat := a.p 1 1
def rlRfmt (a : StAt) : Nat := a.p 2 1
def rlDslots (a : StAt) : Nat := a.p 3 1
def rlDbase (a : StAt) : Nat := a.p 4 4
/-- The role of a tag (R274). -/
def rlRole (a : StAt) (tag : Nat) : Nat := a.p (0x10 + tag % max 1 (rlRmod a)) 1
/-- Entry `i` of ORDER: route, COUNT and UPSTREAM. -/
def rlOrder (a : StAt) (i : Nat) : Nat × Nat × Bool :=
  (a.p (0x50 + 4 * i) 2, a.p (0x52 + 4 * i) 1, bit (a.p (0x53 + 4 * i) 1) 0)

/-- START and ONLY do not fold upstream entries (Table 10.3). -/
def roleLocal (role : Nat) : Bool := role == 1 || role == 3

/-- The entries that the role of a tag folds, in order: route and COUNT. -/
def rlEntries (a : StAt) (tag : Nat) : List (Nat × Nat) :=
  ((List.range (rlNord a)).map (rlOrder a)).filterMap (fun e =>
    if roleLocal (rlRole a tag) && e.2.2 then none else some (e.1, e.2.1))

/-- The entry of a route in ORDER. -/
def rlUpstream (a : StAt) (route : Nat) : Bool :=
  ((List.range (rlNord a)).map (rlOrder a)).any (fun e => e.1 == route && e.2.2)

/-- Items that a bucket expects from a route. -/
def rlCount (a : StAt) (tag route : Nat) : Nat :=
  (((rlEntries a tag).find? (fun e => e.1 == route)).map Prod.snd).getD 0

/-- The outputs that a role uses (Table 10.3): port, and true for RFMT. -/
def roleOuts : Nat → List (Nat × Bool)
  | 0 => [(0, false)] | 1 => [(0, false)] | 2 => [(1, true)] | 3 => [(1, true)] | 4 => [(0, false), (1, true)] | _ => []

/-! ### Judging (R274, R275, R279, R281) -/

/-- What the link does with a presented item. -/
inductive Judge where
  | fold | opens | stale | misrouted | wait
  deriving DecidableEq, Repr

def findPlace (k : Link) (t : Nat) : Option Place := k.places.find? (fun p => p.tag == t)

/-- A tag lies ahead of HEAD (R281). -/
def aheadOf (head t : Nat) : Bool :=
  let x := (t + 4096 - head % 4096) % 4096
  decide (1 ≤ x) && decide (x ≤ 2047)

/-- The judgement of an item by its tag and route. -/
def judgeItem (a : StAt) (k : Link) (route t : Nat) : Judge :=
  let role := rlRole a t
  if decide (5 ≤ role) || (roleLocal role && rlUpstream a route) then .misrouted
  else match findPlace k t with
    | some p => if p.emitted || decide (rlCount a t route ≤ tabGet 0 p.counts route) then .stale else .fold
    | none =>
      if 16 ≤ k.places.length then .wait
      else if !k.headValid || aheadOf k.head t then .opens
      else if k.closed.testBit t then .stale else .opens

/-- HEAD and the CLOSED bits when a bucket opens (R281). -/
def openTag (k : Link) (t : Nat) : Link :=
  if !k.headValid then { k with head := t, headValid := true }
  else if aheadOf k.head t then
    { k with
      head := t
      closed := (List.range 4096).foldl (fun c u => if aheadOf t u then setFld c u u 0 else c) k.closed }
  else k

/-- The item leaves the port's queue; its lines stay in the buffer until it is consumed. -/
def popItem (s : State) (a : StAt) (r : Nat) : State :=
  let s := stMod s a 0 (fun x => { x with order := x.order.erase r })
  modRoute s a.d a.slot r (fun x => { x with inbox := x.inbox.tail, taken := x.taken + 1 })

/-- Lines of an item of a route have been consumed (R193). -/
def oweLines (s : State) (a : StAt) (r n : Nat) : State := modRoute s a.d a.slot r (fun x => { x with owed := x.owed + n })

/-- The time of a bucket's limit: after a write that leaves it open too long already, that of the write (R283; assumption 39). -/
def limitAt (k : Link) (p : Place) : Nat := max (p.opened + 1000 * k.tmo.toNat) k.tmoAt

/-- The bucket's last expected item was presented in the beat of its limit: the link folds it, and the bucket does not fault (R283;
assumption 99). -/
def lastInTime (a : StAt) (k : Link) (p : Place) : Bool :=
  (rlEntries a p.tag).all (fun e => decide (e.2 ≤ tabGet 0 p.counts e.1)) && p.lastAt == limitAt k p

/-- The beat of a bucket's limit has passed: it folds nothing more, and its items are stale. -/
def overdue (a : StAt) (k : Link) (now : Nat) (p : Place) : Bool :=
  k.tmo != 0 && !p.emitted && decide (limitAt k p < now) && !lastInTime a k p

/-- The item joins its bucket's place at a time. -/
def joinPlace (k : Link) (now t route hdr : Nat) (bs : List Byte) : Link :=
  { k with places := k.places.map (fun p => if p.tag = t then { p with
      lastAt := now, counts := tabSet 0 p.counts route (tabGet 0 p.counts route + 1), waiting := p.waiting ++ [(route, hdr, bs)] } else p) }

/-- A presented reduction item is judged by its tag (R279, R281). -/
def execRedItemJudge (d : DieId) (slot route : Nat) (s : State) : Res :=
  match rtAt s d slot route with
  | none => nx s
  | some src =>
    let a := dstOf src route
    if a.kind ≠ 5 then nx s
    else match routeHead s a route with
      | some (.tile hdr _ bs) =>
        let h := hdr.toNat
        let t := fld h 11 0
        let k := getLink (getDie s d) a.place
        let n := ceilDiv bs.length 256
        let late := (findPlace k t).any (overdue a k (timeOf s (some d)))
        match (if late ∧ judgeItem a k route t = .fold then Judge.stale else judgeItem a k route t) with
        | .wait => nx s
        | .misrouted => nx (modLink (oweLines (popItem s a route) a route n) d a.place (fun k =>
            { k with misrouted := BitVec.ofNat 16 (satAdd 16 k.misrouted.toNat 1) }))
        | .stale => nx (modLink (oweLines (popItem s a route) a route n) d a.place (fun k =>
            { k with stale := BitVec.ofNat 16 (satAdd 16 k.stale.toNat 1) }))
        | .fold => nx (modLink (popItem s a route) d a.place (fun k => joinPlace k (timeOf s (some d)) t route h bs))
        | .opens =>
          nx (modLink (popItem s a route) d a.place (fun k =>
            let k := openTag k t
            joinPlace { k with places := k.places ++ [{ tag := t, fmt := wireFmt h, win := fld h 26 17, hdr := 0, opened := timeOf s (some d) }] }
              (timeOf s (some d)) t route h bs))
      | _ => nx s

/-! ### Folding (R275, R276, R278) -/

/-- Element (i, j) of an item on the wire. -/
def wireElem (wfmt : Nat) (bs : List Byte) (i j : Nat) : Nat :=
  let w := wireBits wfmt / 8
  leNat ((bs.drop ((64 * i + j) * w)).take w)

/-- Element (i, j) of an item as its place holds it: BF16 widened to FP32, the others as they are. -/
def wideElem (wfmt : Nat) (bs : List Byte) (i j : Nat) : Nat :=
  if wfmt = 0x02 then wireElem wfmt bs i j * 65536 else wireElem wfmt bs i j

/-- Width of a place's elements. -/
def placeBits (wfmt : Nat) : Nat := if wfmt = 0x10 then 64 else 32

/-- One element of a fold: exact in LX64, one rounding in FP32. -/
def foldElem (p : Place) (bs : List Byte) (i j : Nat) : Nat × Flg :=
  let b := placeBits p.fmt
  let x := rowElem p.rows b i j
  let y := wideElem p.fmt bs i j
  if p.first then (y, { nonfinite := p.fmt != 0x10 && bitsNonfinite .fp32 y })
  else if p.fmt = 0x10 then
    let q := lxAdd 64 (signed 64 x) (signed 64 y)
    (unsigned 64 q.1, { lxOvf := q.2 })
  else
    let z := accAddFp x (decodeVal .fp32 y)
    (z, { nonfinite := bitsNonfinite .fp32 z })

/-- The flag bits of a header (Table 10.1): NONFINITE, LX_OVF, LX_INEXACT, FAULT. -/
def hdrFlags (h : Nat) : Nat := fld h 30 27

/-- The item that the adder folds next into a place: the first entry of ORDER not wholly folded, in arrival order. -/
def nextFold (a : StAt) (p : Place) : Option (Nat × Nat × List Byte) :=
  if p.emitted then none
  else match (rlEntries a p.tag).find? (fun e => decide (tabGet 0 p.folded e.1 < e.2)) with
    | none => none
    | some e => p.waiting.find? (fun w => w.1 == e.1)

/-- A bucket faults: the step-level flag and one record (R276, R283). -/
def bucketFault (s : State) (a : StAt) (tag code : Nat) : State :=
  logErr (stepNonfinite s a.d a.part 0x1FF 3) (some a.d) {
    cls := 6, code := code, part := some a.part, unitKind := 3, unitSub := 5, unitIndex := a.place, detail := tag }

/-- An item that the place cannot add: its format, or its window in LX64, is not that of the first item folded (R276,
assumption 39). -/
def foldBad (p : Place) (hdr : Nat) : Bool := !p.first && (wireFmt hdr != p.fmt || (p.fmt == 0x10 && fld hdr 26 17 != p.win))

/-- The place after an item has been folded, with the flags that the adder raised; the first item gives it its format and window. DESIGN CHOICE
(assumption 115): FAULT that an item brings from upstream makes the bucket a FAULT bucket, and is no fault of this link. -/
def foldPlace (p : Place) (route hdr : Nat) (bs : List Byte) : Place × Flg :=
  let q := { p with
    waiting := p.waiting.erase (route, hdr, bs), folded := tabSet 0 p.folded route (tabGet 0 p.folded route + 1) }
  if foldBad p hdr then ({ q with fault := true, faulted := true }, {})
  else
    let p := if p.first then { p with fmt := wireFmt hdr, win := fld hdr 26 17 } else p
    let q := { q with fmt := p.fmt, win := p.win }
    let r := buildRows (placeBits p.fmt) (foldElem p bs)
    let f := hdrFlags hdr ||| b2n r.2.nonfinite ||| (2 * b2n r.2.lxOvf)
    ({ q with rows := r.1, first := false, hdr := p.hdr ||| f, fault := p.fault || bit hdr 30 }, r.2)

def setPlace (k : Link) (q : Place) : Link := { k with places := k.places.map (fun p => if p.tag = q.tag then q else p) }

/-- The adder folds an item into the bucket that opened first among those with one ready (R275, R278). -/
def execRedFold (d : DieId) (slot station : Nat) (s : State) : Res :=
  match stAt s d slot station with
  | none => nx s
  | some a =>
    if a.kind ≠ 5 then nx s
    else match (getLink (getDie s d) a.place).places.find? (fun p =>
        (nextFold a p).isSome && !overdue a (getLink (getDie s d) a.place) (timeOf s (some d)) p) with
      | none => nx s
      | some p => match nextFold a p with
        | none => nx s
        | some (route, hdr, bs) =>
          let r := foldPlace p route hdr bs
          let s := modLink (oweLines s a route (ceilDiv bs.length 256)) d a.place (fun k => setPlace k r.1)
          let s := if r.2.nonfinite then stepNonfinite s d a.part 0x1FF 3 else s
          nx (if r.1.faulted && !p.faulted then bucketFault s a p.tag 1 else s)

/-! ### Emission (R276, R277, R278, R283) -/

/-- Every entry that the role folds has been folded COUNT times. -/
def bucketFull (a : StAt) (p : Place) : Bool :=
  (rlEntries a p.tag).all (fun e => decide (e.2 ≤ tabGet 0 p.folded e.1))

/-- One element of a result in an output format: into LX64 or FP32 an exact copy of the place. -/
def emitElem (p : Place) (out : Nat) (i j : Nat) : Nat × Flg :=
  if p.fault then
    if out = 0x10 then (0, {}) else (canonNan (if out = 0x02 then .bf16 else .fp32) false, { nonfinite := true })
  else
    let x := rowElem p.rows (placeBits p.fmt) i j
    if out = 0x10 ∧ p.fmt = 0x10 then (x, {})
    else if out ≠ 0x02 ∧ p.fmt ≠ 0x10 then (x, { nonfinite := bitsNonfinite .fp32 x })
    else
      let v := if p.fmt = 0x10 then lxVal (signed 10 p.win) (bit p.hdr 1) (signed 64 x) else decodeVal .fp32 x
      let q := convFp (if out = 0x02 then .bf16 else .fp32) .rne false 0 v
      (q.1, { nonfinite := bitsNonfinite (if out = 0x02 then .bf16 else .fp32) q.1 })

/-- The item that a bucket emits in a format, and whether it holds a non-finite value (R58, R277). -/
def emitItem (a : StAt) (p : Place) (out : Nat) : Item × Bool :=
  match wireItem out p.tag p.win false (emitElem p out) with
  | (.tile h _ bs, f) =>
    let flags := p.hdr ||| b2n f.nonfinite ||| (2 * b2n (p.fault && out == 0x10)) ||| (8 * b2n p.fault)
    let off := rlDbase a + (p.tag % max 1 (rlDslots a)) * bs.length
    (.tile (BitVec.ofNat 64 (setFld h.toNat 30 27 flags)) off bs, f.nonfinite)
  | (i, _) => (i, false)

/-- Puts a place's result on the outputs of its role; the place closes when they have sent it. -/
def emitPlace (s : State) (a : StAt) (p : Place) : State :=
  let outs := (roleOuts (rlRole a p.tag)).filterMap (fun o =>
    (routeAt a.bill a.st o.1).map (fun r => (r, if o.2 && rlRfmt a != 0x1F then rlRfmt a else p.fmt)))
  let s := outs.foldl (fun s o =>
    let e := emitItem a p o.2
    let s := queueItem s a.d a.slot o.1 e.1
    if e.2 then stepNonfinite s a.d a.part 0x1FF 3 else s) s
  let s := if outs.isEmpty then countClosed s a.d a.place 1 else s
  modLink s a.d a.place (fun k =>
    let k := if p.fault then { k with faulted := BitVec.ofNat 16 (satAdd 16 k.faulted.toNat 1) } else k
    if outs.isEmpty then { k with places := k.places.filter (fun q => q.tag != p.tag), closed := setFld k.closed p.tag p.tag 1 }
    else setPlace k { p with emitted := true, left := outs.length, waiting := [] })

/-- A full bucket's result is emitted (R278). -/
def execRedEmit (d : DieId) (slot station tag : Nat) (s : State) : Res :=
  match stAt s d slot station with
  | none => nx s
  | some a =>
    if a.kind ≠ 5 || sourcesStopped s a then nx s
    else match findPlace (getLink (getDie s d) a.place) tag with
      | some p => if !p.emitted && bucketFull a p then nx (emitPlace s a p) else nx s
      | none => nx s

/-- The station of an instance in the enabled Bills of a die. -/
def stationAt (s : State) (d : DieId) (kind place : Nat) : Option StAt :=
  (List.range 8).findSome? (fun i => match runningBill (getDie s d) i with
    | none => none
    | some b => (findStation b kind place).map (fun st => { d := d, slot := i, bill := b, st := st }))

/-- A bucket reaches BKT_TMO: folding stops and it is emitted as a FAULT bucket; items not yet folded are stale (R283). DESIGN CHOICE
(assumption 116): one whose items are all folded, and whose result is on its outputs or about to be, goes on. -/
def execBucketTimeout (d : DieId) (place tag : Nat) (s : State) : Res :=
  let k := getLink (getDie s d) place
  match findPlace k tag, stationAt s d 5 place with
  | some p, some a =>
    if k.tmo = 0 || p.emitted || bucketFull a p || decide (timeOf s (some d) < limitAt k p) || lastInTime a k p then nx s
    else
      let s := p.waiting.foldl (fun s w => oweLines s a w.1 (ceilDiv w.2.2.length 256)) s
      let s := modLink s d place (fun k => { k with stale := BitVec.ofNat 16 (satAdd 16 k.stale.toNat p.waiting.length) })
      let s := if p.faulted then s else bucketFault s a tag 2
      nx (emitPlace s a { p with fault := true, faulted := true, waiting := [] })
  | _, _ => nx s

/-- RL_CTL (Table 10.4). -/
def writeRl (s : State) (d : DieId) (place v : Nat) : State :=
  modLink s d place (fun k => { k with tmo := BitVec.ofNat 16 v, tmoAt := timeOf s (some d) })

def execRlCtlWrite (agent : Nat) (d : DieId) (place : Nat) (v : W32) (s : State) : Res :=
  answer (reachesDie s agent d && decide (place < 64)) agent s (writeRl s d place v.toNat)

/-- Phase 1 of a switch discards the open buckets of the Bill's links; the place and tag of the first discarded, if any (R284). -/
def discardBuckets (s : State) (d : DieId) (b : List Byte) : State × Option (Nat × Nat) :=
  ((List.range (nStations b)).filter (fun st => stKind b st == 5)).foldl (fun acc st =>
    let place := stPlace b st
    let k := getLink (getDie acc.1 d) place
    let tags := k.places.map Place.tag
    (modLink acc.1 d place (fun k => { k with
        places := [], closed := tags.foldl (fun c t => setFld c t t 1) k.closed
        discarded := BitVec.ofNat 16 (satAdd 16 k.discarded.toNat tags.length) }),
      match acc.2 with
      | some t => some t
      | none => tags.head?.map (fun t => (place, t)))) (s, none)

end Sys2Proof.Machine
end

