-- ==== Sys2Proof/Machine/Queues.lean ====
section
/-! DEFINITION. Started commands, the partition's first use, and re-initialisation of a cell: what the Floor and the command
families share (R234, R245, R402, R403, R418, R419). -/

namespace Sys2Proof.Machine

/-! ### Started commands -/

/-- The flash command aperture as a queue number (R331). -/
def flQ : Nat := 64

/-- A queue of a die, or the flash command aperture. -/
def cmdQueue (s : State) (d : DieId) (q : Nat) : Queue := if q = flQ then s.hd.flash.q else getQueue (getDie s d) q

def modCmdQueue (s : State) (d : DieId) (q : Nat) (f : Queue → Queue) : State :=
  if q = flQ then { s with hd := { s.hd with flash := { s.hd.flash with q := f s.hd.flash.q } } } else modQueue s d q f

def findStarted (x : Queue) (cseq : Nat) : Option Started := x.started.find? (fun c => c.cseq == cseq)

def setStarted (x : Queue) (c : Started) : Queue :=
  { x with started := x.started.map (fun y => if y.cseq = c.cseq then c else y) }

def modStarted (s : State) (d : DieId) (q cseq : Nat) (f : Started → Started) : State :=
  modCmdQueue s d q (fun x => { x with started := x.started.map (fun y => if y.cseq = cseq then f y else y) })

/-- The command is done, with its status and RESULT; COMMAND_COMPLETE writes its record. -/
def doneCmd (s : State) (d : DieId) (r : CmdRef) (status result : Nat) : State :=
  modStarted s d r.q r.cseq (fun c => { c with phase := .done status result })

/-- The command is done with a status for which the spec states no RESULT: a free value (assumption 20). -/
def failCmd (s : State) (d : DieId) (r : CmdRef) (status : Nat) : State :=
  let f := drawFree s 32
  doneCmd f.2 d r status f.1

/-- An error record was written for the command (R456). -/
def markErr (s : State) (d : DieId) (r : CmdRef) : State := modStarted s d r.q r.cseq (fun c => { c with errlog := true })

/-- Fields of a command (Table 8.8, 8.9). -/
def cmdOp (w : Nat) : Nat := fld w 7 0
def cmdFlags (w : Nat) : Nat := fld w 15 8
def cmdTag (w : Nat) : Nat := fld w 127 64
def cmdF (w off n : Nat) : Nat := fld w (8 * (off + n) - 1) (8 * off)

/-- The QID byte of a completion record (Table 8.10). -/
def qidByte (d : DieId) (q : Nat) : Nat := if q = flQ then 0xFF else q + 64 * dieNum d

/-- DETAIL bytes [15:0] of a record written for a command (Table 18.1). -/
def cmdDetail (d : DieId) (q : Nat) (c : Started) : Nat := c.cseq % 2 ^ 32 + 2 ^ 32 * qidByte d q + 2 ^ 64 * cmdTag c.word

/-! ### First use of a clean partition (R418, R419) -/

/-- Granules of a die that lie in a partition's regions. -/
def regionGranules (d : Die) (p : Nat) : List Nat :=
  (List.range 480).filter (fun g => (List.range 32).any (fun i =>
    let r := getRgn d i
    rgnValid r && !r.host && decide (r.part.toNat = p) && decide (r.base.toNat ≤ g) && decide (g < r.limit.toNat)))

def clearGranules (m : Nat) (gs : List Nat) : Nat := gs.foldl (fun m g => setFld m g g 0) m

/-- A CLEAN partition becomes ACTIVE, and its granules are no longer clean. -/
def activatePart (s : State) (p : Nat) : State :=
  if (getSec s p).st = .clean then
    let s := modSec s p (fun x => { x with st := .active })
    let f := fun (d : Die) => { d with scrubMap := clearGranules d.scrubMap (regionGranules d p) }
    { s with cd0 := f s.cd0, cd1 := f s.cd1 }
  else s

/-! ### Re-initialising a cell (R98, R402, R403) -/

/-- The cell's own state after INIT: streams IDLE, slots, queues, semaphores, tasks, tiles and images cleared; the store, the
tables and the control registers are kept. -/
def initCell (s : State) (c : CellLoc) : State :=
  modCell s c (fun x => {
    c := {
      fn := x.c.fn, initBusy := x.c.initBusy, engEn := x.c.engEn, stopLine := x.c.stopLine, sched := x.c.sched
      minGap := x.c.minGap, gapRun := x.c.gapRun, grant := x.c.grant }
    m := { x.m with e0 := {}, e1 := {}, e2 := {}, e3 := {}, ops := [], outHeld := none, waits := [], mask := [] } })

/-- The parameter block's control values, seeds and stream images (Table 7.16, phase 3). -/
def applyParams (s : State) (a : StAt) : State :=
  let c : CellLoc := { die := a.d, site := a.place }
  let s := modM s c (fun m => { m with region := some a.slot })
  let s := writeEng (modC (writeSched s c (a.p 0x18 4)) c (fun k => { k with minGap := BitVec.ofNat 8 (a.p 0x1C 4) })) c (a.p 0x20 4)
  (List.range 6).foldl (fun s n =>
    let l : StreamLoc := { die := a.d, site := a.place, stream := n }
    modStream s l (fun t => { t with
      image := cellImage a.bill a.st n, entry := cellEntry a.bill a.st n, sr := srSeed (BitVec.ofNat 64 (a.p (0x28 + 8 * n) 8)) })) s

/-- A table loaded from a block of 1,032 bytes (Table 7.7). -/
def loadTable (a : StAt) (off : Nat) : Dtab :=
  (List.range 258).foldl (fun t i => tabWriteReg t i (BitVec.ofNat 32 (a.p (off + 4 * i) 4))) {}

/-- The tables of a cell with TABLES set (Table 7.16, phase 4). -/
def applyTables (s : State) (a : StAt) : State :=
  if cellTables a.bill a.st then
    modM s { die := a.d, site := a.place } (fun m => { m with ftab := loadTable a 0x60, dtab := loadTable a 0x468 })
  else s

/-- The contexts of a cell that have no gating route begin micro-batch 0, with ARG and MB_SEQ 0 (R197), where the cell is ON and its
sector has not failed (R19, R400). -/
def beginUngated (s : State) (a : StAt) : State :=
  let c := (getCell s { die := a.d, site := a.place }).c
  (List.range 3).foldl (fun s ctx =>
    if (gatingRoutes a.bill a.st ctx).isEmpty && decide (c.fn.st = .on) && !siteLost s a then
      beginCell (stMod s a ctx (fun x => { x with begun := 1 })) a ctx 0 0
    else s) s

/-- What a cell's station does after INIT under an ACTIVE Bill (R403). -/
def restartCell (s : State) (a : StAt) : State :=
  let s := applyTables (applyParams s a) a
  (List.range 3).foldl (fun s ctx =>
    let x := stGet s a ctx
    if (gatingRoutes a.bill a.st ctx).isEmpty then beginCell s a ctx 0 0
    else if x.begun = x.ended + 1 then beginCell s a ctx x.seq x.arg else s) s

/-- The station of a cell in an enabled Bill that is ACTIVE. -/
def cellStation (s : State) (c : CellLoc) : Option StAt :=
  match stationAt s c.die 1 c.site with
  | some a => if (getSlot (getDie s c.die) a.slot).st = .active then some a else none
  | none => none

end Sys2Proof.Machine
end

