-- ==== Sys2Proof/Machine/Shake.lean ====
section
/-! DEFINITION. SHAKE256 as FIPS 202 defines it, which R203, R204, R316 and spec/16_security.md name. -/

namespace Sys2Proof.Machine

/-- Iota's round constants. -/
def keccakRc : List W64 :=
  [0x1, 0x8082, 0x800000000000808A, 0x8000000080008000, 0x808B, 0x80000001, 0x8000000080008081, 0x8000000000008009,
    0x8A, 0x88, 0x80008009, 0x8000000A, 0x8000808B, 0x800000000000008B, 0x8000000000008089, 0x8000000000008003]
  ++ [0x8000000000008002, 0x8000000000000080, 0x800A, 0x800000008000000A, 0x8000000080008081, 0x8000000000008080, 0x80000001,
    0x8000000080008008]

/-- Rho's rotation of lane x + 5y. -/
def keccakRot : List Nat := [0, 1, 62, 28, 27, 36, 44, 6, 55, 20, 3, 10, 43, 25, 39, 41, 45, 15, 21, 8, 18, 2, 61, 56, 14]

/-- A lane of the state. -/
def lane (a : List W64) (x y : Nat) : W64 := a.getD (x % 5 + 5 * (y % 5)) 0

/-- One round. -/
def keccakRound (a : List W64) (rc : W64) : List W64 :=
  let c := (List.range 5).map (fun x => lane a x 0 ^^^ lane a x 1 ^^^ lane a x 2 ^^^ lane a x 3 ^^^ lane a x 4)
  let e := (List.range 5).map (fun x => c.getD ((x + 4) % 5) 0 ^^^ (c.getD ((x + 1) % 5) 0).rotateLeft 1)
  let t := (List.range 25).map (fun i => a.getD i 0 ^^^ e.getD (i % 5) 0)
  let r := (List.range 25).map (fun i => (t.getD i 0).rotateLeft (keccakRot.getD i 0))
  -- pi: lane (y, 2x + 3y) takes lane (x, y)
  let b := (List.range 25).map (fun i =>
    let x := i % 5
    let y := i / 5
    lane r (x + 3 * y) x)
  let k := (List.range 25).map (fun i =>
    let x := i % 5
    let y := i / 5
    lane b x y ^^^ ((~~~ (lane b (x + 1) y)) &&& lane b (x + 2) y))
  match k with
  | [] => []
  | h :: r => (h ^^^ rc) :: r

def keccakF (a : List W64) : List W64 := keccakRc.foldl keccakRound a

/-- A block of 136 bytes absorbed. -/
def absorbBlock (a : List W64) (bs : List Byte) : List W64 :=
  keccakF ((List.range 25).map (fun i => a.getD i 0 ^^^ BitVec.ofNat 64 (leNat ((bs.drop (8 * i)).take 8))))

/-- Absorbs `n` whole blocks. -/
def absorbAll : Nat → List W64 → List Byte → List W64
  | 0, a, _ => a
  | n + 1, a, bs => absorbAll n (absorbBlock a (bs.take 136)) (bs.drop 136)

/-- The message with the SHAKE suffix and padding. -/
def shakePad (m : List Byte) : List Byte :=
  let r := 136 - (m.length + 1) % 136
  if r = 136 then m ++ [0x9F] else m ++ [0x1F] ++ List.replicate (r - 1) 0 ++ [0x80]

/-- Squeezes by fuel, 136 bytes at a time. -/
def squeeze : Nat → List W64 → List Byte
  | 0, _ => []
  | n + 1, a => ((a.take 17).map (fun w => leBytes 8 w.toNat)).flatten ++ squeeze n (keccakF a)

/-- `n` bytes of SHAKE256. -/
def shake256 (n : Nat) (m : List Byte) : List Byte :=
  let p := shakePad m
  (squeeze (n / 136 + 1) (absorbAll (p.length / 136) (List.replicate 25 0) p)).take n

/-- The 512-bit digest as a little-endian number. -/
def digest512 (m : List Byte) : Nat := leNat (shake256 64 m)

end Sys2Proof.Machine
end

