-- ==== Sys2Proof/Machine/BillCheck.lean ====
section
/-! DEFINITION. The load checks of a Bill, in order (R201 to R210, Table 7.14), and the limits of each station kind. -/

namespace Sys2Proof.Machine

/-- Inputs, outputs and buffer lines of a kind (Table 7.1). -/
def kindIns : Nat → Nat
  | 1 => 4 | 2 => 0 | 3 => 4 | 4 => 2 | 5 => 8 | 6 => 2 | 7 => 2 | 8 => 1 | 9 => 4 | 10 => 4 | 11 => 8 | _ => 0
def kindOuts : Nat → Nat
  | 1 => 4 | 2 => 8 | 3 => 8 | 4 => 1 | 5 => 2 | 6 => 2 | 7 => 8 | 8 => 8 | 9 => 4 | 10 => 4 | 11 => 8 | _ => 0
def kindBuf : Nat → Nat
  | 1 => 256 | 2 => 0 | 3 => 256 | 4 => 128 | 5 => 512 | 6 => 256 | 7 => 256 | 8 => 16 | 9 => 1024 | 10 => 512 | 11 => 16 | _ => 0

def allBelow (n : Nat) (p : Nat → Bool) : Bool := (List.range n).all p

/-- The fuse-map digest of a die (R203). -/
def fuseDigest (s : State) (d : DieId) : Nat :=
  digest512 (leBytes 1 (dieNum d) ++ leBytes 1 s.hd.ident.grade.toNat
    ++ ((List.range 16).map (fun g => leBytes 4 (siteMask (getDie s d) g).toNat)).flatten)

def recSize : Nat → Nat
  | 0 => 32 | 1 => 16 | 2 => 16 | _ => 1

/-- Check 1: header and sections (R201, R202). -/
def check1 (b : List Byte) : Bool :=
  let len := bLength b
  let used := (List.range 8).filter (fun i => secSize b i != 0)
  bMagic b == 0x4C424A4D && bVersion b == 1 && decide (0x100 ≤ len) && decide (len ≤ 0x400000) && len % 64 == 0
    && decide (b.length = len) && fld (bFlags b) 15 1 == 0 && bf b 0xE 2 == 0 && bf b 0x18 8 == 0 && bf b 0xE0 32 == 0
    && allBelow 8 (fun i =>
      if secSize b i = 0 then secOff b i == 0
      else decide (i < 5) && secOff b i % 64 == 0 && decide (0x100 ≤ secOff b i) && decide (secOff b i + secSize b i ≤ len)
        && secSize b i % recSize i == 0)
    && used.all (fun i => used.all (fun j => i == j
        || decide (secOff b i + secSize b i ≤ secOff b j) || decide (secOff b j + secSize b j ≤ secOff b i)))
    && b.zipIdx.all (fun p => decide (p.2 < 0x100) || p.1 == 0
        || used.any (fun i => decide (secOff b i ≤ p.2) && decide (p.2 < secOff b i + secSize b i)))

/-- Distinct images that a cell names. -/
def cellImages (b : List Byte) (st : Nat) : List Nat :=
  ((List.range 6).filterMap (cellImage b st)).eraseDups

/-- Check 5: the limits of Table 7.8 but for credits. -/
def check5 (b : List Byte) : Bool :=
  decide (nStations b ≤ 2048) && decide (nRoutes b ≤ 8192) && decide (nImages b ≤ 1024)
    && allBelow (nImages b) (fun i => decide (imLen b i ≤ 16384))
    && allBelow 16 (fun n => decide (((List.range (nRoutes b)).filter (fun r =>
        nodeOf (stKind b (rtSrc b r)) (stPlace b (rtSrc b r)) == n)).length ≤ 256))
    && allBelow (nStations b) (fun st =>
      (stKind b st != 1 || decide (((cellImages b st).map (imLen b)).sum ≤ 16384))
        && decide (((List.range 8).map (stDepth b st)).sum ≤ kindBuf (stKind b st)))

/-- The length that a kind's parameter block has (R205, R209, R273, R288, R309, R313, R334, R352, R359). -/
def paramLenOk (b : List Byte) (st : Nat) : Bool :=
  let n := stParamLen b st
  match stKind b st with
  | 1 => n == (if cellTables b st then 2160 else 96)
  | 3 => n == 16
  | 4 => n == 16
  | 5 => n == 0x50 + 4 * pf b st 0 1
  | 6 => n == 16 + 16 * pf b st 1 1
  | 7 => n == 24
  | 8 => n == 16
  | 9 => n == 32
  | _ => n == 0

/-- A cell's parameter block: reserved bits, image indices and entries (R209). -/
def cellParamOk (b : List Byte) (st : Nat) : Bool :=
  let sched := pf b st 0x18 4
  fld sched 3 1 == 0 && fld sched 31 22 == 0 && fld (pf b st 0x1C 4) 31 8 == 0 && fld (pf b st 0x20 4) 31 4 == 0
    && fld (pf b st 0x24 4) 31 1 == 0 && pf b st 0x58 8 == 0
    && allBelow 6 (fun n => match cellImage b st n with
      | none => true
      | some i => decide (i < nImages b) && decide (cellEntry b st n < imLen b i))

/-- A reduction link's parameter block (R273). -/
def linkParamOk (b : List Byte) (st : Nat) : Bool :=
  let a : StAt := { d := .cd0, slot := 0, bill := b, st := st }
  let nord := rlNord a
  let entries := (List.range nord).map (rlOrder a)
  let into := routesInto b st
  let rfmt := rlRfmt a
  decide (1 ≤ nord) && decide (nord ≤ 64) && decide (1 ≤ rlRmod a) && decide (rlRmod a ≤ 64)
    && (rfmt == 0 || rfmt == 2 || rfmt == 0x1F) && decide (1 ≤ rlDslots a) && decide (rlDslots a ≤ 64) && rlDbase a % 256 == 0
    && pf b st 8 8 == 0
    && allBelow 64 (fun r => if r < rlRmod a then decide (pf b st (0x10 + r) 1 ≤ 5) else pf b st (0x10 + r) 1 == 0)
    && (into ++ routesFrom b st).all (fun r => rtClass b r == 0)
    && entries.all (fun e => into.contains e.1 && decide (1 ≤ e.2.1))
    && allBelow nord (fun i => fld (pf b st (0x53 + 4 * i) 1) 7 1 == 0)
    && into.all (fun r => (entries.filter (fun e => e.1 == r)).length == 1)
    && allBelow (rlRmod a) (fun r => (roleOuts (pf b st (0x10 + r) 1)).all (fun o => (routeAt b st o.1).isSome))

/-- A mover's parameter block (R313, Table 11.18). -/
def moverParamOk (b : List Byte) (st : Nat) : Bool :=
  let a : StAt := { d := .cd0, slot := 0, bill := b, st := st }
  let mode := mvMode a
  let nent := mvNent a
  let img := mvImage a
  decide (mode ≤ 3) && pf b st 2 2 == 0 && decide (1 ≤ mvNblk a) && decide (mvNblk a ≤ 2 ^ 24) && img % 65536 == 0
    && (if mode < 2 then decide (1 ≤ nent) && decide (nent ≤ 16)
          && mvNblk a == ((List.range nent).map (fun i => ceilDiv (mvF a i 0xC 4) 65536)).sum
        else nent == 0 && img != 0)
    && allBelow nent (fun i =>
      decide (mvF a i 0 1 ≤ 1) && decide (mvF a i 1 1 ≤ 1) && mvF a i 8 4 % 256 == 0 && mvF a i 0xC 4 % 256 == 0
        && decide (256 ≤ mvF a i 0xC 4)
        && (mvF a i 0 1 == 0 || (groupOf (mvF a i 2 2) == stPlace b st && (findStation b 1 (mvF a i 2 2)).isSome)))
    && (if mode = 2 then (gatingRoutes b st 0).isEmpty else !(gatingRoutes b st 0).isEmpty)

/-- Parameter blocks of the other kinds (R288, R309, R334, R359). -/
def otherParamOk (b : List Byte) (st : Nat) : Bool :=
  match stKind b st with
  | 3 => pf b st 0 8 % 64 == 0 && decide (1 ≤ pf b st 8 4) && decide (pf b st 8 4 ≤ 65536) && pf b st 12 4 == 0
  | 7 => decide (1 ≤ pf b st 4 4) && decide (pf b st 4 4 ≤ 65536) && pf b st 0x10 4 % 256 == 0
      && decide (1 ≤ pf b st 0x14 1) && decide (pf b st 0x14 1 ≤ 64) && pf b st 0x15 3 == 0
  | 8 => pf b st 0 8 % 64 == 0 && decide (1 ≤ pf b st 8 4) && decide (pf b st 8 4 ≤ 65536) && pf b st 12 4 == 0
  | 9 => allBelow 4 (fun i => decide (pf b st (4 * i) 2 < 4096) && decide (pf b st (4 * i + 2) 1 ≤ 3) && pf b st (4 * i + 3) 1 == 0
        && decide (pf b st (16 + 4 * i) 2 < 4096))
      && decide (((List.range 4).map (fun o => pf b st (18 + 4 * o) 2)).sum ≤ 1024)
  | _ => true

/-- A station record meets its kind (R205). -/
def stationOk (b : List Byte) (st : Nat) : Bool :=
  let k := stKind b st
  decide (1 ≤ k) && decide (k ≤ 11) && decide (stNin b st ≤ kindIns k) && decide (stNout b st ≤ kindOuts k)
    && stF b st 3 1 == 0 && stF b st 6 2 == 0 && stParamOff b st % 8 == 0
    && decide (stParamOff b st + stParamLen b st ≤ secSize b 4) && paramLenOk b st
    && allBelow 8 (fun p => decide (p < stNin b st) || stDepth b st p == 0)
    && (match k with
      | 1 => cellParamOk b st
      | 5 => linkParamOk b st
      | 6 => moverParamOk b st
      | _ => otherParamOk b st)

/-- The class that a port carries meets its kind (R187, R200, R273, R309, R313, R334; Table 7.2). -/
def portClassOk (b : List Byte) (r : Nat) : Bool :=
  let sk := stKind b (rtSrc b r)
  let dk := stKind b (rtDst b r)
  let data := rtClass b r == 0
  (match sk with
    | 1 => if rtSrcPort b r = 0 then data && dk == 5 else !data
    | 2 => !data | 4 => !data | 5 => data | 11 => !data
    | 6 => !data || rtSrcPort b r == 0
    | _ => true)
  && (match dk with
    | 2 => false | 3 => !data | 5 => data | 8 => !data | 11 => !data
    | 6 => !data || rtDstPort b r == 0
    | _ => true)

/-- A route record (R206, R207). -/
def routeOk (b : List Byte) (r : Nat) : Bool :=
  let n := nStations b
  let sk := stKind b (rtSrc b r)
  let dk := stKind b (rtDst b r)
  let token := rtClass b r == 1
  let cellEnd := sk == 1 || dk == 1
  let ownRule := sk == 5 || sk == 7 || sk == 3 || sk == 8
  decide (rtSrc b r < n) && decide (rtDst b r < n) && decide (rtSrcPort b r < stNout b (rtSrc b r))
    && decide (rtDstPort b r < stNin b (rtDst b r)) && decide (rtClass b r ≤ 1) && fld (rtFlags b r) 7 4 == 0
    && (token || fld (rtFlags b r) 1 0 == 0)
    && (if token && cellEnd then decide (rtCtx b r ≤ 2) else rtCtx b r == 3)
    && decide (rtCredits b r ≤ 1024) && fld (rtSem b r) 6 4 == 0 && rtF b r 0xE 2 == 0
    && (if token || dk != 1 then rtSem b r == 0 && rtDbase b r == 0 && rtDslots b r == 0
        else if ownRule then rtDbase b r == 0 && rtDslots b r == 0
        else decide (rtDbase b r ≤ 4095) && decide (1 ≤ rtDslots b r) && decide (rtDslots b r ≤ 64))
    && portClassOk b r

/-- Check 6. -/
def check6 (b : List Byte) : Bool :=
  allBelow (nStations b) (stationOk b) && allBelow (nRoutes b) (routeOk b)
    && allBelow (nImages b) (fun i => imOff b i % 8 == 0 && imLen b i % 8 == 0 && decide (8 ≤ imLen b i)
        && decide (imOff b i + imLen b i ≤ secSize b 3) && bf b (secOff b 2 + 16 * i + 8) 8 == 0)
    && allBelow (nRoutes b) (fun r => ((List.range (nRoutes b)).filter (fun x =>
        rtSrc b x == rtSrc b r && rtSrcPort b x == rtSrcPort b r)).length == 1)
    && allBelow (nRoutes b) (fun r => decide (((List.range (nRoutes b)).filter (fun x =>
        rtDst b x == rtDst b r && rtDstPort b x == rtDstPort b r)).length ≤ 8))

/-- A chain port's place exists: in MODE 1 its quadrant has only the first (R355). -/
def chainPlace (d : Die) (place : Nat) : Bool := place % 4 == 0 || !bit d.chain.cfgMode.toNat (place / 4)

/-- Check 7: every place exists, and every cell is present and ON (R400). -/
def check7 (s : State) (d : DieId) (b : List Byte) : Bool :=
  allBelow (nStations b) (fun st =>
    let k := stKind b st
    let place := stPlace b st
    decide (place < placesOf k) && (k != 9 || chainPlace (getDie s d) place)
      && (k != 1 || (sitePresent (getDie s d) place && decide ((getCell s { die := d, site := place }).c.fn.st = .on))))

/-- Check 8: the partition holds every instance, every group with a cell has a gate, and chain ports name their own peers (R359). -/
def check8 (s : State) (d : DieId) (p : Nat) (b : List Byte) : Bool :=
  allBelow (nStations b) (fun st =>
    match kindOfCode (stKind b st) with
    | none => false
    | some k =>
      let place := stPlace b st
      let named := ((List.range (stNin b st)).map (fun i => pf b st (4 * i) 2)) ++ ((List.range (stNout b st)).map (fun o => pf b st (16 + 4 * o) 2))
      ownerInst s d k place == some p
        && (stKind b st != 1 || (List.range 4).any (fun c => (findStation b 3 (4 * groupOf place + c)).isSome))
        && (stKind b st != 9 || named.all (fun n =>
            let e := getPeer (getDie s d) n
            e.part.toNat == p && e.port.toNat == place)))

/-- Check 9. -/
def check9 (b : List Byte) : Bool :=
  allBelow (nStations b) (fun st => ((List.range (nStations b)).filter (fun x =>
    stKind b x == stKind b st && stPlace b x == stPlace b st)).length == 1)

/-- Check 10. -/
def check10 (b : List Byte) : Bool :=
  allBelow (nRoutes b) (fun r => decide (1 ≤ rtCredits b r))
    && allBelow (nStations b) (fun st => allBelow 8 (fun p =>
      decide ((((routesInto b st).filter (fun r => rtDstPort b r == p)).map (rtCredits b)).sum ≤ stDepth b st p)))

/-- The status of a load: that of the first check that fails (Table 7.14). -/
def billStatus (s : State) (d : DieId) (p : Nat) (b : List Byte) : Nat :=
  if !check1 b then 0x20
  else if bPart b ≠ p then 0x21
  else if bDie b ≠ dieNum d ∨ (!bit (bFlags b) 0 ∧ bFuseDigest b ≠ fuseDigest s d) then 0x22
  else if bBodyDigest b ≠ digest512 (b.drop 0x100) then 0x23
  else if !check5 b then 0x24
  else if !check6 b then 0x20
  else if !check7 s d b then 0x25
  else if !check8 s d p b then 0x26
  else if !check9 b then 0x27
  else if !check10 b then 0x28
  else 0

end Sys2Proof.Machine
end

