-- ==== Sys2Proof/Machine/BridgeLines.lean ====
section
/-! DEFINITION. Lines of the Ilupen bridge: channels and credits, the FLOOR lines of BRIDGE_PORT stations, and the memory lines of
peer-die transfers (R349 to R352). -/

namespace Sys2Proof.Machine

/-! ### Channels and credits (R349, Table 13.6) -/

/-- Credits of a channel on a segment direction. -/
def segCredit (g : Seg) (l : BrgLine) : Nat :=
  match l.vc with
  | 0 => g.credReq
  | 1 => g.credRsp
  | 2 => match l.src with
    | some (_, _, port) => tabGet 128 g.credFloor port
    | none => 0
  | _ => g.credCtl

def addCredit (g : Seg) (l : BrgLine) (n : Int) : Seg :=
  let f := fun (c : Nat) => ((c : Int) + n).toNat
  match l.vc with
  | 0 => { g with credReq := f g.credReq }
  | 1 => { g with credRsp := f g.credRsp }
  | 2 => match l.src with
    | some (_, _, port) => { g with credFloor := tabSet 128 g.credFloor port (f (tabGet 128 g.credFloor port)) }
    | none => g
  | _ => { g with credCtl := f g.credCtl }

/-- The line is offered: it takes a credit and the next line sequence, and its check wires carry the check of R364 over its data and
sideband, whose coding the spec does not give (assumption 92). -/
def offer (d : DieId) (seg : Nat) (g : Seg) (l : BrgLine) : Seg :=
  let g := addCredit g l (-1)
  { g with
    flight := g.flight ++ [{ l with
      seq := g.nextSeq, check := bridgeCheck seg (dieNum d) g.nextSeq (l.data ++ Config.bridgeSideband l.vc l.kind l.header l.data.length) }]
    nextSeq := (g.nextSeq + 1) % 256, lastReq := if l.vc = 0 then true else if l.vc = 2 then false else g.lastReq
    rspDue := if l.vc = 0 ∧ l.mem.isSome then g.rspDue + 1 else g.rspDue }

/-- The next line may be offered: at most four are in flight, and a credit of its channel is held; a request needs room for its
response. -/
def mayOffer (g : Seg) (l : BrgLine) : Bool :=
  decide (g.st = .up) && decide (g.flight.length < 4) && decide (1 ≤ segCredit g l) && (l.vc != 0 || l.mem.isNone || decide (g.rspDue < 128))

/-- Lines of a failed segment leave on the substitute as room and credits allow. -/
def offerResend (d : DieId) (seg : Nat) (g : Seg) : Seg :=
  match g.resend with
  | [] => g
  | l :: rest => if mayOffer { g with rspDue := 0 } l then
      { offer d seg { g with resend := rest } l with rspDue := g.rspDue } else g

/-- The next UP segment in ascending order modulo 16 (R350). -/
def segSubst (x : Die) (seg : Nat) : Option Nat :=
  ((List.range 15).map (fun i => (seg + 1 + i) % 16)).find? (fun n => decide ((getSeg x n).st = .up))

/-! ### Peer-die transfers (R349, R350) -/

/-- The segment of a line at a die offset: that of its home slice, or the substitute of one that is not UP. -/
def lineSeg (x : Die) (off : Nat) : Nat :=
  if (getSeg x (homeSlice off)).st ≠ .up then (segSubst x (homeSlice off)).getD (homeSlice off) else homeSlice off

/-- The lines of the peer die's HBM that a range of partition virtual addresses meets, by HPA; none where the range is not there, or
the peer die is held in reset and the transfer faults (R351). -/
def peerLines (s : State) (d : DieId) (group part va n : Nat) (write : Bool) : List Nat :=
  match translate s d (gateCaches s d group) part va write with
  | .ok (.here h) =>
    if hpaDie h = d ∨ n = 0 ∨ !(getDie s (otherDie d)).clk.running then []
    else (List.range ((h + n - 1) / 256 - h / 256 + 1)).map (fun i => h / 256 * 256 + 256 * i)
  | _ => []

/-- The requests of a gate's transfer wait for the bridge, each on its line's segment. -/
def sendPeerLines (s : State) (d : DieId) (group xid : Nat) (lines : List Nat) : State :=
  lines.foldl (fun s h => modSeg s d (lineSeg (getDie s d) (hpaOff h)) (fun g => { g with
    waitReq := g.waitReq ++ [{ vc := 0, seq := 0, data := [], mem := some (group, xid) }] })) s

/-- The response of one line has crossed: its transfer waits for one line less. -/
def lineAnswered (s : State) (d : DieId) (seg : Nat) (mem : Nat × Nat) : State :=
  modGate (modSeg s d seg (fun g => { g with rspDue := g.rspDue - 1 })) d mem.1 (fun g => { g with
    xfers := g.xfers.map (fun x => if x.id = mem.2 then { x with lines := x.lines - 1 } else x) })

/-- A memory line has been taken by the far die: a request is answered on the same segment, a response reaches its gate. -/
def crossMem (s : State) (d : DieId) (seg : Nat) (l : BrgLine) : State :=
  match l.mem with
  | none => s
  | some m =>
    if l.vc = 0 then modSeg s (otherDie d) seg (fun g => { g with waitRsp := g.waitRsp ++ [{ vc := 1, seq := 0, data := [], mem := some m }] })
    else if l.vc = 1 then lineAnswered s (otherDie d) seg m
    else s

/-! ### BRIDGE_PORT stations (R352) -/

/-- The far route of an input port: the partition's active Bill on the far die names the segment's BRIDGE_PORT. -/
def farRoute (s : State) (a : StAt) (port : Nat) : Option (StAt × Nat) :=
  let e := otherDie a.d
  (activeBill (getDie s e) a.part).bind (fun x =>
    (findStation x.2 10 a.place).bind (fun st =>
      let b : StAt := { d := e, slot := x.1, bill := x.2, st := st }
      if decide (port < stNout x.2 st) && (runningBill (getDie s e) x.1).isSome && !stHalted s b then
        (routeAt x.2 st port).map (fun r => (b, r))
      else none))

/-- The next line of an input of a BRIDGE_PORT. -/
def floorLine (s : State) (d : DieId) (seg slot station port : Nat) : Option (StAt × Nat × Item) :=
  match stAt s d slot station with
  | none => none
  | some a =>
    if decide (a.kind = 10) && a.place == seg && !stHalted s a && (farRoute s a port).isSome then (portNext s a port).map (fun x => (a, x.1, x.2))
    else none

/-- The stations of a kind in the Bill of a slot. -/
def billStations (s : State) (d : DieId) (slot kind : Nat) : List StAt :=
  let b := (getSlot (getDie s d) slot).bill
  ((List.range (nStations b)).filter (fun st => stKind b st == kind)).map (fun st => { d := d, slot := slot, bill := b, st := st })

/-- The stations of enabled Bills that sit on a segment of a die. -/
def segStations (s : State) (d : DieId) (seg : Nat) : List StAt :=
  (getDie s d).slots.flatMap (fun e =>
    (billStations s d e.1 10).filter (fun a => (runningBill (getDie s d) e.1).isSome && a.place == seg))

/-- A FLOOR line of the segment could be offered now. -/
def floorReady (s : State) (d : DieId) (seg : Nat) : Bool :=
  let g := getSeg (getDie s d) seg
  (segStations s d seg).any (fun a => (List.range (stNin a.bill a.st)).any (fun i =>
    (floorLine s d seg a.slot a.st i).isSome && decide (1 ≤ tabGet 128 g.credFloor i)))

/-- A channel's turn: CTRL before the others, MEM_RSP next, and MEM_REQ and FLOOR in turn (R349). A line that no queue of the model
holds comes with its command. -/
def vcTurn (s : State) (d : DieId) (seg vc : Nat) : Bool :=
  let g := getSeg (getDie s d) seg
  let rsp := !g.waitRsp.isEmpty && decide (1 ≤ g.credRsp)
  let req := !g.waitReq.isEmpty && decide (1 ≤ g.credReq) && decide (g.rspDue < 128)
  match vc with
  | 0 => !rsp && !(g.lastReq && floorReady s d seg)
  | 2 => !rsp && !(!g.lastReq && req)
  | _ => true

/-- The lines of an input that have not crossed wait on the near side again: those in flight have not been taken (R272). -/
def recallFloor (s : State) (a : StAt) (port : Nat) : State :=
  let mine := fun (l : BrgLine) => l.vc == 2 && l.src == some (a.slot, a.st, port)
  let s := modSeg s a.d a.place (fun g =>
    (g.flight.filter mine).foldl (fun g l => addCredit g l 1) { g with flight := g.flight.filter (fun l => !mine l) })
  stMod s a 0 (fun x => { x with
    sentItems := tabSet 0 x.sentItems port 0, sentLines := tabSet 0 x.sentLines port (tabGet 0 x.ackLines port) })

/-- The item of an input that has crossed in part is discarded at the far end (R351). -/
def dropFar (s : State) (a : StAt) (port : Nat) : State :=
  if tabGet 0 (stGet s a 0).ackLines port = 0 then s
  else match farRoute s a port with
    | none => s
    | some (b, fr) => modRoute s b.d b.slot fr (fun x =>
        if x.lacks = 0 then x
        else { x with outq := x.outq.dropLast, lacks := 0, sentLines := if x.outq.length = 1 then 0 else x.sentLines })

/-- Items of a BRIDGE_PORT that have crossed in part are discarded at both ends of its links. -/
def discardCrossing (s : State) (a : StAt) : State :=
  let s := (List.range (stNin a.bill a.st)).foldl (fun s i =>
    let drop := tabGet 0 (stGet s a 0).ackLines i != 0
    let s := match drop, portItem s a i 0 with
      | true, some (r, it) =>
        let rest := itemLines it - tabGet 0 (stGet s a 0).ackLines i
        stMod (modRoute s a.d a.slot r (fun x => { x with inbox := x.inbox.tail, taken := x.taken + 1, owed := x.owed + rest })) a 0
          (fun x => { x with order := x.order.erase r })
      | _, _ => s
    stMod s a 0 (fun x => { x with sentItems := tabSet 0 x.sentItems i 0, sentLines := tabSet 0 x.sentLines i 0, ackLines := tabSet 0 x.ackLines i 0 })) s
  (routesFrom a.bill a.st).foldl (fun s r => modRoute s a.d a.slot r (fun x =>
    if x.lacks = 0 then x
    else { x with outq := x.outq.dropLast, lacks := 0, sentLines := if x.outq.length = 1 then 0 else x.sentLines })) s

/-- Lines of a route that its source holds and has not sent. -/
def heldLines (x : Route) : Nat := (x.outq.map itemLines).sum - x.lacks - x.sentLines

/-- A chain port or a bridge port of a Bill that closes: its lines in flight over the bridge are recalled, frames that a chain port has
sent carry no lines of a new Bill, what has crossed in part is discarded, and the receive space of the items that it still holds is
free (R352, R360; assumption 48). -/
def closePort (s : State) (a : StAt) : State :=
  let s := if a.kind = 10 then
      (List.range (stNin a.bill a.st)).foldl (fun s i => recallFloor (dropFar s a i) a i) s
    else modDie s a.d (fun x => { x with peers := x.peers.map (fun e => (e.1, { e.2 with unacked := e.2.unacked.map (fun h =>
      if h.rt ≠ 0 ∧ (h.rt - 1) / 65536 = a.slot then { h with rt := 0 } else h) })) })
  (routesFrom a.bill a.st).foldl (fun s r => freeOut s a r (heldLines (getRoute (getDie s a.d) a.slot r))) s

end Sys2Proof.Machine
end

