-- ==== Sys2Proof/Machine/Switch.lean ====
section
/-! DEFINITION. Bill slots, loads and switches of a partition's Floor (R211 to R219, Tables 7.14 to 7.17). -/

namespace Sys2Proof.Machine

/-! ### Stations and runtime of a Bill -/

/-- What the links still hold of a slot's items is no longer its own: an acknowledgement consumes nothing. -/
def unmarkPeer (slot : Nat) (p : Peer) : Peer :=
  { p with unacked := p.unacked.map (fun h => if h.rt ≠ 0 ∧ (h.rt - 1) / 65536 = slot then { h with rt := 0 } else h) }

/-- Micro-batch counts, buffers and items of a slot's Bill are gone. -/
def clearRuntime (s : State) (d : DieId) (slot : Nat) : State :=
  let s := ((billStations s d slot 9) ++ (billStations s d slot 10)).foldl closePort s
  modDie s d (fun x => { x with
    stations := tabKeep (fun k => k / 65536 != slot) x.stations, routes := tabKeep (fun k => k / 65536 != slot) x.routes
    peers := x.peers.map (fun e => (e.1, unmarkPeer slot e.2)) })

/-- The partition of a queue. -/
def queuePart (s : State) (d : DieId) (q : Nat) : Nat := (ownerQueue s d q).getD 0

/-! ### RUNs of a Bill that closes (R215, R238) -/

/-- Every micro-batch begun by a RUN that a fetch station has taken has ended, and no token of one is held. -/
def quiescent (s : State) (d : DieId) (slot : Nat) : Bool :=
  (billStations s d slot 2).all (fun a =>
    let q := getQueue (getDie s d) a.place
    q.started.all (fun c => decide (cmdOp c.word ≠ 0x01) || decide (c.phase ≠ .fresh))
      && (routesFrom a.bill a.st).all (fun r => (getRoute (getDie s d) slot r).outq.isEmpty)
      && (decide (q.runs = 0) || runEnded s d slot a.bill a.st (q.runs - 1)))

/-- A RUN that has not completed ends with its Bill: OK where its micro-batch has ended, else CANCELLED. -/
def settleRun (s t : State) (a : StAt) (c : Started) : State :=
  let r : CmdRef := { q := a.place, cseq := c.cseq }
  if cmdOp c.word = 0x01 ∧ c.phase = .wait ∧ runEnded s a.d a.slot a.bill a.st c.prog then doneCmd t a.d r 0 c.prog
  else if cmdOp c.word = 0x01 ∧ (c.phase = .wait ∨ c.phase = .fresh) then failCmd t a.d r 4
  else t

def settleRuns (s : State) (d : DieId) (slot : Nat) : State :=
  (billStations s d slot 2).foldl (fun t a =>
    modQueue ((getQueue (getDie t d) a.place).started.foldl (fun t c => settleRun s t a c) t) d a.place (fun q => { q with runs := 0 })) s

/-! ### Phase 1 (Table 7.16) -/

/-- The streams that phase 1 stops: contexts without gating routes, and every stream under ABORT. -/
def stopSources (s : State) (d : DieId) (slot : Nat) (abort : Bool) : State :=
  (billStations s d slot 1).foldl (fun s a =>
    (List.range 6).foldl (fun s n =>
      let l : StreamLoc := { die := d, site := a.place, stream := n }
      if (abort || (gatingRoutes a.bill a.st (ctxOf n)).isEmpty) && decide ((getStream s l).st = .running) then stopStream s l else s) s) s

/-- An item at a chain or bridge port that the link has begun to carry: it is consumed when it is acknowledged (R352, R360). -/
def linkCarries (s : State) (a : StAt) (r : Nat) : Bool :=
  let x := stGet s a 0
  let i := rtDstPort a.bill r
  !x.halted && ((tabGet 0 x.sentItems i != 0 && (portOrder s a i).head? == some r) || (tabGet 0 x.sentLines i != 0 && (portNext s a i).any (fun e => e.1 == r)))

/-- A presented item that its station still consumes by itself. -/
def consumable (s : State) (a : StAt) (r : Nat) : Bool :=
  let x := stGet s a 0
  match routeHead s a r with
  | some (.tile h _ _) =>
    match a.kind with
    | 1 => !x.halted && decide ((getCell s { die := a.d, site := a.place }).c.fn.st = .on) && sitePresent (getDie s a.d) a.place
    | 5 => judgeItem a (getLink (getDie s a.d) a.place) r (fld h.toNat 11 0) != .wait
    | 4 => !x.halted && decide (x.begun = x.ended + 1) && decide (x.count < a.p 4 4)
    | 6 => !x.halted && decide (x.begun = x.ended + 1) && decide (x.count < mvNblk a)
    | 7 => !x.halted && decide (x.begun = x.ended + 1) && !x.work.isEmpty
    | 9 => linkCarries s a r
    | 10 => linkCarries s a r
    | _ => false
  | _ => linkCarries s a r

/-- Every line and token that has left its source has been delivered and consumed. -/
def routesEmpty (s : State) (d : DieId) (slot : Nat) : Bool :=
  let b := (getSlot (getDie s d) slot).bill
  (List.range (nRoutes b)).all (fun r =>
    (getRoute (getDie s d) slot r).flight.isEmpty && !consumable s { d := d, slot := slot, bill := b, st := rtDst b r } r)

/-- A grant into a cell no longer belongs to a route of the slot. -/
def dropGrantRoutes (s : State) (d : DieId) (slot : Nat) : State :=
  (billStations s d slot 1).foldl (fun s a => modC s { die := d, site := a.place } (fun k =>
    { k with grant := k.grant.map (fun g => if g.route.any (fun r => r.1 / 65536 == slot) then { g with route := none } else g) })) s

/-- The micro-batches that votes began are discarded with the Bill: they reach no verdict (R262). -/
def dropVotes (s : State) (d : DieId) (p : Nat) : State :=
  (List.range 256).foldl (fun s g =>
    if ownerEpoch s d g = some p then modEpoch s d g (fun e => { e with commit := e.commit.map (fun c => { c with mb := none }) })
    else s) s

/-- The end of phase 1: RUNs end, buckets and items are discarded, and the slot is LOADED (R215, R284). -/
def closeBill (s : State) (d : DieId) (p slot : Nat) (abort : Bool) : State :=
  let b := (getSlot (getDie s d) slot).bill
  let s := settleRuns s d slot
  let r := discardBuckets s d b
  let s := match r.2 with
    | some (place, tag) => if abort then r.1
      else logErr r.1 (some d) { cls := 6, code := 3, part := some p, unitKind := 3, unitSub := 5, unitIndex := place, detail := tag }
    | none => r.1
  let s := dropVotes (clearRuntime (dropGrantRoutes s d slot) d slot) d p
  modPart (modSlot s d slot (fun x => { x with st := .loaded })) d p (fun x => { x with active := none })

/-! ### Judging a select (R215, R217, R218) -/

def setSwitch (s : State) (d : DieId) (p : Nat) (w : Option Switch) : State := modPart s d p (fun x => { x with sw := w })

/-- The slot number that a select reports as ACTIVE. -/
def selectResult (w : Select) : Nat := w.target.getD 0xFF

/-- Checks 7 and 8 of the incoming slot: the status of the first that fails. DESIGN CHOICE (assumption 36): a slot that a load or an
unload took while the switch waited is not loaded. -/
def incomingStatus (s : State) (d : DieId) (p : Nat) (target : Option Nat) : Option Nat :=
  target.bind (fun t =>
    let b := (getSlot (getDie s d) t).bill
    if (getSlot (getDie s d) t).st ≠ .loaded then some 0x2A
    else if !check7 s d b then some 0x25 else if !check8 s d p b then some 0x26 else none)

/-- Phase 1 begins. -/
def beginClose (s : State) (d : DieId) (p : Nat) (w : Switch) : State :=
  let s := setSwitch s d p (some { w with phase := 2 })
  match w.out with
  | some slot => stopSources s d slot w.sel.abort
  | none => s

/-- A select whose target can be judged now runs, or completes at once. -/
def startSwitch (s : State) (d : DieId) (p : Nat) (w : Select) : State :=
  let out := (getPart (getDie s d) p).active
  if w.target = out then doneCmd s d w.cmd 0 (selectResult w)
  else
    let needs := !w.abort && (match out with
      | some slot => !quiescent s d slot
      | none => false)
    let leave := fun (s : State) => match out with
      | some slot => modSlot s d slot (fun x => { x with st := .leaving })
      | none => s
    if needs then leave (setSwitch s d p (some { sel := w, out := out, phase := 1, waited := true }))
    else match incomingStatus s d p w.target with
      | some k => failCmd s d w.cmd k
      | none => beginClose (leave s) d p { sel := w, out := out, phase := 1 }

/-- A select with ABORT replaces the one that waits for quiescence (Table 7.17). DESIGN CHOICE (assumption 36): where it fails check 7
or 8, it completes with that status, and the outgoing slot is ACTIVE again. -/
def abortSwitch (s : State) (d : DieId) (p : Nat) (w : Select) (out : Option Nat) : State :=
  match incomingStatus s d p w.target with
  | some k =>
    let s := setSwitch (failCmd s d w.cmd k) d p none
    match out with
    | some slot => modSlot s d slot (fun x => { x with st := .active })
    | none => s
  | none => beginClose s d p { sel := w, out := out, phase := 1, waited := true }

/-- The state of the slot that a select names; LOADED for NONE. -/
def targetState (s : State) (d : DieId) (target : Option Nat) : BslotSt :=
  match target with
  | some t => (getSlot (getDie s d) t).st
  | none => .loaded

/-- A held select is superseded by another (Table 7.17). -/
def dropHeld (s : State) (d : DieId) (p : Nat) : State :=
  match (getPart (getDie s d) p).held with
  | some h => modPart (failCmd s d h.cmd 0x2B) d p (fun x => { x with held := none })
  | none => s

def holdSelect (s : State) (d : DieId) (p : Nat) (w : Select) : State :=
  modPart (dropHeld s d p) d p (fun x => { x with held := some w })

/-- A BILL_SELECT is judged against the slot and the partition (Table 7.17). -/
def judgeSelect (s : State) (d : DieId) (p : Nat) (w : Select) : State :=
  let x := getPart (getDie s d) p
  if w.target.any (fun t => ownerSlot s d t != some p) then failCmd s d w.cmd 0x21
  else if targetState s d w.target = .empty then failCmd s d w.cmd 0x2A
  else match x.sw with
    | some cur =>
      if w.abort && decide (cur.phase = 1) && decide (targetState s d w.target ≠ .loading) then
        abortSwitch (dropHeld (failCmd s d cur.sel.cmd 0x2B) d p) d p w cur.out
      else holdSelect s d p w
    | none =>
      if x.held.isSome then holdSelect s d p w
      else if targetState s d w.target = .loading then setSwitch s d p (some { sel := w, out := x.active, phase := 0 })
      else startSwitch s d p w

/-- A select whose slot's load has ended is judged again; one that is held stays held (R218). -/
def resumeSelect (s : State) (d : DieId) (p : Nat) (w : Select) : State :=
  let s := setSwitch s d p none
  if w.target.any (fun t => ownerSlot s d t != some p) then failCmd s d w.cmd 0x21
  else if targetState s d w.target = .empty then failCmd s d w.cmd 0x2A
  else startSwitch s d p w

/-- A held select runs as soon as the switch has ended (R218). -/
def execHeldSelectStart (d : DieId) (part : Nat) (s : State) : Res :=
  let x := getPart (getDie s d) part
  match x.sw, x.held with
  | none, some w => nx (judgeSelect (modPart s d part (fun x => { x with held := none })) d part w)
  | _, _ => nx s

/-! ### The phases (Table 7.16) -/

/-- Quiescence: phase 1 begins. -/
def execSwitchQuiescence (d : DieId) (part : Nat) (s : State) : Res :=
  match (getPart (getDie s d) part).sw with
  | some w =>
    if w.phase = 1 && (match w.out with
      | some slot => quiescent s d slot
      | none => true) then nx (beginClose s d part w) else nx s
  | none => nx s

/-- Phase 1 ends: the outgoing Bill is closed, and the incoming slot is checked again before phase 2 (R217). -/
def execSwitchClose (d : DieId) (part : Nat) (s : State) : Res :=
  match (getPart (getDie s d) part).sw with
  | none => nx s
  | some w =>
    let empty := match w.out with
      | some slot => w.sel.abort || routesEmpty s d slot
      | none => true
    if decide (w.phase ≠ 2) || !empty then nx s
    else
      let sites := match w.out with
        | some slot => (billStations s d slot 1).map StAt.place
        | none => []
      let s := match w.out with
        | some slot => closeBill s d part slot w.sel.abort
        | none => s
      match incomingStatus s d part w.sel.target with
      | some k => nx (setSwitch (failCmd s d w.sel.cmd k) d part none)
      | none =>
        let s := match w.sel.target with
          | some t => modSlot s d t (fun x => { x with st := .entering })
          | none => s
        nx (setSwitch s d part (some { w with phase := 3, outCells := sites }))

/-- Phase 2: the cells of both Bills are re-initialised; a select of NONE ends here. -/
def execSwitchReset (d : DieId) (part : Nat) (s : State) : Res :=
  match (getPart (getDie s d) part).sw with
  | none => nx s
  | some w =>
    if w.phase ≠ 3 then nx s
    else
      let ins := match w.sel.target with
        | some t => (billStations s d t 1).map StAt.place
        | none => []
      let s := (w.outCells ++ ins).eraseDups.foldl (fun s n => initCell s { die := d, site := n }) s
      match w.sel.target with
      | none => nx (setSwitch (doneCmd s d w.sel.cmd 0 0xFF) d part none)
      | some _ => nx (setSwitch s d part (some { w with phase := 4 }))

/-- The Floor's routes hold their credits (R193). -/
def loadCredits (s : State) (d : DieId) (slot : Nat) : State :=
  let b := (getSlot (getDie s d) slot).bill
  (List.range (nRoutes b)).foldl (fun s r => modRoute s d slot r (fun _ => { credits := rtCredits b r })) (clearRuntime s d slot)

/-- Phase 3: records and cell parameters are written. -/
def execSwitchConfigure (d : DieId) (part : Nat) (s : State) : Res :=
  match (getPart (getDie s d) part).sw with
  | none => nx s
  | some w =>
    match w.sel.target with
    | none => nx s
    | some t =>
      if w.phase ≠ 4 then nx s
      else
        let s := (billStations s d t 1).foldl applyParams (loadCredits s d t)
        nx (setSwitch s d part (some { w with phase := 5 }))

/-- Phase 4: the programmable tables are loaded. -/
def execSwitchTables (d : DieId) (part : Nat) (s : State) : Res :=
  match (getPart (getDie s d) part).sw with
  | none => nx s
  | some w =>
    match w.sel.target with
    | none => nx s
    | some t =>
      if w.phase ≠ 5 then nx s
      else nx (setSwitch ((billStations s d t 1).foldl applyTables s) d part (some { w with phase := 6 }))

/-- A chain port's grants start from RXSHARE, and its counts of lines sent from 0 (R360). -/
def openChain (s : State) (a : StAt) : State :=
  let s := (List.range (stNin a.bill a.st)).foldl (fun s i =>
    modPeer s a.d (cpIn a i).1 (fun p => { p with
      linesSent := tabSet 0 p.linesSent (cpIn a i).2 0, credTotal := tabSet 0 p.credTotal (cpIn a i).2 0 })) s
  (List.range (stNout a.bill a.st)).foldl (fun s o =>
    modPeer s a.d (cpOut a o).1 (fun p => { p with freed := tabSet 0 p.freed o (cpOut a o).2 })) s

/-- Phase 5: the incoming Bill is ACTIVE and its sources run. -/
def openBill (s : State) (d : DieId) (p t : Nat) : State :=
  let s := modPart (modSlot s d t (fun x => { x with st := .active })) d p (fun x => { x with active := some t })
  let s := (billStations s d t 2).foldl (fun s a => modQueue s d a.place (fun q => { q with runs := 0 })) s
  let s := (billStations s d t 9).foldl openChain s
  (billStations s d t 1).foldl beginUngated s

def execSwitchOpen (d : DieId) (part : Nat) (s : State) : Res :=
  match (getPart (getDie s d) part).sw with
  | none => nx s
  | some w =>
    match w.sel.target with
    | none => nx s
    | some t =>
      if w.phase ≠ 6 then nx s
      else nx (openBill (setSwitch (doneCmd s d w.sel.cmd 0 t) d part none) d part t)

/-! ### The commands (R212, R213, R239) -/

/-- A started command of an opcode that has not yet run. -/
def freshCmd (s : State) (d : DieId) (q cseq op : Nat) : Option Started :=
  match findStarted (cmdQueue s d q) cseq with
  | some c => if cmdOp c.word = op ∧ c.phase = .fresh then some c else none
  | none => none

/-- The command waits for something that ends later. -/
def waitCmd (s : State) (d : DieId) (r : CmdRef) : State := modStarted s d r.q r.cseq (fun c => { c with phase := .wait })

/-- A held select names the slot (Table 7.17). -/
def slotNamed (s : State) (d : DieId) (p slot : Nat) : Bool :=
  (getPart (getDie s d) p).held.any (fun h => h.target == some slot)

/-- BILL_LOAD at its start. DESIGN CHOICE (assumption 87): LAST_STATUS keeps its value where the command is refused, since no load
of the slot has run. -/
def execBillLoad (d : DieId) (q cseq : Nat) (s : State) : Res :=
  match freshCmd s d q cseq 0x10 with
  | none => nx s
  | some c =>
    let r : CmdRef := { q := q, cseq := cseq }
    let p := queuePart s d q
    let slot := cmdF c.word 0x10 1
    let x := getSlot (getDie s d) slot
    if ownerSlot s d slot ≠ some p then nx (failCmd s d r 0x21)
    else if (x.st ≠ .empty ∧ x.st ≠ .loaded) ∨ slotNamed s d p slot then nx (failCmd s d r 0x29)
    else
      let s := modSlot (waitCmd s d r) d slot (fun x => { x with st := .loading, bill := [], meas := 0, imgMeas := [] })
      nx (modDie s d (fun y => { y with loads := y.loads ++ [{ slot := slot, part := p, va := cmdF c.word 0x18 8, cmd := r }] }))

def execBillUnload (d : DieId) (q cseq : Nat) (s : State) : Res :=
  match freshCmd s d q cseq 0x11 with
  | none => nx s
  | some c =>
    let r : CmdRef := { q := q, cseq := cseq }
    let p := queuePart s d q
    let slot := cmdF c.word 0x10 1
    let x := getSlot (getDie s d) slot
    if ownerSlot s d slot ≠ some p then nx (failCmd s d r 0x02)
    else if x.st = .empty then nx (doneCmd s d r 0 0)
    else if x.st ≠ .loaded ∨ slotNamed s d p slot then nx (failCmd s d r 0x29)
    else nx (modSlot (doneCmd s d r 0 0) d slot (fun x => { st := .empty, lastStatus := x.lastStatus }))

def execBillSelect (d : DieId) (q cseq : Nat) (s : State) : Res :=
  match freshCmd s d q cseq 0x12 with
  | none => nx s
  | some c =>
    let r : CmdRef := { q := q, cseq := cseq }
    let slot := cmdF c.word 0x10 1
    let p := queuePart s d q
    let s := if ownerSlot s d slot = some p then activatePart s p else s
    nx (judgeSelect (waitCmd s d r) d p
      { target := if slot = 0xFF then none else some slot, abort := bit (cmdF c.word 0x11 1) 0, cmd := r })

/-! ### The loader (R204, R208, R212) -/

/-- The oldest accepted load. -/
def modLoad (s : State) (d : DieId) (f : Load → Load) : State :=
  modDie s d (fun x => { x with loads := match x.loads with
    | l :: rest => f l :: rest
    | [] => [] })

/-- The load that runs. -/
def runningLoad (s : State) (d : DieId) : Option Load := ((getDie s d).loads.head?).filter Load.running

def loadAsked (s : State) (d : DieId) : Nat := ((runningLoad s d).map Load.asked).getD 0
def loadGot (s : State) (d : DieId) : Nat := ((runningLoad s d).map Load.got).getD 0
def loadPart (s : State) (d : DieId) : Nat := ((runningLoad s d).map Load.part).getD 0

/-- The memory gate that the loader reads through. DESIGN CHOICE (assumption 97): the first of the partition's groups. -/
def gateOfPart (s : State) (d : DieId) (p : Nat) : Nat := (bitsSet 16 (layoutDie s p d).gateGroups).headD 0
def loadGate (s : State) (d : DieId) : Nat := gateOfPart s d (loadPart s d)

/-- The loader takes the oldest accepted load, and asks for its transfers. -/
def execBillLoadBegin (d : DieId) (s : State) : Res :=
  match (getDie s d).loads with
  | l :: _ =>
    if l.running then nx s
    else nx (askTransfer (modLoad s d (fun l => { l with running := true })) d (gateOfPart s d l.part) .loader)
  | [] => nx s

/-- The bytes that the loader reads: LENGTH where LENGTH is in range, else the header; or what its read of the header gives. -/
def loadSpan (s : State) (d : DieId) (p va : Nat) : MemR Nat :=
  match readVA s d (gateCaches s d (gateOfPart s d p)) p va 256 with
  | .ok h =>
    let n := bLength h
    .ok (if 0x100 ≤ n ∧ n ≤ 0x400000 then n else 256)
  | .fault k => .fault k
  | .ask q => .ask q

/-- The Bill as the loader reads it. -/
def readBill (s : State) (d : DieId) (p va : Nat) : MemR (List Byte) :=
  match loadSpan s d p va with
  | .ok n => readVA s d (gateCaches s d (gateOfPart s d p)) p va n
  | .fault k => .fault k
  | .ask q => .ask q

/-- The loader's transfers (R307): what LENGTH gives is known once the first has arrived. -/
def loadTransfers (s : State) (d : DieId) (l : Load) : List (Nat × Nat) :=
  let ts := rangeTransfers l.va (match loadSpan s d l.part l.va with
    | .ok n => n
    | _ => 256)
  if l.got = 0 then ts.take 1 else ts

/-- Transfer `i` of the load that runs. -/
def loadTransfer (s : State) (d : DieId) (i : Nat) : Option (Nat × Nat) := (runningLoad s d).bind (fun l => (loadTransfers s d l)[i]?)

/-- Every transfer of a load has arrived. -/
def loadFetched (s : State) (d : DieId) (l : Load) : Bool := decide (l.got ≠ 0) && decide ((loadTransfers s d l).length ≤ l.got)

/-- The 64-bit words of an image. -/
def imageWords (b : List Byte) (i : Nat) : List W64 :=
  (List.range (imLen b i / 8)).map (fun k => BitVec.ofNat 64 (bf b (secOff b 3 + imOff b i + 8 * k) 8))

/-- The images of a cell's streams written into its region, each once, one after another. -/
def placeImages (s : State) (a : StAt) : State :=
  modM s { die := a.d, site := a.place } (fun m =>
    let m := { m with
      iregion := tabKeep (fun k => k / 2048 != a.slot) m.iregion, imageAt := tabKeep (fun k => k / 1024 != a.slot) m.imageAt }
    ((cellImages a.bill a.st).foldl (fun acc i =>
      let ws := imageWords a.bill i
      let m := acc.1
      ({ m with
          iregion := tabWrite 0 m.iregion (a.slot * 2048 + acc.2) ws
          imageAt := tabSet (0, 0) m.imageAt (a.slot * 1024 + i) (acc.2, ws.length) }, acc.2 + ws.length)) (m, 0)).1)

/-- A select waits for the load of this slot. -/
def selectWaiting (s : State) (d : DieId) (p slot : Nat) : Option Select :=
  match (getPart (getDie s d) p).sw with
  | some w => if w.phase = 0 ∧ w.sel.target = some slot then some w.sel else none
  | none => none

/-- What a slot holds after a load that passed: the Bill, its measurement and its images' (R204). -/
def heldBill (b : List Byte) : BillSlot := {
  st := .loaded, bill := b, meas := digest512 b
  imgMeas := (List.range (nImages b)).foldl (fun t i =>
    tabSet 0 t i (digest512 ((b.drop (secOff b 3 + imOff b i)).take (imLen b i)))) [] }

/-- The load ends with a status: the slot is LOADED or EMPTY, and a select that waits for it is judged. -/
def endLoad (s : State) (d : DieId) (l : Load) (b : List Byte) (status result : Nat) : State :=
  let s := doneCmd (modDie s d (fun x => { x with loads := x.loads.tail })) d l.cmd status result
  let s := modSlot s d l.slot (fun _ => if status = 0 then heldBill b else { st := .empty, lastStatus := status })
  let s := if status = 0 then (billStations s d l.slot 1).foldl placeImages s else s
  match selectWaiting s d l.part l.slot with
  | some w => resumeSelect s d l.part w
  | none => s

/-- The controller's record where the Bill's bytes are uncorrectable (R296). -/
def recLoad (s : State) (d : DieId) (l : Load) (k : Nat) : State :=
  if k ≠ kUncorr then s
  else
    let cs := gateCaches s d (gateOfPart s d l.part)
    let n := match loadSpan s d l.part l.va with
      | .ok n => n
      | _ => 256
    let cmd := (findStarted (cmdQueue s d l.cmd.q) l.cmd.cseq).elim 0 (cmdDetail d l.cmd.q)
    recUncorr s d (some l.part) ((uncorrAt s d cs l.part l.va n false).getD 0) 4 0 l.cmd.q 0 0 cmd

/-- The loader finishes (R212), once its transfers have arrived: the first check that fails gives the status; a read that faults gives
one that the spec does not state (assumption 20), and no record but the controller's (R296, R456). -/
def execBillLoadComplete (d : DieId) (s : State) : Res :=
  match (getDie s d).loads with
  | [] => nx s
  | l :: _ =>
    if !l.running || !loadFetched s d l then nx s
    else match readBill s d l.part l.va with
      | .fault k =>
        let f := drawFree (recLoad s d l k) 8
        let r := drawFree f.2 32
        nx (endLoad r.2 d l [] (1 + f.1 % 255) r.1)
      | .ask q => nx (askPeers s d l.part q)
      | .ok b =>
        let f := drawFree (dropAnswers s d) 32
        if billStatus s d l.part b = 0 then nx (endLoad (dropAnswers s d) d l b 0 (bLength b))
        else nx (endLoad f.2 d l b (billStatus s d l.part b) f.1)

end Sys2Proof.Machine
end

