-- ==== Sys2Proof/Machine/CmdQueue.lean ====
section
/-! DEFINITION. Command queues: the aperture, starts, completion records, ring headers, interrupts, halts, RESUME, FLUSH and
enables (R231 to R251), also for the flash command aperture (R331, R341). -/

namespace Sys2Proof.Machine

/-! ### The completion ring (R245, R246, R247) -/

/-- The partition of a queue; none for the flash command aperture. -/
def cmdPart (s : State) (d : DieId) (q : Nat) : Option Nat := if q = flQ then none else ownerQueue s d q

/-- UNIT_INDEX of a queue (Table 18.3). -/
def queueIndex (q : Nat) : Nat := if q = flQ then 0xFF else q

/-- The record of an event of a queue (Table 18.2, class QUEUE). -/
def recQueue (s : State) (d : DieId) (q code addrKind addr : Nat) : State :=
  logErr s (if q = flQ then none else some d) {
    cls := 4, code := code, part := cmdPart s d q, unitKind := 4, unitIndex := queueIndex q, addrKind := addrKind, addr := addr }

/-- IRQ_EN of a queue, or of the flash store (R247, R341). -/
def queueIrqEn (s : State) (d : DieId) (q : Nat) : Bool := if q = flQ then s.hd.flash.irqEn else (cmdQueue s d q).irqEn

def queueIrq (s : State) (d : DieId) (q : Nat) : State :=
  let x := cmdQueue s d q
  if queueIrqEn s d q then sendIrq s x.irqAddrNow x.irqEiidNow else s

/-- Sets HALTED with a cause, and sends the interrupt when it was clear (R247). -/
def setHalted (s : State) (d : DieId) (q cause : Nat) : State :=
  let was := (cmdQueue s d q).halted
  let s := modCmdQueue s d q (fun x => { x with halted := true, cause := cause })
  if was then s else queueIrq s d q

/-- A write into the ring at a byte offset. One to HBM whose controllers change their rate waits, and asks nothing (R300). -/
def ringWrite (s : State) (d : DieId) (q off : Nat) (bs : List Byte) : MemR State :=
  let at_ := (cmdQueue s d q).ringNow * 4096 + off
  if q = flQ then
    if hbmStopped (getDie s (hpaDie at_)) then .ask []
    else match hostWrite s at_ bs with
      | (.ok _, s1) => .ok s1
      | _ => .fault kAccess
  else
    let p := queuePart s d q
    let cs := gateCaches s d (q % 16)
    if rangeHeld s d cs p at_ bs.length true then .ask []
    else match writeVA s d cs p at_ bs, writePlaces s d cs p at_ bs.length with
      | .ok s1, .ok pl => .ok (dropWritten s1 d pl)
      | r, _ => r

/-- QUEUE_ST[7:0], or FL_QST[7:0]. -/
def queueStByte (x : Queue) (fl : Bool) : Nat :=
  fstateCode x.fn.st + 4 * b2n (x.fn.pend && !fl) + 8 * b2n x.halted + 16 * (if x.halted then x.cause else 0) + 64 * b2n x.actIgnored

/-- The state of the function that a queue follows. -/
def queueFn (s : State) (d : DieId) (q : Nat) : Func := if q = flQ then s.hd.flash.fn else (getQueue (getDie s d) q).fn

/-- The 64 bytes of the ring header (Table 8.11). -/
def ringHeader (x : Queue) (fl : Bool) (time : Nat) : List Byte :=
  leBytes 2 x.free ++ leBytes 1 (queueStByte x fl) ++ leBytes 1 0 ++ leBytes 4 x.accSeq.toNat ++ leBytes 4 x.startSeq.toNat
    ++ leBytes 4 x.rseqLast.toNat ++ leBytes 4 x.hdrDropped.toNat ++ leBytes 8 time ++ List.replicate 36 0

/-- A ring write at a byte offset that faults halts the queue with a record. -/
def ringFault (s : State) (d : DieId) (q off : Nat) : State :=
  setHalted (recQueue s d q 4 (if q = flQ then 4 else 2) ((cmdQueue s d q).ringNow * 4096 + off)) d q 2

/-- The next RSEQ, skipping 0. -/
def nextRseq (r : W32) : W32 := if r + 1 = 0 then 1 else r + 1

/-- A completion record (Table 8.10). -/
def recordBytes (d : DieId) (q : Nat) (c : Started) (rseq : W32) (status result time : Nat) : List Byte :=
  leBytes 4 rseq.toNat ++ leBytes 4 c.cseq ++ leBytes 8 (cmdTag c.word) ++ leBytes 1 status ++ leBytes 1 (cmdOp c.word)
    ++ leBytes 1 (b2n c.errlog) ++ leBytes 1 (qidByte d q) ++ leBytes 4 result ++ leBytes 8 time

/-- A write that is due: its state, and whether it was written or faulted, with the queue halted; none while it waits. -/
def tryRing (s : State) (d : DieId) (q off : Nat) (bs : List Byte) : State × Option Bool :=
  match ringWrite s d q off bs with
  | .ok s1 => (s1, some true)
  | .fault _ => (ringFault s d q off, some false)
  | .ask r => (askPeers s d (queuePart s d q) r, none)

/-- The header as it is now. -/
def tryHeader (s : State) (d : DieId) (q : Nat) : State × Option Bool :=
  tryRing s d q 0 (ringHeader { cmdQueue s d q with fn := queueFn s d q } (q == flQ) (timeOf s (if q = flQ then none else some d)))

/-- The next write into the ring: the oldest record, the header that follows it, with its command's interrupt once that is written
(R247), or a header that is due; false where there is none or it waits. -/
def ringTake (s : State) (d : DieId) (q : Nat) : State × Bool :=
  let x := cmdQueue s d q
  match x.ringWait with
  | [] =>
    if !x.hdrDue then (s, false)
    else match tryHeader s d q with
      | (s1, some _) => (modCmdQueue s1 d q (fun x => { x with hdrDue := false }), true)
      | (s1, none) => (s1, false)
  | r :: rest =>
    if r.written then
      match tryHeader s d q with
      | (s1, some ok) =>
        let s2 := modCmdQueue s1 d q (fun x => { x with ringWait := rest, hdrDue := false })
        (if ok && bit (cmdFlags r.cmd.word) 0 then queueIrq s2 d q else s2, true)
      | (s1, none) => (s1, false)
    else
      match tryRing s d q (64 + 32 * (x.nextRseq.toNat % 2 ^ (x.logNNow + 6))) (recordBytes d q r.cmd x.nextRseq r.status r.result r.time) with
      | (s1, some true) => (modCmdQueue s1 d q (fun x => { x with
          ringWait := { r with written := true } :: rest, rseqLast := x.nextRseq, nextRseq := nextRseq x.nextRseq }), true)
      | (s1, some false) => (modCmdQueue s1 d q (fun x => { x with ringWait := rest, hdrDue := true }), true)
      | (s1, none) => (s1, false)

/-- Writes into the ring in order, until one waits; by fuel. -/
def ringRun (d : DieId) (q : Nat) : Nat → State → State
  | 0, s => s
  | n + 1, s => let r := ringTake s d q; if r.2 then ringRun d q n r.1 else r.1

/-- What the ring of a queue can take now: each record that waits takes two writes. -/
def runRing (s : State) (d : DieId) (q : Nat) : State := ringRun d q (2 * (cmdQueue s d q).ringWait.length + 2) s

/-- What the rings of a die can take now. -/
def runRings (s : State) (d : DieId) : State :=
  runRing ((getDie s d).queues.foldl (fun s e => runRing s d e.1) s) d flQ

/-- Writes the ring header of a queue that has been enabled. -/
def writeHeader (s : State) (d : DieId) (q : Nat) : State :=
  if !(cmdQueue s d q).ringOn then s else runRing (modCmdQueue s d q (fun x => { x with hdrDue := true })) d q

/-- The header is written again where a change of the queue changes one of its fields (R246). -/
def headerAfter (s : State) (d : DieId) (q : Nat) (t : State) : State :=
  let f := fun (s : State) => ringHeader { cmdQueue s d q with fn := queueFn s d q } (q == flQ) 0
  if f s = f t then t else writeHeader t d q

/-- A halt for a write (R233). -/
def haltQueue (s : State) (d : DieId) (q cause : Nat) : State := writeHeader (setHalted (recQueue s d q (cause + 1) 0 0) d q cause) d q

/-- The reads that commands of a queue have asked of the flash store end with them: with one command, or with all. -/
def dropRuns (s : State) (d : DieId) (q : Nat) (which : Nat → Bool) : State :=
  let mine := fun (x : FlRun) => match x.by_ with
    | .cmd e p cseq => e == d && p == q && which cseq
    | _ => false
  let s := (s.hd.flash.queue.filter mine).foldl (fun s x => dropReads s x.first x.count) s
  modFlash s (fun x => { x with
    queue := x.queue.filter (fun y => !mine y), wbuf := if q = flQ then tabKeep (fun k => !which k) x.wbuf else x.wbuf })

/-- Writes the record of a command that completes, unless QUIET with OK, then the header, then the interrupt. -/
def completeRecord (s : State) (d : DieId) (q : Nat) (c : Started) (status result : Nat) : State :=
  let s := dropRuns s d q (fun n => n == c.cseq)
  let s := if q = flQ then s
    else
      let s := bump s d (setQueueSet q) 2 1
      if status = 0 then s else bump s d (setQueueSet q) 3 1
  if bit (cmdFlags c.word) 2 && status == 0 then s
  else
    let time := timeOf s (if q = flQ then none else some d)
    runRing (modCmdQueue s d q (fun x => { x with ringWait := x.ringWait ++ [{ cmd := c, status := status, result := result, time := time }] })) d q

/-! ### The aperture (R232, R233) -/

/-- A write is dropped. -/
def dropWrite (s : State) (d : DieId) (q : Nat) : State :=
  modCmdQueue s d q (fun x => { x with
    dropped := BitVec.ofNat 32 (satAdd 32 x.dropped.toNat 1), hdrDropped := BitVec.ofNat 32 (satAdd 32 x.hdrDropped.toNat 1) })

/-- The outcome of a write to an aperture (Table 8.7). -/
def judgeWrite (s : State) (d : DieId) (q off : Nat) (data : List Byte) : State :=
  let x := cmdQueue s d q
  let good := data.length == 64 && off % 64 == 0
  if (queueFn s d q).st ≠ .on then
    let s := dropWrite s d q
    if x.offReported then writeHeader s d q
    else writeHeader (recQueue (modCmdQueue s d q (fun x => { x with offReported := true })) d q 3 0 0) d q
  else if x.halted then writeHeader (dropWrite s d q) d q
  else if !good then haltQueue (dropWrite s d q) d q 1
  else if x.free = 0 then haltQueue (dropWrite s d q) d q 0
  else writeHeader (modCmdQueue s d q (fun x => { x with
    entries := x.entries ++ [leNat data], accSeq := x.accSeq + 1, free := x.free - 1 })) d q

/-- A write to the aperture of a queue. -/
def execCommandWrite (agent : Nat) (d : DieId) (q off : Nat) (data : List Byte) (s : State) : Res :=
  if reachesQueue s agent d q && decide (q < 64) && decide (off < 4096) then nx (judgeWrite s d q off data)
  else nx (emit s (.busError agent))

/-! ### Starting (R234, R236, R238) -/

/-- Every byte of a command that its row of Table 8.9 does not name is zero: fields as offset and size. -/
def bodyReserved (w : Nat) (fields : List (Nat × Nat)) : Bool :=
  (List.range 48).all (fun i => fields.any (fun f => decide (f.1 ≤ 0x10 + i) && decide (0x10 + i < f.1 + f.2)) || cmdF w (0x10 + i) 1 == 0)

/-- The body fields of an opcode (Table 8.9); none for a reserved opcode. -/
def bodyFields : Nat → Option (List (Nat × Nat))
  | 0x00 => some []
  | 0x01 => some [(0x10, 8)]
  | 0x10 => some [(0x10, 1), (0x18, 8)]
  | 0x11 => some [(0x10, 1)]
  | 0x12 => some [(0x10, 1), (0x11, 1)]
  | 0x20 => some [(0x10, 4), (0x14, 4), (0x18, 8), (0x20, 8)]
  | 0x21 => some [(0x10, 4), (0x14, 4), (0x18, 8)]
  | 0x22 => some [(0x10, 4), (0x14, 4)]
  | 0x30 => some [(0x10, 4), (0x14, 1), (0x15, 1), (0x18, 8), (0x20, 8), (0x28, 8)]
  | 0x40 => some [(0x10, 1), (0x11, 1)]
  | 0x41 => some [(0x10, 1)]
  | 0x50 => some [(0x10, 4), (0x14, 4)]
  | 0x60 => some [(0x10, 2), (0x12, 1), (0x13, 1)]
  | _ => none

/-- Field values inside their ranges (Table 8.9, R241, R242). -/
def bodyRanges (w : Nat) : Bool :=
  match cmdOp w with
  | 0x10 => decide (cmdF w 0x10 1 ≤ 7) && cmdF w 0x18 8 % 64 == 0
  | 0x11 => decide (cmdF w 0x10 1 ≤ 7)
  | 0x12 => (decide (cmdF w 0x10 1 ≤ 7) || cmdF w 0x10 1 == 0xFF) && decide (cmdF w 0x11 1 ≤ 1)
  | 0x20 => decide (1 ≤ cmdF w 0x14 4) && decide (cmdF w 0x14 4 ≤ 4096) && cmdF w 0x18 8 % 64 == 0 && cmdF w 0x20 8 % 4 == 0
  | 0x21 => decide (1 ≤ cmdF w 0x14 4) && decide (cmdF w 0x14 4 ≤ 4096) && cmdF w 0x18 8 % 64 == 0
  | 0x22 => decide (1 ≤ cmdF w 0x14 4) && decide (cmdF w 0x14 4 ≤ 131072)
  | 0x30 => decide (cmdF w 0x14 1 ≤ 1) && decide (cmdF w 0x15 1 ≤ 1) && cmdF w 0x20 8 % 64 == 0 && decide (64 ≤ cmdF w 0x20 8)
      && cmdF w 0x28 8 % 64 == 0 && (cmdF w 0x14 1 == 0 || cmdF w 0x18 8 % 65536 == 0)
  | 0x40 => decide (cmdF w 0x11 1 ≤ 63) || cmdF w 0x11 1 == 0xFF
  | 0x60 =>
    let st := cmdF w 0x12 1
    let act := cmdF w 0x13 1
    decide (cmdF w 0x10 2 ≤ 271) && decide (fld st 1 0 ≤ 2) && fld st 7 3 == 0 && decide (1 ≤ act) && decide (act ≤ 7)
      && (decide (act < 6) || !bit st 2)
  | _ => true

/-- The header's reserved fields are zero (Table 8.8). -/
def headerOk (w : Nat) : Bool := fld (cmdFlags w) 7 3 == 0 && cmdF w 2 6 == 0

/-- The command is well formed (R236). -/
def cmdValid (w : Nat) : Bool :=
  headerOk w && (match bodyFields (cmdOp w) with
    | some fs => bodyReserved w fs && bodyRanges w
    | none => false)

/-- Later commands wait for the completion of this one (Table 8.9). -/
def waitsCompletion (op : Nat) : Bool := op == 0x12 || op == 0x40 || op == 0x41 || op == 0x50

/-- The QUEUE_FETCH station of a queue in its partition's active Bill. -/
def fetchStation (s : State) (d : DieId) (q : Nat) : Option StAt :=
  (ownerQueue s d q).bind (fun p => (activeBill (getDie s d) p).bind (fun x =>
    (findStation x.2 2 q).map (fun st => { d := d, slot := x.1, bill := x.2, st := st })))

/-- A switch of the queue's partition is under way: RUNs wait (R215, R238). -/
def switching (s : State) (d : DieId) (q : Nat) : Bool :=
  (ownerQueue s d q).any (fun p => (getPart (getDie s d) p).sw.any (fun w => decide (1 ≤ w.phase)))

/-- The station can take a RUN: a route can take its token at once, or there is no route. -/
def canTake (s : State) (a : StAt) (q : Queue) : Bool :=
  let rs := routesFrom a.bill a.st
  q.started.all (fun c => decide (cmdOp c.word ≠ 1) || decide (c.phase ≠ .fresh))
    && (rs.isEmpty || rs.any (fun r =>
      let x := getRoute (getDie s a.d) a.slot r
      x.outq.isEmpty && decide (1 ≤ x.credits)))

/-- The next command of a queue may start. -/
def mayStart (s : State) (d : DieId) (q w : Nat) : Bool :=
  let x := cmdQueue s d q
  let fn := queueFn s d q
  (decide (fn.st = .on) || decide (fn.st = .draining)) && !x.halted
    && x.started.all (fun c => q == flQ || !waitsCompletion (cmdOp c.word) || !cmdValid c.word)
    && (!bit (cmdFlags w) 1 || x.started.isEmpty)
    && (q == flQ || decide (cmdOp w ≠ 1) || !cmdValid w || (!switching s d q
      && (match fetchStation s d q with
        | some a => canTake s a x
        | none => true)))

/-- The command leaves its entry. -/
def startHead (s : State) (d : DieId) (q w : Nat) (rest : List Nat) (c : Started) : State :=
  let s := modCmdQueue s d q (fun x => { x with
    entries := rest, free := x.free + 1, startSeq := x.startSeq + 1, started := x.started ++ [{ c with cseq := x.startSeq.toNat, word := w }] })
  writeHeader (if q = flQ then s else bump s d (setQueueSet q) 1 1) d q

/-- The body fields of a flash command (Table 12.6), and their ranges (R332). -/
def flFields : Nat → Option (List (Nat × Nat))
  | 0x01 => some [(0x10, 4), (0x14, 4), (0x18, 8)]
  | 0x02 => some [(0x10, 4), (0x14, 4), (0x18, 8)]
  | 0x03 => some [(0x10, 4), (0x14, 4)]
  | 0x04 => some []
  | _ => none

def flValid (w : Nat) : Bool :=
  headerOk w && (match flFields (cmdOp w) with
    | some fs => bodyReserved w fs && (cmdOp w == 4
        || (decide (1 ≤ cmdF w 0x14 4) && decide (cmdF w 0x14 4 ≤ 65536) && (cmdOp w == 3 || cmdF w 0x18 8 % 256 == 0)))
    | none => false)

/-- The next flash command starts (R332, R341); one that is not well formed is done at once. -/
def flStart (s : State) : State :=
  let x := s.hd.flash.q
  match x.entries with
  | [] => s
  | w :: rest =>
    if !mayStart s .cd0 flQ w then s
    else
      let s1 := startHead s .cd0 flQ w rest { cseq := 0, word := w }
      if flValid w then s1 else failCmd s1 .cd0 { q := flQ, cseq := x.startSeq.toNat } 1

/-! ### The order of service (R332, R337, Table 12.5) -/

/-- First unit and COUNT of a flash command. -/
def flUnit (c : Started) : Nat := cmdF c.word 0x10 4
def flCount (c : Started) : Nat := cmdF c.word 0x14 4

/-- An earlier WRITE or TRIM still in progress names a unit of the command (R332). -/
def flBlocked (s : State) (c : Started) : Bool :=
  (s.hd.flash.q.started.takeWhile (fun x => x.cseq != c.cseq)).any (fun x =>
    (cmdOp x.word == 2 || cmdOp x.word == 3) && cmdOp c.word != 4
      && decide (flUnit x < flUnit c + flCount c) && decide (flUnit c < flUnit x + flCount x))

/-- The one that asked for a run still waits for it. -/
def runLive (s : State) (x : FlRun) : Bool :=
  match x.by_ with
  | .reader d slot station => (getStation (getDie s d) slot station 0).units.any (fun u => u.1 == x.first && u.2.1 == 0)
  | .cmd d q cseq => match findStarted (cmdQueue s d q) cseq with
    | none => false
    | some c => (c.phase == .fresh || c.phase == .wait) && (q != flQ || !flBlocked s c)

def liveRuns (s : State) : List FlRun := s.hd.flash.queue.filter (runLive s)

/-- A read joins the queue. -/
def askRun (s : State) (x : FlRun) : State :=
  let live := liveRuns s
  modFlash s (fun f => { f with queue := live ++ [x] })

/-- The oldest read of a package. -/
def runHead (s : State) (pkg : Nat) : Option FlRun := (liveRuns s).find? (fun x => runMeets x.first x.count pkg)

/-- No read of levels 1 to 3 waits at the package. -/
def noReads (s : State) (pkg : Nat) : Bool := (runHead s pkg).isNone

/-- A command's run of units is the oldest read at every package that it meets. -/
def runTurn (s : State) (d : DieId) (q cseq first count : Nat) : Bool :=
  (List.range 16).all (fun pkg => !runMeets first count pkg || (runHead s pkg).all (fun x => x.by_ == .cmd d q cseq))

/-- A COPY or READ asks for its units. -/
def askFor (s : State) (d : DieId) (q cseq first count : Nat) : State :=
  askRun s { first := first, count := count, by_ := .cmd d q cseq }

/-! ### Handles at the start of a command (R222, R223, R241, R243) -/

/-- A command that has captured an entry goes on. -/
def captured (s : State) (d : DieId) (r : CmdRef) (e : Nat) : State :=
  modStarted s d r.q r.cseq (fun c => { c with phase := .wait, ent := e })

/-- First unit and number of units of a COPY from flash. -/
def copyUnits (w : Nat) : Nat × Nat := (cmdF w 0x18 8 / 65536, ceilDiv (cmdF w 0x20 8) 65536)

/-- The capture of a COPY's destination: it waits at its check while the entry's group commits. One from flash asks for its units. -/
def copyCapture (s : State) (d : DieId) (r : CmdRef) (w : Nat) : State :=
  match handleEnt s d (queuePart s d r.q) (cmdF w 0x10 4) with
  | none => failCmd s d r 0x10
  | some e =>
    if cmdF w 0x15 1 = 1 ∧ !eDual e then failCmd s d r 1
    else if captureWaits s d e then s
    else if cmdF w 0x14 1 = 1 then askFor (captured s d r e) d r.q r.cseq (copyUnits w).1 (copyUnits w).2
    else captured s d r e

/-- V has been reached at a VCOUNT (R161, R243). -/
def versionTest (s : State) (d : DieId) (r : CmdRef) (w vc : Nat) : State :=
  if versionReached vc (cmdF w 0x14 4) then doneCmd s d r 0 vc else s

/-- The capture of a VERSION_WAIT, with its first test. -/
def waitCapture (s : State) (d : DieId) (r : CmdRef) (w : Nat) : State :=
  match handleEnt s d (queuePart s d r.q) (cmdF w 0x10 4) with
  | none => failCmd s d r 0x10
  | some e => versionTest (captured s d r e) d r w (eVcount e)

/-- What a command does at its start beside leaving its entry: the check of a handle. -/
def startCheck (s : State) (d : DieId) (r : CmdRef) (w : Nat) : State :=
  if cmdOp w = 0x30 then copyCapture s d r w else if cmdOp w = 0x50 then waitCapture s d r w else s

/-- The next command of a queue starts; queue 64 names the flash command aperture. One that is not well formed, a NOP, or a RUN
without a station is done at once; a handle is checked. -/
def execCommandStart (d : DieId) (q : Nat) (s : State) : Res :=
  if q = flQ then nx (flStart s)
  else if flQ < q then nx s
  else
    let x := getQueue (getDie s d) q
    match x.entries with
    | [] => nx s
    | w :: rest =>
      if !mayStart s d q w then nx s
      else
        let r : CmdRef := { q := q, cseq := x.startSeq.toNat }
        let s1 := startHead s d q w rest { cseq := 0, word := w }
        if !cmdValid w then nx (failCmd s1 d r 1)
        else if cmdOp w = 0 then nx (doneCmd s1 d r 0 0)
        else if cmdOp w = 1 then
          match fetchStation s d q with
          | none => nx (failCmd s1 d r 7)
          | some _ => nx (modQueue (modStarted s1 d q r.cseq (fun c => { c with prog := x.runs })) d q (fun x => { x with runs := x.runs + 1 }))
        else nx (startCheck s1 d r w)

/-- A RUN that the fetch station has taken puts its token on every route (R194, R238). -/
def execRun (d : DieId) (q cseq : Nat) (s : State) : Res :=
  match freshCmd s d q cseq 0x01, fetchStation s d q with
  | some c, some a =>
    let arg := BitVec.ofNat 64 (cmdF c.word 0x10 8)
    let s := emitTokens s a (routesFrom a.bill a.st) (BitVec.ofNat 32 c.prog) arg
    nx (waitCmd s d { q := q, cseq := cseq })
  | _, _ => nx s

/-! ### Completing (R238, R245) -/

/-- The status and RESULT with which a started command may complete now. -/
def completion (s : State) (d : DieId) (q : Nat) (c : Started) : Option (Nat × Nat) :=
  match c.phase with
  | .done status result => some (status, result)
  | .wait =>
    if cmdOp c.word = 1 ∧ q ≠ flQ then
      match fetchStation s d q with
      | some a =>
        if runEnded s d a.slot a.bill a.st c.prog then some (0, c.prog) else none
      | none => none
    else none
  | .fresh => none

/-- A command completes: it leaves the queue, and its record is written. -/
def finishCmd (s : State) (d : DieId) (q : Nat) (c : Started) (status result : Nat) : State :=
  completeRecord (modCmdQueue s d q (fun x => { x with started := x.started.filter (fun y => y.cseq != c.cseq) })) d q c status result

def execCommandComplete (d : DieId) (q cseq : Nat) (s : State) : Res :=
  if flQ < q then nx s
  else match findStarted (cmdQueue s d q) cseq with
    | none => nx s
    | some c => match completion s d q c with
      | some (status, result) => nx (finishCmd s d q c status result)
      | none => nx s

/-! ### RESUME, FLUSH and enables (R250, R251, R341) -/

/-- Completes every accepted command that has not started with CANCELLED, in CSEQ order. -/
def cancelAll (s : State) (d : DieId) (q : Nat) : State :=
  let x := cmdQueue s d q
  (x.entries.zipIdx).foldl (fun s e =>
    let f := drawFree s 32
    completeRecord f.2 d q { cseq := (x.startSeq + BitVec.ofNat 32 e.2).toNat, word := e.1 } 4 f.1) s

/-- FLUSH, by the depth of the queue; a waiting VERSION_WAIT is cancelled too (R243). -/
def flushQueue (s : State) (d : DieId) (q : Nat) : State :=
  let s := (cmdQueue s d q).started.foldl (fun s c =>
    if q ≠ flQ ∧ cmdOp c.word = 0x50 ∧ (c.phase = .wait ∨ c.phase = .fresh) then failCmd s d { q := q, cseq := c.cseq } 4 else s) s
  let s := cancelAll s d q
  writeHeader (modCmdQueue s d q (fun x => { x with entries := [], startSeq := x.accSeq, free := if q = flQ then 256 else 512 })) d q

/-- An action in another state sets ACT_IGNORED. -/
def queueIgnored (s : State) (d : DieId) (q : Nat) : State :=
  writeHeader (modCmdQueue s d q (fun x => { x with actIgnored := true })) d q

def resumeAct (s : State) (d : DieId) (q : Nat) : State :=
  if (cmdQueue s d q).halted then writeHeader (modCmdQueue s d q (fun x => { x with halted := false })) d q else queueIgnored s d q

def flushAct (s : State) (d : DieId) (q : Nat) : State :=
  let st := (queueFn s d q).st
  if st = .on ∨ st = .draining then flushQueue s d q else queueIgnored s d q

/-- QUEUE_ACT (Table 8.21). -/
def queueAct (s : State) (d : DieId) (q action : Nat) : State :=
  match action with
  | 1 => resumeAct s d q
  | 2 => flushAct s d q
  | _ => s

/-- A queue's registers can be written by the agent. -/
def queueReg (s : State) (a : Nat) (d : DieId) (q : Nat) (t : State) : Res :=
  answer (reachesQueue s a d q && decide (q < 64)) a s t

def execQueueResume (agent : Nat) (d : DieId) (q : Nat) (s : State) : Res := queueReg s agent d q (queueAct s d q 1)

def execQueueFlush (agent : Nat) (d : DieId) (q : Nat) (s : State) : Res := queueReg s agent d q (queueAct s d q 2)

/-- The start of a queue passes: its counts and the ring in force are set, and the header is written (R250). -/
def queueStarting (s : State) (d : DieId) (q : Nat) : State :=
  writeHeader (modCmdQueue (dropRuns s d q (fun _ => true)) d q (fun x => { x with
    halted := false, cause := 0, accSeq := 0, startSeq := 0, free := if q = flQ then 256 else 512, nextRseq := 1, rseqLast := 0
    hdrDropped := 0, ringWait := [], hdrDue := false, offReported := false, ringOn := true, entries := [], logNNow := x.logN.toNat, ringNow := x.ringBase.toNat
    irqAddrNow := 4 * x.irqAddr.toNat, irqEiidNow := x.irqEiid.toNat })) d q

/-- Table 15.8 for EN = 1 and EN = 0: the new function state, and true where a start or a drain begins. -/
def fnEnable (f : Func) (configured : Bool) : Func × Bool :=
  match f.st with
  | .off => if configured then ({ f with en := true, st := .starting, held := false, pend := false }, true) else ({ f with en := true, status := 3 }, false)
  | .draining => ({ f with en := true, pend := true }, false)
  | .starting => ({ f with en := true }, false)
  | .on => ({ f with en := true }, false)

def fnDisable (f : Func) : Func × Bool :=
  match f.st with
  | .on => ({ f with en := false, st := .draining }, true)
  | .starting => ({ f with en := false, held := true }, false)
  | .draining => ({ f with en := false, pend := false }, false)
  | .off => ({ f with en := false }, false)

/-- The checks of an enable (R250). -/
def queueConfigured (s : State) (d : DieId) (q : Nat) (irqEn : Bool) : Bool :=
  let x := getQueue (getDie s d) q
  (ownerQueue s d q).isSome && decide (x.logN.toNat ≤ 10) && x.ringBase != 0 && (!irqEn || x.irqAddr != 0)

/-- The first enable of a unit of a clean partition makes the partition ACTIVE (R419). -/
def activateOwner (s : State) : Option Nat → State
  | some p => activatePart s p
  | none => s

/-- A queue enters DRAINING; one that is HALTED flushes first (R250). -/
def queueDraining (s : State) (d : DieId) (q : Nat) : State :=
  let s := modCmdQueue s d q (fun x => { x with offReported := false })
  if (cmdQueue s d q).halted then flushQueue s d q else writeHeader s d q

/-- QUEUE_CTL (Table 8.13). -/
def writeQueueCtl (s : State) (d : DieId) (q : Nat) (en irqEn : Bool) : State :=
  let s := modQueue s d q (fun x => { x with irqEn := irqEn })
  let x := getQueue (getDie s d) q
  let s0 := s;
  if en then
    let r := fnEnable x.fn (queueConfigured s d q irqEn)
    let s := modQueue s d q (fun x => { x with fn := r.1 })
    if r.2 then queueStarting (activateOwner s (ownerQueue s d q)) d q else headerAfter s0 d q s
  else
    let r := fnDisable x.fn
    let s := modQueue s d q (fun x => { x with fn := r.1 })
    if r.2 then queueDraining s d q else headerAfter s0 d q s

def execQueueEnable (agent : Nat) (d : DieId) (q : Nat) (en irqEn : Bool) (s : State) : Res :=
  queueReg s agent d q (writeQueueCtl s d q en irqEn)

end Sys2Proof.Machine
end

