-- ==== Sys2Proof/Machine/Commands.lean ====
section
/-! DEFINITION. The commands of a queue on descriptors, tensors, epoch groups, versions and streams (R229, R230, R240 to R244,
R259 to R266, R291, R292, R316, R333). -/

namespace Sys2Proof.Machine

/-- A started command of an opcode that has not completed. -/
def openCmd (s : State) (d : DieId) (q cseq op : Nat) : Option Started :=
  match findStarted (cmdQueue s d q) cseq with
  | some c => if cmdOp c.word = op ∧ (c.phase = .fresh ∨ c.phase = .wait) then some c else none
  | none => none

/-- The caches of the memory gate that serves a queue. -/
def queueCaches (s : State) (d : DieId) (q : Nat) : List Tlb := gateCaches s d (q % 16)

/-- The HPA for the record of R296 of a command's range that meets MEM_UNCORR. -/
def cmdUncorr (s : State) (d : DieId) (r : CmdRef) (va n : Nat) (write : Bool) : Nat :=
  (uncorrAt s d (queueCaches s d r.q) ((cmdPart s d r.q).getD 0) va n write).getD 0

/-- An error record for a command whose access faulted, for the kinds that Table 4.9 marks (R240, R241, R456). -/
def recCmdFault (s : State) (d : DieId) (r : CmdRef) (kind va addrKind hpa : Nat) : State :=
  match findStarted (cmdQueue s d r.q) r.cseq with
  | some c =>
    if !kindRecords kind then s
    else
      let p := cmdPart s d r.q
      let s := if kind = kUncorr then
          recUncorr s d p hpa 4 0 (queueIndex r.q) 0 0 (cmdDetail d r.q c)
        else logErr s (some d) {
          cls := 1, code := kind, part := p, unitKind := 4, unitIndex := queueIndex r.q, addrKind := addrKind, addr := va
          cmd := cmdDetail d r.q c }
      markErr s d r
  | none => s

/-! ### Descriptor entries (R230, R240) -/

/-- Formats with the Storage role (Table 2.1). -/
def storageFmt (code : Nat) : Bool := decide (code ≤ 0x0F) && code != 0x09

/-- Elements of a row must come in whole groups of this many (R31, Table 8.6). -/
def packGroup (code : Nat) : Nat :=
  match fmtOfCode code with
  | some f => if fmtBits f = 6 then 4 else if fmtBits f = 4 then 2 else 1
  | none => 1

/-- SLAYOUT serves the format (Table 8.6). -/
def slayoutOk (code sl : Nat) : Bool :=
  if 0x06 ≤ code ∧ code ≤ 0x08 then sl == 1 || sl == 2
  else if code = 0x04 ∨ code = 0x05 then decide (sl ≤ 2)
  else sl == 0

/-- SAT applies to the format (Table 8.5). -/
def satFmt (code : Nat) : Bool := decide (code ≤ 0x05)

/-- Check 1 of Table 8.6: reserved fields are zero, but for GENV. -/
def imageReserved (e : Nat) : Bool := fld e 63 48 == 0 && fld e 127 112 == 0 && fld e 471 468 == 0 && !bit e 487 && fld e 511 496 == 0

/-- Check 2: the format. -/
def imageFormat (e : Nat) : Bool :=
  storageFmt (eFmt e) && slayoutOk (eFmt e) (eSlayout e) && eExt e 0 % packGroup (eFmt e) == 0

/-- Check 3, but for EGROUP. -/
def imageFields (e : Nat) : Bool :=
  (List.range 4).all (fun k => decide (1 ≤ eExt e k)) && eTcols e % packGroup (eFmt e) == 0
    && (eSlayout e != 1 || eTcols e % 32 == 0) && (eSlayout e != 2 || eTrows e % 32 == 0)
    && eBaseA e % 256 == 0 && eBaseB e % 256 == 0 && ((eBaseB e == 0) == !eDual e)
    && (!eSat e || satFmt (eFmt e)) && (!eVpk e || eReadOnly e) && (eMasked e || eMask e == 0)
    && (eSlayout e != 0 || eScaleOff e == 0)

/-- The status of the first check of Table 8.6 that an image fails. -/
def imageStatus (s : State) (d : DieId) (p e : Nat) (create : Bool) : Nat :=
  if !imageReserved e then 0x12
  else if !imageFormat e then 0x13
  else if !imageFields e || (create && ownerEpoch s d (eGroup e) != some p) then 0x12
  else 0

/-- What handling one entry gives. -/
inductive EntR where
  | done (s : State)
  | skip
  | stop (status : Nat)
  | fault (kind va : Nat)
  | wait
  | ask (reqs : List (Nat × Nat × Nat × Option (List Byte)))

/-- A group is COMMITTING. -/
def committing (s : State) (d : DieId) (g : Nat) : Bool := (getEpoch (getDie s d) g).commit.isSome

/-- The GEN after a DESC_CREATE (R224). -/
def nextGen (g : Nat) : Nat := if g = 127 then 1 else g + 1

/-- The image with a GENV byte. -/
def withGenv (e gen : Nat) (valid : Bool) : Nat := setFld (setFld e 494 488 gen) 495 495 (b2n valid)

/-- The handle of an entry (Table 8.1). -/
def handleOf (p i gen : Nat) : Nat := i + p * 2 ^ 17 + gen * 2 ^ 21

/-- DESC_CREATE of entry `n` of the command. -/
def createEntry (s : State) (d : DieId) (q p : Nat) (c : Started) (n : Nat) : EntR :=
  let i := cmdF c.word 0x10 4 + n
  let old := tdtEntry (getDie s d) i
  let src := cmdF c.word 0x18 8 + 64 * n
  let hout := cmdF c.word 0x20 8
  if eValid old then .stop 0x11
  else match readVA s d (queueCaches s d q) p src 64 with
    | .fault k => .fault k src
    | .ask r => .ask r
    | .ok bs =>
      let e := leNat bs
      let st := imageStatus s d p e true
      if st ≠ 0 then .stop st
      else if committing s d (eGroup e) then .wait
      else
        let gen := nextGen (eGen old)
        let put := fun (s : State) => EntR.done (setTdt s d i (withGenv e gen true))
        if hout = 0 then put s
        else match writeVA s d (queueCaches s d q) p (hout + 4 * n) (leBytes 4 (handleOf p i gen)) with
          | .fault k => .fault k (hout + 4 * n)
          | .ask r => .ask r
          | .ok s1 => put s1

/-- The fields that DESC_UPDATE keeps: VSEL, VCOUNT, EGROUP and GENV. -/
def keepFields (old e : Nat) : Nat :=
  setFld (setFld (setFld (setFld e 484 484 (b2n (eVsel old))) 447 416 (eVcount old)) 479 472 (eGroup old)) 495 488 (fld old 495 488)

/-- DESC_UPDATE of entry `n` of the command. -/
def updateEntry (s : State) (d : DieId) (q p : Nat) (c : Started) (n : Nat) : EntR :=
  let i := cmdF c.word 0x10 4 + n
  let old := tdtEntry (getDie s d) i
  let src := cmdF c.word 0x18 8 + 64 * n
  if !eValid old then .stop 0x10
  else match readVA s d (queueCaches s d q) p src 64 with
    | .fault k => .fault k src
    | .ask r => .ask r
    | .ok bs =>
      let e := leNat bs
      if eGen e ≠ eGen old then .stop 0x10
      else
        let st := imageStatus s d p e false
        if st ≠ 0 then .stop st
        else if committing s d (eGroup old) then .wait
        else .done (setTdt s d i (keepFields old e))

/-- DESC_FREE of entry `n` of the command. -/
def freeEntry (s : State) (d : DieId) (_q _p : Nat) (c : Started) (n : Nat) : EntR :=
  let i := cmdF c.word 0x10 4 + n
  let old := tdtEntry (getDie s d) i
  if !eValid old then .skip
  else if committing s d (eGroup old) then .wait
  else .done (setTdt s d i (setFld old 495 495 0))

/-- The gate transfers of entry `n` of a descriptor command (R240, R307): its image, and the handle once the image passes. -/
def entryTransfers (s : State) (d : DieId) (q p : Nat) (c : Started) (n : Nat) : List (Nat × Nat × Bool) :=
  let old := tdtEntry (getDie s d) (cmdF c.word 0x10 4 + n)
  let src := cmdF c.word 0x18 8 + 64 * n
  let hout := cmdF c.word 0x20 8
  match cmdOp c.word with
  | 0x20 =>
    if eValid old then []
    else (src, 64, false) :: (match readVA s d (queueCaches s d q) p src 64 with
      | .ok bs => if hout ≠ 0 ∧ imageStatus s d p (leNat bs) true = 0 then [(hout + 4 * n, 4, true)] else []
      | _ => [])
  | 0x21 => if eValid old then [(src, 64, false)] else []
  | _ => []

/-- The gate transfers of a COPY (R307): its source in memory, then its destination; from flash, the destination once its units have
been read. -/
def copyTransfers (s : State) (d : DieId) (q : Nat) (c : Started) : List (Nat × Nat × Bool) :=
  let src := cmdF c.word 0x18 8
  let len := cmdF c.word 0x20 8
  let put := (rangeTransfers (versBase c.ent (cmdF c.word 0x15 1 == 1) + cmdF c.word 0x28 8) len).map (fun p => (p.1, p.2, true))
  if cmdF c.word 0x14 1 = 0 then (rangeTransfers src len).map (fun p => (p.1, p.2, false)) ++ put
  else if runTurn s d q c.cseq (src / 65536) (ceilDiv len 65536) then match readUnits s (src / 65536) (ceilDiv len 65536) with
    | .ok _ => put
    | .error _ => []
  else []

/-- The gate transfers of a command that has started. -/
def cmdTransfers (s : State) (d : DieId) (q : Nat) (c : Started) : List (Nat × Nat × Bool) :=
  if q = flQ ∨ c.phase ≠ .wait then []
  else if cmdOp c.word = 0x30 then copyTransfers s d q c
  else if c.prog < cmdF c.word 0x14 4 then entryTransfers s d q (queuePart s d q) c c.prog
  else []

/-- Transfer `i` of a command: its address, its bytes, and whether it writes. -/
def cmdTransfer (s : State) (d : DieId) (q cseq i : Nat) : Option (Nat × Nat × Bool) :=
  (findStarted (cmdQueue s d q) cseq).bind (fun c => (cmdTransfers s d q c)[i]?)

def cmdAsked (s : State) (d : DieId) (q cseq : Nat) : Nat := ((findStarted (cmdQueue s d q) cseq).map Started.asked).getD 0
def cmdGot (s : State) (d : DieId) (q cseq : Nat) : Nat := ((findStarted (cmdQueue s d q) cseq).map Started.got).getD 0

/-- The command has transfers to ask the memory gate of its queue for. -/
def cmdAsks (s : State) (d : DieId) (r : CmdRef) : State := askTransfer s d (r.q % 16) (.command r.q r.cseq)

/-- Entries in ascending order from entry `n` of the command, until one stops or waits, for its transfers too; `k` entries before it
were skipped. RESULT is the number of entries completed. -/
def runEntries (d : DieId) (q p cseq : Nat) (f : State → DieId → Nat → Nat → Started → Nat → EntR) :
    Nat → State → Started → Nat → Nat → State
  | 0, s, _, n, k => doneCmd s d { q := q, cseq := cseq } 0 (n - k)
  | left + 1, s, c, n, k =>
    let r : CmdRef := { q := q, cseq := cseq }
    if cmdGot s d q cseq < (entryTransfers s d q p c n).length then cmdAsks s d r
    else match f s d q p c n with
    | .done s1 => runEntries d q p cseq f left
        (modStarted (dropAnswers s1 d) d q cseq (fun c => { c with prog := n + 1, asked := 0, got := 0 })) c (n + 1) k
    | .skip => runEntries d q p cseq f left (modStarted s d q cseq (fun c => { c with prog := n + 1, skipped := k + 1 })) c (n + 1) (k + 1)
    | .stop status => doneCmd s d r status n
    | .fault k va => doneCmd (recCmdFault s d r k va 2 (cmdUncorr s d r va 64 false)) d r 0x14 (k + 16 * n)
    | .wait => s
    | .ask q => askPeers s d p q

/-- The entries of a command lie in the partition's range of the table (R240). -/
def inTdtRange (s : State) (d : DieId) (p i n : Nat) : Bool :=
  let l := layoutDie s p d
  decide (l.tdtBase * 1024 ≤ i) && decide (i + n ≤ (l.tdtBase + l.tdtCount) * 1024)

/-- A descriptor command runs, from its start or from the entry at which it waited. -/
def descCmd (s : State) (d : DieId) (q cseq op : Nat) (f : State → DieId → Nat → Nat → Started → Nat → EntR) : State :=
  match openCmd s d q cseq op with
  | none => s
  | some c =>
    let p := queuePart s d q
    let i := cmdF c.word 0x10 4
    let n := cmdF c.word 0x14 4
    if c.phase = .fresh ∧ !inTdtRange s d p i n then failCmd s d { q := q, cseq := cseq } 2
    else runEntries d q p cseq f (n - c.prog) (waitCmd s d { q := q, cseq := cseq }) c c.prog c.skipped

def execDescCreate (d : DieId) (q cseq : Nat) (s : State) : Res := nx (descCmd s d q cseq 0x20 createEntry)
def execDescUpdate (d : DieId) (q cseq : Nat) (s : State) : Res := nx (descCmd s d q cseq 0x21 updateEntry)
def execDescFree (d : DieId) (q cseq : Nat) (s : State) : Res := nx (descCmd s d q cseq 0x22 freeEntry)

/-! ### COPY (R241, R316, R333) -/

/-- The measurement of a COPY (R316). -/
def copyMeasure (doff : Nat) (bs : List Byte) : Nat :=
  let n := ceilDiv bs.length 65536
  digest512 (leBytes 8 doff ++ leBytes 8 bs.length
    ++ ((List.range n).map (fun i => leBytes 64 (digest512 ((bs.drop (65536 * i)).take 65536)))).flatten)

/-- A measurement enters the partition's list on a die (R424): one for the same index and version is replaced. -/
def recordMeas (s : State) (d : DieId) (p : Nat) (m : Meas) : State :=
  let add := fun (xs : List Meas) =>
    if xs.any (fun y => y.index == m.index && y.vers == m.vers) then
      (xs.map (fun y => if y.index == m.index && y.vers == m.vers then m else y), false)
    else if 4096 ≤ xs.length then (xs, true) else (xs ++ [m], false)
  modSec s p (fun x => match d with
    | .cd0 => { x with meas0 := (add x.meas0).1, ovf0 := x.ovf0 || (add x.meas0).2 }
    | .cd1 => { x with meas1 := (add x.meas1).1, ovf1 := x.ovf1 || (add x.meas1).2 })

/-- Bytes of the destination that a faulted COPY leaves written: each byte that can be read and written may be (R241). -/
def copyPart (d : DieId) (p : Nat) (caches : List Tlb) (srcAt : State → Nat → Option Byte) (dst mask : Nat) : Nat → State → State
  | 0, s => s
  | n + 1, s =>
    let s := copyPart d p caches srcAt dst mask n s
    if !bit mask n then s
    else match srcAt s n with
      | none => s
      | some b => match writeVA s d caches p (dst + n) [b] with
        | .ok s1 => s1
        | _ => s

/-- A COPY stops on a fault (R241): which bytes it wrote, and RESULT[31:4], are free values (assumption 20). -/
def copyFault (s : State) (d : DieId) (r : CmdRef) (p : Nat) (srcAt : State → Nat → Option Byte) (dst len k va addrKind hpa : Nat) : State :=
  let f := drawFree s len
  let g := drawFree f.2 28
  let s := copyPart d p (queueCaches s d r.q) srcAt dst f.1 len g.2
  doneCmd (recCmdFault s d r k va addrKind hpa) d r 0x14 (k + 16 * g.1)

/-- A byte of a COPY's source in memory. -/
def copyByte (d : DieId) (q p src : Nat) (s : State) (n : Nat) : Option Byte :=
  match readVA s d (queueCaches s d q) p (src + n) 1 with
  | .ok (b :: _) => some b
  | _ => none

/-- A byte of a COPY's source in flash. -/
def copyFlashByte (src : Nat) (s : State) (n : Nat) : Option Byte :=
  match readNow s ((src + n) / 65536) with
  | .ok bs => bs[(src + n) % 65536]?
  | _ => none

/-- The bytes of a COPY go to their destination; a measured one is recorded. -/
def copyWrite (s : State) (d : DieId) (r : CmdRef) (p : Nat) (c : Started) (e : Nat) (srcAt : State → Nat → Option Byte) (bs : List Byte) : State :=
  let doff := cmdF c.word 0x28 8
  let inactive := cmdF c.word 0x15 1 == 1
  let dst := versBase e inactive + doff
  match writeVA s d (queueCaches s d r.q) p dst bs with
  | .fault k => copyFault s d r p srcAt dst bs.length k dst 2 (cmdUncorr s d r dst bs.length true)
  | .ask q => askPeers s d p q
  | .ok s1 =>
    let vers := b2n (eDual e && (eVsel e != inactive))
    let s1 := if eDigest e then
        recordMeas s1 d p { index := fld (cmdF c.word 0x10 4) 16 0, vers := vers, doff := doff, len := bs.length, digest := copyMeasure doff bs }
      else s1
    doneCmd (dropAnswers s1 d) d r 0 (bs.length % 2 ^ 32)

/-- A COPY whose destination has been captured. -/
def copyRun (s : State) (d : DieId) (r : CmdRef) (p : Nat) (c : Started) (e : Nat) : State :=
  let src := cmdF c.word 0x18 8
  let len := cmdF c.word 0x20 8
  let dst := versBase e (cmdF c.word 0x15 1 == 1) + cmdF c.word 0x28 8
  if cmdF c.word 0x14 1 = 0 then
    if c.got < (copyTransfers s d r.q c).length then cmdAsks s d r
    else match readVA s d (queueCaches s d r.q) p src len with
    | .fault k => copyFault s d r p (copyByte d r.q p src) dst len k src 2 (cmdUncorr s d r src len false)
    | .ask q => askPeers s d p q
    | .ok bs => copyWrite s d r p c e (copyByte d r.q p src) bs
  else
    let u := src / 65536
    let n := ceilDiv len 65536
    if !(List.range n).all (fun i => unitOwned s p (u + i)) then
      let g := drawFree s 28
      doneCmd (recCmdFault g.2 d r kAccess src 3 0) d r 0x14 (kAccess + 16 * g.1)
    else if !runTurn s d r.q r.cseq u n then s
    else match readUnits s u n with
      | .ok bs =>
        if c.got < (copyTransfers s d r.q c).length then cmdAsks s d r
        else copyWrite (noteRun s u n) d r p c e (copyFlashByte src) (bs.take len)
      | .error .wait => s
      | .error k => copyFault s d r p (copyFlashByte src) dst len (unitKind k) src 3 0

def execCopy (d : DieId) (q cseq : Nat) (s : State) : Res :=
  match openCmd s d q cseq 0x30 with
  | none => nx s
  | some c =>
    let r : CmdRef := { q := q, cseq := cseq }
    if c.phase = .fresh then nx (copyCapture s d r c.word)
    else nx (copyRun s d r (queuePart s d q) c c.ent)

/-! ### STEP_COMMIT and STEP_ABANDON (R261 to R266) -/

/-- The captured entry that an instruction in flight writes (R176). -/
def opWriteEnt (o : Op) : Option Nat :=
  match o.kind with
  | .transfer t => if t.store then some t.ent else none
  | _ => none

/-- The captured entries that a station's micro-batch writes. -/
def stationWrites (kind mode : Nat) (x : Station) : List Nat :=
  if x.begun ≠ x.ended + 1 then []
  else match kind with
    | 4 => [x.ent]
    | 7 => [x.ent]
    | 6 => if mode = 1 then x.ents else []
    | 8 => (x.work.filter Work.sink).map Work.ent
    | _ => []

/-- The writers of entries of a group on a die: cell instructions, COPY commands and stations, each by a name. -/
def groupWriters (s : State) (d : DieId) (g : Nat) : List (Nat × Nat) :=
  let x := getDie s d
  let hit := fun (e : Nat) => e != 0 && eGroup e == g
  (x.cells.flatMap (fun c => (c.2.m.ops.filter (fun o => (opWriteEnt o).any hit)).map (fun o => (c.1, o.id))))
    ++ (x.queues.flatMap (fun q => (q.2.started.filter (fun c => cmdOp c.word == 0x30 && decide (c.phase = .wait) && hit c.ent)).map
        (fun c => (1000 + q.1, c.cseq))))
    ++ (x.stations.filterMap (fun y =>
        let slot := y.1 / 65536
        let st := y.1 % 65536 / 4
        let b := (getSlot x slot).bill
        let a : StAt := { d := d, slot := slot, bill := b, st := st }
        if (stationWrites (stKind b st) (mvMode a) y.2).any hit then some (2000 + slot, st * 2 ^ 40 + y.2.begun) else none))

/-- A commit or abandon enters step 1: the group is COMMITTING, and the writes captured before are what it waits for. -/
def holdGroup (s : State) (d : DieId) (q cseq op : Nat) (abandon : Bool) : State :=
  match freshCmd s d q cseq op with
  | none => s
  | some c =>
    let r : CmdRef := { q := q, cseq := cseq }
    let g := cmdF c.word 0x10 1
    if ownerEpoch s d g ≠ some (queuePart s d q) then failCmd s d r 2
    else if committing s d g then s
    else modEpoch (waitCmd s d r) d g (fun e => { e with
      commit := some { cmd := r, abandon := abandon, barrier := if abandon then 0xFF else cmdF c.word 0x11 1, settle := groupWriters s d g } })

def execStepCommit (d : DieId) (q cseq : Nat) (s : State) : Res := nx (holdGroup s d q cseq 0x40 false)
def execStepAbandon (d : DieId) (q cseq : Nat) (s : State) : Res := nx (holdGroup s d q cseq 0x41 true)

def verOf (s : State) (d : DieId) (g : Nat) : Nat := (getEpoch (getDie s d) g).ver.toNat

/-- The group leaves COMMITTING with a verdict for PART_STEP_ST. -/
def endCommit (s : State) (d : DieId) (p g verdict : Nat) : State :=
  modPart (modEpoch s d g (fun e => { e with commit := none })) d p (fun x => { x with lastVerdict := verdict })

def clearStep (s : State) (d : DieId) (p : Nat) : State := modPart s d p (fun x => { x with stepNf := false })

/-- One entry at the commit point. -/
def flipEntry (e : Nat) : Nat :=
  let e := setFld e 447 416 (eVcount e + 1)
  if eDual e then setFld e 484 484 (b2n (!eVsel e)) else e

/-- The indivisible change of a commit (R261, step 4). -/
def flipGroup (s : State) (d : DieId) (p g : Nat) : State :=
  let s := modDie s d (fun x => { x with tdt := x.tdt.map (fun y =>
    if eValid y.2 && eGroup y.2 == g && inTdtRange s d p y.1 1 then (y.1, flipEntry y.2) else y) })
  modEpoch s d g (fun e => { e with ver := e.ver + 1 })

/-- VCOUNT of the entry that a VERSION_WAIT captured, as long as the table still holds that entry. -/
def capturedVcount (s : State) (d : DieId) (c : Started) : Nat :=
  let t := tdtEntry (getDie s d) (fld (cmdF c.word 0x10 4) 16 0)
  if eValid t && eGen t == eGen c.ent then eVcount t else eVcount c.ent

/-- Every waiting VERSION_WAIT of a die makes its test again (R243). -/
def testWaits (s : State) (d : DieId) : State :=
  (getDie s d).queues.foldl (fun s q => q.2.started.foldl (fun s c =>
    if cmdOp c.word = 0x50 ∧ c.phase = .wait then versionTest s d { q := q.1, cseq := c.cseq } c.word (capturedVcount s d c) else s) s) s

/-- The commit point under a verdict, true for abandon. -/
def commitPoint (s : State) (d : DieId) (p g : Nat) (r : CmdRef) (abandon : Bool) : State :=
  if abandon then doneCmd (endCommit (clearStep s d p) d p g 2) d r 0x18 (verOf s d g)
  else
    let s := testWaits (flipGroup s d p g) d
    doneCmd (endCommit (clearStep s d p) d p g 1) d r 0 (verOf s d g)

def barrierFail (s : State) (d : DieId) (p g : Nat) (r : CmdRef) : State := failCmd (endCommit s d p g 3) d r 0x19

/-- The barrier station with a PLACE in the partition's active Bill. -/
def barrierAt (s : State) (d : DieId) (p b : Nat) : Option StAt :=
  (activeBill (getDie s d) p).bind (fun x => (findStation x.2 11 b).map (fun st => { d := d, slot := x.1, bill := x.2, st := st }))

/-- The verdict barrier of a vote barrier (R292). -/
def verdictBarrier (a : StAt) : Option StAt :=
  match routeAt a.bill a.st 0 with
  | none => some a
  | some r => if stKind a.bill (rtDst a.bill r) = 11 then some { a with st := rtDst a.bill r } else none

/-- Step 2 ends once every captured write is complete; then the vote (R261, R262, R263). -/
def execStepSettleEnd (d : DieId) (eg : Nat) (s : State) : Res :=
  match (getEpoch (getDie s d) eg).commit, ownerEpoch s d eg with
  | some c, some p =>
    let live := groupWriters s d eg
    if c.voted.isSome || c.settle.any (fun w => live.contains w) then nx s
    else if c.abandon then nx (doneCmd (endCommit (clearStep s d p) d p eg 2) d c.cmd 0 (verOf s d eg))
    else
      let nf := (getPart (getDie s d) p).stepNf
      if c.barrier = 0xFF then nx (commitPoint s d p eg c.cmd nf)
      else match barrierAt s d p c.barrier with
        | none => nx (barrierFail s d p eg c.cmd)
        | some a =>
          let mb := (stGet s a 0).begun + (stGet s a 0).votes.length
          nx (modEpoch (stMod s a 0 (fun x => { x with votes := x.votes ++ [nf] })) d eg (fun e => { e with
            commit := some { c with voted := some (timeOf s (some d)), mb := some mb } }))
  | _, _ => nx s

/-- The verdict of a commit that has voted and its time, once its verdict barrier has ended the vote's micro-batch. -/
def verdictOf (s : State) (d : DieId) (p : Nat) (c : Commit) : Option (Bool × Nat) :=
  match c.voted, c.mb, (barrierAt s d p c.barrier).bind verdictBarrier with
  | some _, some mb, some a =>
    let x := stGet s a 0
    if mb < x.ended then x.verdicts[x.ended - 1 - mb]? else none
  | _, _, _ => none

/-- A barrier that ends later than BAR_TMO after the vote gives no verdict (R262). -/
def timelyVerdict (s : State) (d : DieId) (p : Nat) (c : Commit) : Option Bool :=
  let tmo := (getPart (getDie s d) p).barTmo.toNat
  ((verdictOf s d p c).filter (fun v => tmo == 0 || decide (v.2 ≤ c.voted.getD 0 + 1000 * tmo))).map Prod.fst

def execBarrierVerdict (d : DieId) (eg : Nat) (s : State) : Res :=
  match (getEpoch (getDie s d) eg).commit, ownerEpoch s d eg with
  | some c, some p => match timelyVerdict s d p c with
    | some v => nx (commitPoint s d p eg c.cmd v)
    | none => nx s
  | _, _ => nx s

/-- BAR_TMO expires and no verdict came within it (R262). -/
def execBarrierTimeout (d : DieId) (eg : Nat) (s : State) : Res :=
  match (getEpoch (getDie s d) eg).commit, ownerEpoch s d eg with
  | some c, some p =>
    let tmo := (getPart (getDie s d) p).barTmo.toNat
    match c.voted with
    | some t =>
      if tmo ≠ 0 ∧ (timelyVerdict s d p c).isNone ∧ t + 1000 * tmo ≤ timeOf s (some d) then nx (barrierFail s d p eg c.cmd) else nx s
    | none => nx s
  | _, _ => nx s

/-! ### VERSION_WAIT (R243, R259) -/

/-- A VERSION_WAIT makes its test: the one at its start, with the capture, or a later one. -/
def execVersionWait (d : DieId) (q cseq : Nat) (s : State) : Res :=
  match openCmd s d q cseq 0x50 with
  | none => nx s
  | some c =>
    let r : CmdRef := { q := q, cseq := cseq }
    if c.phase = .wait then nx (versionTest s d r c.word (capturedVcount s d c)) else nx (waitCapture s d r c.word)

/-! ### STREAM_CTL (R242) -/

/-- STREAM_ST.STATE (Table 6.14). -/
def streamStateCode : StreamState → Nat
  | .idle => 0
  | .running => 1
  | .halted => 2
  | .exception => 3
  | .faulted => 4
  | .stopped => 5

/-- STREAM_ST (Table 6.13). -/
def streamStWord (t : Stream) : Nat :=
  streamStateCode t.st + 8 * t.exc + 2 ^ 9 * b2n t.nonfinite + 2 ^ 10 * b2n t.actIgnored + 2 ^ 11 * t.loops.length + 2 ^ 14 * t.xkind

/-- An action of a command: the state after it, and whether it applied. -/
def streamCtlAct (s : State) (l : StreamLoc) (act : Nat) : State × Bool :=
  if act ≤ 5 then (streamActWrite s l act, (streamAct s l act).isSome)
  else (sfltAct s l (act - 5), !(stoppedOf (getCell s (cellOf l)).m l.stream).isEmpty)

def execStreamCtl (d : DieId) (q cseq : Nat) (s : State) : Res :=
  match freshCmd s d q cseq 0x60 with
  | none => nx s
  | some c =>
    let r : CmdRef := { q := q, cseq := cseq }
    let site := cmdF c.word 0x10 2
    let st := cmdF c.word 0x12 1
    let l : StreamLoc := { die := d, site := site, stream := 2 * fld st 1 0 + b2n (bit st 2) }
    if !sitePresent (getDie s d) site then nx (bump (failCmd s d r 5) d (setQueueSet q) 4 1)
    else if ownerCell s (cellOf l) ≠ some (queuePart s d q) then nx (failCmd s d r 2)
    else
      let a := streamCtlAct s l (cmdF c.word 0x13 1)
      if a.2 then nx (doneCmd a.1 d r 0 (streamStWord (getStream a.1 l))) else nx (failCmd a.1 d r 6)

end Sys2Proof.Machine
end

