-- ==== Sys2Proof/Machine/Functions.lean ====
section
/-! DEFINITION. Functions: cells, chain ports, queues and the flash store start and drain (R24, R370, R399 to R403, R324, R340, R341). -/

namespace Sys2Proof.Machine

/-! ### Ends of starts and drains (Table 15.8) -/

/-- A start ends: ON, or DRAINING with a disable held. -/
def fnStarted (f : Func) : Func := if f.held then { f with st := .draining, held := false } else { f with st := .on, status := 0 }

/-- A drain ends: OFF, or STARTING with an enable pending; true for STARTING. -/
def fnDrained (f : Func) : Func × Bool :=
  if f.pend then ({ f with st := .starting, pend := false }, true) else ({ f with st := .off }, false)

/-! ### Cells (R400 to R403) -/

def modFn (s : State) (c : CellLoc) (f : Func → Func) : State := modC s c (fun k => { k with fn := f k.fn })

/-- A cell's start, or INIT, re-initialises it (R402). -/
def cellStarting (s : State) (c : CellLoc) : State := modC (initCell s c) c (fun k => { k with initBusy := true })

/-- EN of CELL_CTL; the check of R24 always passes (R400). -/
def writeCellEn (s : State) (c : CellLoc) (en : Bool) : State :=
  let f := (getCell s c).c.fn
  if en then
    let r := fnEnable f true
    let s := modFn s c (fun _ => r.1)
    if r.2 then cellStarting (activateOwner s (ownerCell s c)) c else s
  else modFn s c (fun _ => (fnDisable f).1)

def execCellEnable (agent : Nat) (c : CellLoc) (en : Bool) (s : State) : Res := cellReg s agent c 0 (b2n en) (writeCellEn s c en)

/-- INIT of CELL_CTL (R402, R403): INIT_BUSY stays set until time has passed. -/
def writeCellInit (s : State) (c : CellLoc) : State :=
  let s := cellStarting s c
  match cellStation s c with
  | some a => restartCell s a
  | none => s

def execCellInit (agent : Nat) (c : CellLoc) (s : State) : Res := cellReg s agent c 0 (2 + b2n (getCell s c).c.fn.en) (writeCellInit s c)

/-- The cell's start has ended; under an ACTIVE Bill its station restarts it (R403). -/
def cellStarted (s : State) (c : CellLoc) : State :=
  let s := modC s c (fun k => { k with fn := fnStarted k.fn, initBusy := false })
  match cellStation s c with
  | some a => restartCell s a
  | none => s

/-- Every stream is IDLE or HALTED. -/
def cellIdle (s : State) (c : CellLoc) : Bool :=
  (List.range 6).all (fun n =>
    let t := (getStream s { die := c.die, site := c.site, stream := n }).st
    decide (t = .idle) || decide (t = .halted))

/-! ### Chain ports (R370, R399) -/

def getCp (d : Die) (port : Nat) : Func := tabGet {} d.chain.fns port
def modCp (s : State) (d : DieId) (port : Nat) (f : Func → Func) : State :=
  modDie s d (fun x => { x with chain := { x.chain with fns := tabSet {} x.chain.fns port (f (getCp x port)) } })

/-- MODE of a port's quadrant as written. -/
def cpMode (d : Die) (port : Nat) : Bool := d.chain.cfgMode.toNat.testBit (port / 4)

/-- The checks of an enable (R370, R415, Table 15.11): a partition holds the port, and in MODE 1 only the first port of a quadrant
exists (R355). -/
def cpConfigured (s : State) (die : DieId) (port : Nat) : Bool :=
  let d := getDie s die
  (ownerInst s die .chainPort port).isSome && d.chain.id != 0 && d.chain.id != 0xFFFFFFFF && tabGet 0 d.chain.mac port != 0 && d.chain.cvsel != 3
    && d.clk.enCp.toNat.testBit (port / 4) && (!cpMode d port || port % 4 == 0)

def setLink_ (s : State) (d : DieId) (port : Nat) (up : Bool) : State :=
  modDie s d (fun x => { x with chain := { x.chain with linkUp := setFld x.chain.linkUp port port (b2n up) } })

/-- A port's start puts its registers in force. -/
def cpStarting (s : State) (d : DieId) (port : Nat) : State :=
  modDie s d (fun x =>
    let v := (cpMode x port, (tabGet 0 x.chain.mac port).toNat, x.chain.id.toNat, x.chain.etype.toNat, x.chain.cvsel.toNat)
    { x with chain := { x.chain with inForce := tabSet (false, 0, 0, 0, 0) x.chain.inForce port v } })

def writeCpEn (s : State) (d : DieId) (port : Nat) (en : Bool) : State :=
  let x := getDie s d
  if en then
    let r := fnEnable (getCp x port) (cpConfigured s d port)
    let s := modCp s d port (fun _ => r.1)
    if r.2 then cpStarting (activateOwner s (ownerInst s d .chainPort port)) d port else s
  else modCp s d port (fun f => (fnDisable f).1)

/-- CP_FN lies in its quadrant's block (R374; assumption 41). -/
def execCpFnEnable (agent : Nat) (d : DieId) (port : Nat) (en : Bool) (s : State) : Res :=
  answer (reachesDie s agent d && decide (port < 16) && (getDie s d).clk.enCp.toNat.testBit (port / 4)) agent s (writeCpEn s d port en)

/-- Every frame held for the port's peers is acknowledged, or the entry has FAILED. -/
def cpDrained (d : Die) (port : Nat) : Bool :=
  d.peers.all (fun e => decide (e.2.port.toNat ≠ port) || e.2.unacked.isEmpty || e.2.failed)

/-! ### The flash store (R324, R340, R341) -/

/-- An extent in force. -/
def extValid (v : W64) : Bool := bit v.toNat 63 && decide (fld v.toNat 28 0 < fld v.toNat 57 29)

def flashConfigured (s : State) : Bool := s.hd.flash.mapBase != 0 && s.hd.flash.ext.any (fun e => decide (e.1 < 64) && extValid e.2)

/-- The store's start: the map's place and the aperture's registers are taken. -/
def flashStarting (s : State) : State :=
  queueStarting (modFlash s (fun x => { x with
    mapReady := false, mapNow := x.mapBase.toNat * 4096, moves := [], suspended := [], retries := [], decoded := [], wbuf := [] })) .cd0 flQ

/-- FL_CTL (Table 12.12). -/
def writeFlCtl (s : State) (v : Nat) : State :=
  let s := modFlash s (fun x => { x with irqEn := bit v 1, lateThr := BitVec.ofNat 8 (fld v 15 8) })
  let f := s.hd.flash.fn
  if bit v 0 then
    let r := fnEnable f (flashConfigured s)
    let s := modFlash s (fun x => { x with fn := r.1 })
    if r.2 then flashStarting s else s
  else
    let r := fnDisable f
    let s := modFlash s (fun x => { x with fn := r.1 })
    if r.2 then queueDraining s .cd0 flQ else s

def execFlEnable (agent : Nat) (v : W32) (s : State) : Res := flashReg s agent (writeFlCtl s v.toNat)

/-- The flash processors rebuild the map in HBM from its durable copy and the journal (R324). -/
def rebuildMap (s : State) : State :=
  let lo := s.hd.flash.mapNow
  let inMap := fun (k : Nat) => decide (lo ≤ k) && decide (k < lo + 4 * userUnits)
  let s := { s with hbm := tabKeep (fun k => !inMap k) s.hbm, hbmBad := s.hbmBad.filter (fun u => !inMap (u * 32)) }
  let s := s.hd.flash.durable.foldl (fun s e => setMapEntry s e.1 e.2) s
  s.hd.flash.journal.foldl (fun s e => setMapEntry s e.1 (e.2 - 1)) s

/-- The blocks that carry factory marks, which are read at the first enable, are retired (R327). -/
def readMarks (x : HdFlash) : HdFlash :=
  if x.marksRead then x
  else { x with marksRead := true, retired := x.retired ++ (Config.factoryMarks.map blockOf).eraseDups.filter (fun b => !x.retired.contains b) }

/-- The map is whole, and a scan of every block is due (R324, R326). -/
def execMapReady (s : State) : Res :=
  let f := s.hd.flash
  if f.fn.st = .starting ∧ !f.mapReady ∧ !hbmStopped (getDie s (hpaDie f.mapNow)) then
    nx (modFlash (rebuildMap s) (fun x => readMarks { x with mapReady := true, scanned := none }))
  else nx s

/-- A flash reader has a unit outstanding. -/
def readsOpen (s : State) : Bool :=
  let f := fun (d : Die) => d.stations.any (fun e => e.2.units.any (fun u => u.2.1 == 0))
  f s.cd0 || f s.cd1

/-! ### The two events -/

def execFunctionStartEnd (f : FnId) (s : State) : Res :=
  match f with
  | .queue d q =>
    if decide (q < 64) && decide ((getQueue (getDie s d) q).fn.st = .starting) then
      let s := modQueue s d q (fun x => { x with fn := fnStarted x.fn, offReported := false })
      if (getQueue (getDie s d) q).fn.st = .draining then nx (queueDraining s d q) else nx (writeHeader s d q)
    else nx s
  | .cell d site =>
    let c : CellLoc := { die := d, site := site }
    if (getCell s c).c.fn.st = .starting then nx (cellStarted s c) else nx s
  | .chainPort d port =>
    if (getCp (getDie s d) port).st = .starting then nx (setLink_ (modCp s d port fnStarted) d port true) else nx s
  | .flash =>
    let x := s.hd.flash
    if x.fn.st = .starting ∧ x.mapReady then
      let s := modFlash s (fun x => { x with fn := fnStarted x.fn, q := { x.q with offReported := false } })
      if s.hd.flash.fn.st = .draining then nx (queueDraining s .cd0 flQ) else nx (writeHeader s .cd0 flQ)
    else nx s

def execFunctionDrainEnd (f : FnId) (s : State) : Res :=
  match f with
  | .queue d q =>
    let x := getQueue (getDie s d) q
    if decide (q < 64) && decide (x.fn.st = .draining) && x.entries.isEmpty && x.started.isEmpty then
      let r := fnDrained x.fn
      let s := modQueue s d q (fun x => { x with fn := r.1, offReported := false })
      nx (if r.2 then queueStarting s d q else writeHeader s d q)
    else nx s
  | .cell d site =>
    let c : CellLoc := { die := d, site := site }
    if (getCell s c).c.fn.st = .draining ∧ cellIdle s c then
      let r := fnDrained (getCell s c).c.fn
      let s := modFn s c (fun _ => r.1)
      nx (if r.2 then cellStarting s c else s)
    else nx s
  | .chainPort d port =>
    if decide ((getCp (getDie s d) port).st = .draining) && cpDrained (getDie s d) port then
      let r := fnDrained (getCp (getDie s d) port)
      let s := setLink_ (modCp s d port (fun _ => r.1)) d port false
      nx (if r.2 then cpStarting s d port else s)
    else nx s
  | .flash =>
    let x := s.hd.flash
    if decide (x.fn.st = .draining) && x.q.entries.isEmpty && x.q.started.isEmpty && !readsOpen s then
      let r := fnDrained x.fn
      let s := modFlash s (fun x => { x with fn := r.1, mapReady := false, q := { x.q with offReported := false } })
      nx (if r.2 then flashStarting s else writeHeader s .cd0 flQ)
    else nx s

end Sys2Proof.Machine
end

