-- ==== Sys2Proof/Machine/RegBase.lean ====
section
/-! DEFINITION. Register slots: accesses of 4 or 8 bytes, halves, and write-one-to-clear fields (R9, R472). -/

namespace Sys2Proof.Machine

/-- A write of a register: the bits of the slot that it covers, and its value in their place. -/
structure RegW where
  mask : Nat
  val : Nat
  deriving DecidableEq, Repr

/-- The size and alignment of a register access (R472). -/
def regSized (off size : Nat) : Bool := (size == 4 && off % 4 == 0) || (size == 8 && off % 8 == 0)

/-- The write that an access makes to its slot. -/
def regW (off size : Nat) (v : Nat) : RegW :=
  if size = 8 then { mask := 2 ^ 64 - 1, val := v % 2 ^ 64 }
  else if off % 8 = 0 then { mask := 2 ^ 32 - 1, val := v % 2 ^ 32 }
  else { mask := (2 ^ 32 - 1) * 2 ^ 32, val := v % 2 ^ 32 * 2 ^ 32 }

/-- What a read of a slot gives for its access. -/
def regPart (off size : Nat) (word : Nat) : Nat :=
  if size = 8 then word % 2 ^ 64 else if off % 8 = 0 then word % 2 ^ 32 else fld word 63 32

/-- The slot after a write of the bits covered. -/
def RegW.over (w : RegW) (old : Nat) : Nat := (w.val &&& w.mask) ||| (old % 2 ^ 64 - (old % 2 ^ 64 &&& w.mask))

/-- A one is written to a bit. -/
def RegW.one (w : RegW) (n : Nat) : Bool := bit (w.val &&& w.mask) n

/-- A write-one-to-clear flag after the write. -/
def RegW.clr (w : RegW) (n : Nat) (f : Bool) : Bool := f && !w.one n

/-- The write covers some bit of the low half, where every 32-bit register holds its fields. -/
def RegW.low (w : RegW) : Bool := bit w.mask 0

end Sys2Proof.Machine
end

