-- ==== Sys2Proof/Machine/CellRegs.lean ====
section
/-! DEFINITION. The register block of a cell (Table 19.15): what each slot reads as, what a read clears and what a write does. -/

namespace Sys2Proof.Machine

/-! ### Words of the cell's registers -/

/-- The fields of a function's state that its registers share: FSTATE, ENABLE_PENDING and ENABLE_STATUS (Table 8.15). -/
def fnWord (f : Func) : Nat := fstateCode f.st + 4 * b2n f.pend + 2 ^ 8 * (f.status % 256)

/-- TNSTAT (Table 2.9). -/
def tnstatWord (t : Tnstat) : Nat :=
  b2n t.nonfinite + 2 * b2n t.intSat + 4 * b2n t.convSat + 8 * b2n t.lxOvf + 16 * b2n t.lxInexact + 2 ^ 16 * (t.lxUnder % 2 ^ 16)

/-- A write of TNSTAT clears the flags written as one. -/
def tnstatWrite (t : Tnstat) (w : RegW) : Tnstat :=
  { t with
    nonfinite := w.clr 0 t.nonfinite, intSat := w.clr 1 t.intSat, convSat := w.clr 2 t.convSat
    lxOvf := w.clr 3 t.lxOvf, lxInexact := w.clr 4 t.lxInexact }

/-- The OPAs in flight of a binding instance. -/
def instTasks (m : CellMem) (inst : Nat) : List Task := (m.ops.filter (fun o => o.inst == some inst)).filterMap taskOf

/-- An OPA of no steps that raised an exception at its dispatch holds the binding (R69, R180). -/
def instBad (m : CellMem) (inst : Nat) : Bool := m.ops.any (fun o => o.inst == some inst && o.bad && isOpa o)

/-- A spill of the tile waits or is due: of an OPA at its spill point, or of a SPILL that stands at the head of its chain (R80). -/
def accSpills (x : CellAll) (pt inst : Nat) : Bool :=
  (instTasks x.m inst).any Task.needSpill || x.m.ops.any (fun o => o.inst == some inst && spillWants x o pt)

/-- ACCSTAT.STATE (Table 3.5); what an OPA or a spill does now goes before the end of the binding (assumption 40). DESIGN CHOICE
(assumption 106): a bound tile whose OPAs are WAITING or READY, of which Table 3.5 says nothing, is OPEN. -/
def accState (x : CellAll) (pt : Nat) : Nat :=
  let a := getAcc x.c pt
  match a.inst with
  | none => 0
  | some i =>
    let ts := instTasks x.m i
    let bound := decide (getName x.c a.ctx a.an = .bound i)
    if accSpills x pt i then 3
    else if ts.any (fun t => t.st == .running) then 2
    else if !bound then 4
    else if ts.any (fun t => t.st == .stopped) || instBad x.m i then 5
    else 1

/-- ACCSTAT (Table 3.4). -/
def accWord (x : CellAll) (pt : Nat) : Nat :=
  let a := getAcc x.c pt
  accState x pt + 2 ^ 3 * a.ctx + 2 ^ 5 * a.an + 2 ^ 8 * b2n a.typed + 2 ^ 9 * b2n a.itype + 2 ^ 10 * b2n a.repro
    + 2 ^ 11 * b2n a.img.isSome + 2 ^ 12 * a.img.getD 0 + 2 ^ 16 * a.spillN

/-- CASKSTAT (Table 3.10). -/
def caskWord (k : Cask) : Nat := k.window % 2 ^ 10 + 2 ^ 10 * b2n k.isOpen + 2 ^ 11 * k.owner + 2 ^ 13 * k.an + 2 ^ 16 * k.pt

/-- TSLOT_CFG (Table 4.5) and TSLOT_ST (Table 4.6). -/
def tslotCfgWord (x : Slot) : Nat :=
  x.fmt + 2 ^ 5 * x.rows + 2 ^ 12 * x.cols + 2 ^ 19 * x.saxis + 2 ^ 21 * x.base + 2 ^ 28 * x.words
def tslotStWord (x : CellAll) (t : Nat) : Nat :=
  let y := getTslot x.c t
  slotState x t + 4 * b2n y.filled + 8 * b2n y.srcValid + 16 * b2n (tcfgWaits x.m t) + 2 ^ 8 * (y.gen % 256)

/-- ENG_CTL (Table 3.11). DESIGN CHOICE (assumption 89): an engine has an OPA in flight while a task of one of its tiles is RUNNING;
READY and STOPPED tasks, of which Table 3.11 does not speak, are not counted. -/
def engWord (x : CellAll) : Nat :=
  x.c.engEn.toNat + ((List.range 4).foldl (fun n e =>
    n + b2n (!(engTasks x e (fun t => t.st == .running)).isEmpty) * 2 ^ (8 + e)) 0)

/-- SCHED_CTL (Table 5.3). -/
def schedWord (d : Sched) : Nat :=
  b2n d.mode + 2 ^ 4 * d.wF + 2 ^ 8 * d.wB + 2 ^ 12 * d.wU + 2 ^ 16 * d.p1 + 2 ^ 18 * d.p2 + 2 ^ 20 * d.p3

/-- The tile tasks of a state. -/
def tasksIn (m : CellMem) (st : TaskSt) : Nat := ((m.ops.filterMap taskOf).filter (fun t => t.st == st)).length

/-- TT_OCC and TT_CTX (Tables 5.4, 5.5). -/
def ttOccWord (m : CellMem) : Nat :=
  tasksIn m .waiting + 2 ^ 16 * tasksIn m .ready + 2 ^ 32 * tasksIn m .running + 2 ^ 36 * tasksIn m .stopped
def ttCtxWord (m : CellMem) : Nat := tasksHeld m 0 + 2 ^ 16 * tasksHeld m 1 + 2 ^ 32 * tasksHeld m 2

/-- A request of the cell waits at its gate for a grant (R136). -/
def extPending (s : State) (c : CellLoc) : Bool :=
  let group := groupOf c.site
  (getGate (getDie s c.die) group).reqs.any (fun r => grantCell s c.die r == some c.site && grantLive s c.die group r)

/-- An internal access waits for the port: one that the end of a grant left, or a move that a grant holds (R136). -/
def intWait (x : CellAll) : Bool := intWaiting x || (x.c.grant.isSome && x.m.ops.any (wantsPort x))

/-- STORE_ST (Table 5.7). -/
def storeStWord (s : State) (c : CellLoc) : Nat :=
  let x := getCell s c
  b2n x.c.grant.isSome + 2 * b2n (extPending s c) + 4 * b2n (intWait x) + 8 * ((x.c.grant.map Grant.kind).getD 0 % 8)

/-- CELL_ST (Table 15.10). -/
def cellStWord (k : Cell) : Nat := fnWord k.fn + 8 * b2n k.initBusy

/-- DQ_ST of a pass context (Table 5.1). -/
def dqWord (k : Cell) (ctx : Nat) : Nat :=
  (List.range 8).foldl (fun n q => n + (tabGet [] k.queues (ctx * 8 + q)).length * 2 ^ (8 * q)) 0

def ctxNf (k : Cell) : Nat → Bool
  | 0 => k.ctxNfF
  | 1 => k.ctxNfB
  | _ => k.ctxNfU

def setCtxNf (k : Cell) (ctx : Nat) (b : Bool) : Cell :=
  match ctx with
  | 0 => { k with ctxNfF := b }
  | 1 => { k with ctxNfB := b }
  | _ => { k with ctxNfU := b }

/-- SFLT_INFO (Table 4.8); STREAM reads its Reset column until a record has been written. -/
def sfltWord (f : Sflt) (ctx : Nat) : Nat :=
  f.kind % 16 + 2 ^ 4 * f.slot + 2 ^ 10 * f.row + 2 ^ 17 * b2n f.store + 2 ^ 18 * (if f.kind = 0 then 0 else ctx) + 2 ^ 20 * b2n f.more + 2 ^ 21 * b2n f.valid
    + 2 ^ 22 * b2n f.actIgnored

/-- The registers of a stream (Table 19.15), by slot; the SFLT slots of execute streams are empty. -/
def streamReg (s : State) (l : StreamLoc) (i : Nat) : Nat :=
  let t := getStream s l
  match i with
  | 0 => streamStWord t
  | 1 => t.pc.toNat
  | 2 => t.excPc.toNat
  | 4 => t.sr.toNat
  | 5 | 6 | 7 | 8 => ((scrValue s l (i - 4)).map BitVec.toNat).getD 0
  | 9 => cellId s (cellOf l)
  | 10 => ((scrValue s l 9).map BitVec.toNat).getD 0
  | 11 => if isExec l.stream then 0 else sfltWord t.sflt (ctxOf l.stream)
  | 12 => if isExec l.stream then 0 else t.sflt.va
  | 13 => if isExec l.stream then 0 else t.sflt.pc
  | _ => 0

/-- DTAB_XMIN, DTAB_CTL and DTAB_C0 to DTAB_C255 (Tables 6.10, 6.11). -/
def dtabReg (t : Dtab) (i : Nat) : Nat :=
  match i with
  | 0 => t.xmin.toNat
  | 1 => t.sw.toNat + 2 ^ 8 * b2n t.extrap + 2 ^ 9 * b2n t.valid
  | _ => if i < 258 then (tabGet 0 t.coef (i - 2)).toNat else 0

/-! ### Counter sets (R438, R439) -/

/-- CNT_CTL (Table 17.2). -/
def cntCtlWord (c : CntSet) : Nat := b2n c.en + 2 * b2n c.hold + 8 * b2n c.ovfIrq + 16 * b2n c.lost

def counterWord (c : Counter) : Nat := c.count.toNat + 2 ^ 48 * b2n c.ovf + 2 ^ 49 * c.ext.toNat

/-- Setting HOLD captures every counter; the captured values stay until HOLD is set again. -/
def holdSet (c : CntSet) (hold : Bool) : CntSet := if hold && !c.hold then { c with hold := true, view := c.counters } else { c with hold := hold }

/-- A write of CNT_CTL. -/
def cntCtlWrite (c : CntSet) (w : RegW) : CntSet :=
  let v := w.over (cntCtlWord c)
  let c := holdSet { c with en := bit v 0, ovfIrq := bit v 3, lost := w.clr 4 c.lost } (bit v 1)
  if w.one 2 then { c with counters := [] } else c

/-- A write of a counter acts on the live OVF and EXT. -/
def counterWrite (c : CntSet) (i : Nat) (w : RegW) : CntSet :=
  let k := tabGet {} c.counters i
  let k' := { k with ovf := w.clr 48 k.ovf, ext := BitVec.ofNat 15 (fld (w.over (counterWord k)) 63 49) }
  { c with counters := tabSet {} c.counters i k' }

/-- The registers of a counter set with `n` counters: CNT_CTL, then the counters, the held view while HOLD is set. Counters of a
confidential partition's units read as zero (Table 16.21). -/
def cntReg (c : CntSet) (secret : Bool) (n i : Nat) : Nat :=
  if i = 0 then cntCtlWord c
  else if n < i || secret then 0
  else counterWord (tabGet {} (if c.hold then c.view else c.counters) (i - 1))

def cntWrite (c : CntSet) (n i : Nat) (w : RegW) : CntSet :=
  if i = 0 then cntCtlWrite c w else if i ≤ n then counterWrite c (i - 1) w else c

def modSet (s : State) (d : DieId) (k : Nat) (f : CntSet → CntSet) : State := modDie s d (fun x => setSet x k (f (getSet x k)))

/-- The units of the cell belong to a confidential partition. -/
def cellSecret (s : State) (c : CellLoc) : Bool := (ownerCell s c).any (confidential s)

/-- The counter set of a cell at an offset of its block: its key, counters and slot. -/
def cellSet (site off : Nat) : Option (Nat × Nat × Nat) :=
  if 0x8000 ≤ off ∧ off < 0x8400 then some (setEngine site ((off - 0x8000) / 0x100), 10, off % 0x100 / 8)
  else if 0x8400 ≤ off ∧ off < 0x8A00 then some (setStream site ((off - 0x8400) / 0x100), 10, off % 0x100 / 8)
  else if 0x8A00 ≤ off ∧ off < 0x8B00 then some (setCellSet site, 6, off % 0x100 / 8)
  else none

/-! ### The block -/

/-- The streams' registers lie at these offsets. -/
def streamOff (off : Nat) : Bool := decide (0x2000 ≤ off) && decide (off < 0x2600)

/-- What the slot at an offset of a cell's block holds (Table 19.15); a slot with no register reads as zero (R473). -/
def cellWord (s : State) (c : CellLoc) (off : Nat) : Nat :=
  let x := getCell s c
  let i := off / 8
  if off = 0x00 then b2n x.c.fn.en
  else if off = 0x08 then cellStWord x.c
  else if off = 0x10 then engWord x
  else if off = 0x18 then schedWord x.c.sched
  else if off = 0x20 then x.c.minGap.toNat
  else if off = 0x28 then storeStWord s c
  else if off = 0x30 then ttOccWord x.m
  else if off = 0x38 then ttCtxWord x.m
  else if off = 0x40 then x.m.perrRetried.toNat + 2 ^ 16 * x.m.perrFailed.toNat
  else if 0x100 ≤ off ∧ off < 0x118 then dqWord x.c (i - 0x20)
  else if 0x118 ≤ off ∧ off < 0x130 then b2n (ctxNf x.c (i - 0x23))
  else if 0x200 ≤ off ∧ off < 0x280 then (tabGet 0 x.c.sems (i - 0x40)).toNat
  else if 0x400 ≤ off ∧ off < 0x440 then accWord x (i - 0x80)
  else if 0x440 ≤ off ∧ off < 0x460 then caskWord (getCask x.c (i - 0x88))
  else if 0x800 ≤ off ∧ off < 0x840 then tnstatWord (getAcc x.c (i - 0x100)).stat
  else if 0x840 ≤ off ∧ off < 0xA40 then tnstatWord (getStat x.c (i - 0x108))
  else if 0x1000 ≤ off ∧ off < 0x1200 then tslotCfgWord (getTslot x.c (i - 0x200))
  else if 0x1200 ≤ off ∧ off < 0x1400 then tslotStWord x (i - 0x240)
  else if streamOff off then streamReg s { die := c.die, site := c.site, stream := (off - 0x2000) / 0x100 } (off % 0x100 / 8)
  else if 0x3000 ≤ off ∧ off < 0x4000 then dtabReg x.m.ftab (i - 0x600)
  else if 0x4000 ≤ off ∧ off < 0x5000 then dtabReg x.m.dtab (i - 0x800)
  else match cellSet c.site off with
    | some (k, n, j) => cntReg (getSet (getDie s c.die) k) (cellSecret s c) n j
    | none => 0

/-- A read clears the RC fields that it covers: LX_UNDER of TNSTAT and both fields of TREG_PERR. -/
def cellClear (s : State) (c : CellLoc) (off : Nat) (w : RegW) : State :=
  let i := off / 8
  if !w.low then s
  else if off = 0x40 then modM s c (fun m => { m with perrRetried := 0, perrFailed := 0 })
  else if 0x800 ≤ off ∧ off < 0x840 then modC s c (fun k =>
    let a := getAcc k (i - 0x100)
    setAcc k (i - 0x100) { a with stat := { a.stat with lxUnder := 0 } })
  else if 0x840 ≤ off ∧ off < 0xA40 then modC s c (fun k => setStat k (i - 0x108) { getStat k (i - 0x108) with lxUnder := 0 })
  else s

/-- A write of a stream's register. -/
def streamRegWrite (s : State) (l : StreamLoc) (i : Nat) (w : RegW) : State :=
  let t := getStream s l
  let act := fld (w.over 0) 2 0
  match i with
  | 0 => modStream s l (fun t => { t with nonfinite := w.clr 9 t.nonfinite, actIgnored := w.clr 10 t.actIgnored })
  | 1 => if w.low then writePc s l (w.over 0) else s
  | 3 => if w.low && decide (1 ≤ act) && decide (act ≤ 5) then streamActWrite s l act else s
  | 4 => writeSr s l (BitVec.ofNat 64 (w.over t.sr.toNat))
  | 11 => if isExec l.stream then s else modStream s l (fun t =>
      { t with sflt := { t.sflt with actIgnored := w.clr 22 t.sflt.actIgnored } })
  | 14 => if isExec l.stream || !w.low then s else sfltAct s l (fld (w.over 0) 1 0)
  | _ => s

/-! ### Accesses that wait (R17, R175, R472) -/

/-- The table and register number that an offset of a cell's block names. -/
def dtabAt (off : Nat) : Option (Bool × Nat) :=
  if 0x3000 ≤ off ∧ off < 0x3810 then some (false, off / 8 - 0x600)
  else if 0x4000 ≤ off ∧ off < 0x4810 then some (true, off / 8 - 0x800)
  else none

/-- A write at the offset is held back: it is one of a table that a DRAIN or EW uses (R175). -/
def writeHeld (m : CellMem) (off : Nat) : Bool := (dtabAt off).any (fun p => tableUsed m p.1)

/-- A write of CELL_CTL: the enable, then INIT (R400, R402). -/
def cellCtlWrite (s : State) (c : CellLoc) (w : RegW) : State :=
  let s := writeCellEn s c (w.one 0)
  if w.one 1 then writeCellInit s c else s

/-- A write of a slot of the cell's block takes effect, under the access codes of its fields. -/
def cellPut (s : State) (c : CellLoc) (off : Nat) (w : RegW) : State :=
  let x := getCell s c
  let i := off / 8
  if streamOff off then streamRegWrite s { die := c.die, site := c.site, stream := (off - 0x2000) / 0x100 } (off % 0x100 / 8) w
  else match cellSet c.site off, dtabAt off with
    | some (k, n, j), _ => modSet s c.die k (fun x => cntWrite x n j w)
    | none, some (deriv, n) => if w.low then putDtab s c deriv n (BitVec.ofNat 32 (w.over 0)) else s
    | none, none =>
      if !w.low then s
      else if off = 0x00 then cellCtlWrite s c w
      else if off = 0x10 then writeEng s c (w.over x.c.engEn.toNat)
      else if off = 0x18 then writeSched s c (w.over (schedWord x.c.sched))
      else if off = 0x20 then modC s c (fun k => { k with minGap := BitVec.ofNat 8 (w.over 0) })
      else if 0x118 ≤ off ∧ off < 0x130 then modC s c (fun k => setCtxNf k (i - 0x23) (w.clr 0 (ctxNf k (i - 0x23))))
      else if 0x200 ≤ off ∧ off < 0x280 then modC s c (fun k => setSem k (i - 0x40) (w.over 0 % 256))
      else if 0x800 ≤ off ∧ off < 0x840 then modC s c (fun k =>
        let a := getAcc k (i - 0x100)
        setAcc k (i - 0x100) { a with stat := tnstatWrite a.stat w })
      else if 0x840 ≤ off ∧ off < 0xA40 then modC s c (fun k => setStat k (i - 0x108) (tnstatWrite (getStat k (i - 0x108)) w))
      else s

/-- A write that reaches the cell: it takes effect, or waits behind earlier accesses or for its table; false while it waits. -/
def cellWrite (s : State) (agent : Nat) (c : CellLoc) (off : Nat) (w : RegW) : State × Bool :=
  if cellHeld s c || writeHeld (getCell s c).m off then
    (holdAccess s c { agent := agent, write := true, off := off, mask := w.mask, val := w.val }, false)
  else (cellPut s c off w, true)

/-- An access of a broadcast waits in some other cell of the die; such accesses carry 256 times the broadcast's number (R17). -/
def heldElsewhere (d : Die) (a : Nat) : Bool := decide (256 ≤ a) && d.cells.any (fun e => e.2.m.access.any (fun p => p.agent == a))

/-- A waiting access takes effect, and its answer goes to who made it. -/
def serveAccess (s : State) (c : CellLoc) (a : CellAccess) : State :=
  let w : RegW := { mask := a.mask, val := a.val }
  let v := regPart a.off a.size (cellWord s c (a.off / 8 * 8))
  let t := if a.write then cellPut s c a.off w else cellClear s c (a.off / 8 * 8) (regW a.off a.size 0)
  match a.tag with
  | some tag => emit t (.cpl (dieNum c.die) tag 0 (if a.write then [] else leBytes a.size v))
  | none =>
    if heldElsewhere (getDie t c.die) a.agent then t
    else emit t (if a.write then .ack (a.agent % 256) else .readData (a.agent % 256) (BitVec.ofNat 64 v))

/-- The accesses that wait at a cell are served in order, up to a table write that is still held back. -/
def serveCell : Nat → State → CellLoc → State
  | 0, s, _ => s
  | n + 1, s, c =>
    match (getCell s c).m.access with
    | [] => s
    | a :: r =>
      if a.write && writeHeld (getCell s c).m a.off then s
      else serveCell n (serveAccess (modM s c (fun m => { m with access := r })) c a) c

/-- Every cell of a die serves the accesses that wait there. -/
def serveDie (s : State) (d : DieId) : State :=
  ((getDie s d).cells.filter (fun e => !e.2.m.access.isEmpty)).foldl (fun s e =>
    serveCell e.2.m.access.length s { die := d, site := e.1 }) s
def serveAccesses (s : State) : State := serveDie (serveDie s .cd0) .cd1

/-- The result of a DRAIN, a RED of a name or an EW is written; table writes that waited for it take effect (R77, R164, R175). -/
def execDrainResultWrite (c : CellLoc) (op : Nat) (s : State) : Res :=
  let s1 := drainWrite s c op
  nx (serveCell (getCell s1 c).m.access.length s1 c)

end Sys2Proof.Machine
end

