-- ==== Sys2Proof/Machine/Ed448.lean ====
section
/-! DEFINITION. Pure Ed448 signatures with a context string, as RFC 8032 prescribes (R423; assumption 30). -/

namespace Sys2Proof.Machine

/-- The field prime, the curve constant d = −39081, and the order of the base point. -/
def edP : Nat := 2 ^ 448 - 2 ^ 224 - 1
def edD : Nat := edP - 39081
def edL : Nat := 2 ^ 446 - 13818066809895115352007386748515426880336692474882178609894547503885

/-- A point in projective coordinates. -/
structure EdPoint where
  x : Nat
  y : Nat
  z : Nat
  deriving DecidableEq, Repr

def edSub (a b : Nat) : Nat := (a + edP - b % edP) % edP

/-- Addition on x² + y² = 1 + d x² y². -/
def edAdd (p q : EdPoint) : EdPoint :=
  let a := p.z * q.z % edP
  let b := a * a % edP
  let c := p.x * q.x % edP
  let d := p.y * q.y % edP
  let e := edD * (c * d % edP) % edP
  let f := edSub b e
  let g := (b + e) % edP
  { x := a * f % edP * edSub (edSub ((p.x + p.y) * (q.x + q.y) % edP) c) d % edP
    y := a * g % edP * edSub d c % edP
    z := f * g % edP }

def edZero : EdPoint := { x := 0, y := 1, z := 1 }

def edBase : EdPoint := {
  x := 224580040295924300187604334099896036246789641632564134246125461686950415467406032909029192869357953282578032075146446173674602635247710
  y := 298819210078481492676017930443930673437544040154080242095928241372331506189835876003536878655418784733982303233503462500531545062832660
  z := 1 }

/-- A multiple of a point, from the highest bit of 456. -/
def edMul (n : Nat) (p : EdPoint) : EdPoint :=
  (List.range 456).reverse.foldl (fun acc i => let d := edAdd acc acc; if n.testBit i then edAdd d p else d) edZero

/-- A power in the field. -/
def edPow (b n : Nat) : Nat :=
  (List.range 456).reverse.foldl (fun acc i => let d := acc * acc % edP; if n.testBit i then d * b % edP else d) 1

def edInv (a : Nat) : Nat := edPow a (edP - 2)

/-- A point as 57 bytes: y, with the low bit of x on top. -/
def edEncode (p : EdPoint) : List Byte :=
  let i := edInv p.z
  leBytes 57 (p.y * i % edP + 2 ^ 455 * (p.x * i % edP % 2))

/-- The point of 57 bytes, if they name one. -/
def edDecode (bs : List Byte) : Option EdPoint :=
  let n := leNat bs
  let y := n % 2 ^ 455
  let sign := n / 2 ^ 455
  if bs.length ≠ 57 ∨ edP ≤ y then none
  else
    let u := edSub (y * y % edP) 1
    let v := edSub (edD * (y * y % edP) % edP) 1
    let u3v := u * u % edP * u % edP * v % edP
    let x := u3v * edPow (u3v * u % edP * u % edP * v % edP * v % edP) ((edP - 3) / 4) % edP
    if v * (x * x % edP) % edP ≠ u then none
    else if x = 0 ∧ sign = 1 then none
    else some { x := if x % 2 = sign then x else edP - x, y := y, z := 1 }

/-- The ASCII bytes of a text. -/
def ascii (t : String) : List Byte := t.toList.map (fun c => BitVec.ofNat 8 c.toNat)

/-- The prefix of every hash under a context. -/
def edDom (ctx : List Byte) : List Byte := ascii "SigEd448" ++ [0, BitVec.ofNat 8 ctx.length] ++ ctx

/-- The secret scalar and the prefix of a private key. -/
def edSecret (key : List Byte) : Nat × List Byte :=
  let h := shake256 114 key
  let s := leNat (h.take 56)
  (s - s % 4 - (if s.testBit 447 then 2 ^ 447 else 0) + 2 ^ 447, h.drop 57)

def edPublic (key : List Byte) : List Byte := edEncode (edMul (edSecret key).1 edBase)

def edHash (bs : List Byte) : Nat := leNat (shake256 114 bs) % edL

def edSign (key ctx msg : List Byte) : List Byte :=
  let s := edSecret key
  let pub := edPublic key
  let r := edHash (edDom ctx ++ s.2 ++ msg)
  let big := edEncode (edMul r edBase)
  let k := edHash (edDom ctx ++ big ++ pub ++ msg)
  big ++ leBytes 57 ((r + k * s.1) % edL)

/-- Two points are the same. -/
def edEq (p q : EdPoint) : Bool := p.x * q.z % edP == q.x * p.z % edP && p.y * q.z % edP == q.y * p.z % edP

def edVerify (pub ctx msg sig : List Byte) : Bool :=
  match edDecode pub, edDecode (sig.take 57) with
  | some a, some r =>
    let s := leNat (sig.drop 57)
    let k := edHash (edDom ctx ++ sig.take 57 ++ pub ++ msg)
    sig.length == 114 && decide (s < edL)
      && edEq (edMul 4 (edMul s edBase)) (edMul 4 (edAdd r (edMul k a)))
  | _, _ => false

end Sys2Proof.Machine
end

