-- ==== Sys2Proof/Machine/TimeSync.lean ====
section
/-! DEFINITION. How the module's timebase follows time outside it: offsets, the one step, slewing and LOCKED (R385, R387, R388). -/

namespace Sys2Proof.Machine

/-- A value in two's complement of `w` bits, saturating. -/
def satSigned (w : Nat) (x : Int) : Nat :=
  let hi : Int := (2 ^ (w - 1) : Nat)
  unsigned w (if x < -hi then -hi else if hi - 1 < x then hi - 1 else x)

def modTime (s : State) (f : HdTime → HdTime) : State := { s with hd := { s.hd with time := f s.hd.time } }

/-- A timebase moved by a number of nanoseconds. -/
def moveTb (tb : Nat) (n : Int) : Nat := unsigned 64 ((tb : Int) + n)

/-- The die's timebase counts: from the start of its die manager on, also through the stages of its return from reset (R385, R405). -/
def dieTimed (x : Die) : Bool := x.clk.running || decide (x.clk.stage ≠ 0)

/-- The module's timebase moves; compute dies follow it (R385). -/
def moveTime (s : State) (n : Int) : State :=
  let f := fun (x : Die) => if dieTimed x then { x with clk := { x.clk with tb := moveTb x.clk.tb n } } else x
  { modTime s (fun t => { t with tb := moveTb t.tb n }) with cd0 := f s.cd0, cd1 := f s.cd1 }

/-- A record of class CLOCK. -/
def recClock (s : State) (w : Option DieId) (code : Nat) : State := logErr s w { cls := 9, code := code, unitKind := 0x0B }

/-- LOCKED after one more offset: 16 in a row within 4 ns set it, 16 in a row above 64 ns clear it with a record (R388). -/
def judgeOffset (s : State) (off : Int) : State :=
  let t := s.hd.time
  let good := if off.natAbs ≤ 4 then min 16 (t.good + 1) else 0
  let bad := if 64 < off.natAbs then min 16 (t.bad + 1) else 0
  let s := modTime s (fun t => { t with good := good, bad := bad, locked := (t.locked || good == 16) && bad != 16 })
  if t.locked && bad == 16 then recClock s none 4 else s

/-- Slew of one reference in hundredths of a nanosecond: half the offset, at most 0.82 ns (R387, R388). -/
def slewOf (off : Int) : Int := max (-82) (min 82 (-(off * 50)))

/-- A reference with an offset is taken: the first steps the timebase, later ones slew it (R388). -/
def takeReference (s : State) (off : Int) : State :=
  let first := s.hd.time.first
  let s := modTime s (fun t => { t with
    offset := BitVec.ofNat 16 (satSigned 16 off), holdover := false, first := false
    step := if first then BitVec.ofNat 32 (satSigned 32 (-off)) else t.step
    stepped := t.stepped || first
    slew := if first then 0 else t.slew + slewOf off })
  let s := judgeOffset (if first then moveTime s (-off) else s) off
  modTime s (fun t => { t with lastRef := t.tb })

end Sys2Proof.Machine
end

