-- ==== Sys2Proof/Machine/Chain.lean ====
section
/-! DEFINITION. Chain ports as receivers, acknowledgement and retransmission, peer entries, credits, marks and requests between
modules (R356 to R362, R370, R388, R389). -/

namespace Sys2Proof.Machine

/-! ### Failing and clearing an entry (R358) -/

/-- Lines that a held frame carries for a far output. -/
def frameLines (f : Frame) : Nat := if f.type = 1 then f.payload.length / 256 else if f.type = 2 then 1 else 0

/-- Lines counted as sent, without those of the frames discarded. -/
def unsend (t : Tab Nat) (hs : List Held) : Tab Nat :=
  hs.foldl (fun t h => tabSet 0 t h.f.chan ((tabGet 0 t h.f.chan + 2 ^ 32 - frameLines h.f) % 2 ^ 32)) t

/-- The entry's frames are discarded and its transfers fault with PEER_FAIL; what has not been acknowledged of the items that were
being sent waits again (R358, R360). -/
def discardPeer (s : State) (d : DieId) (idx : Nat) : State :=
  let s := (chainSenders s d idx).foldl (fun s a =>
    (List.range (stNin a.bill a.st)).foldl (fun s i =>
      if (cpIn a i).1 = idx then stMod s a 0 (fun x => { x with sentItems := tabSet 0 x.sentItems i 0, sentLines := tabSet 0 x.sentLines i (tabGet 0 x.ackLines i) })
      else s) s) s
  runRings (modPeer s d idx (fun p => { p with
    linesSent := unsend p.linesSent p.unacked, unacked := [], tries := 0, ackDue := false, partial_ := [], reqHeld := []
    txns := p.txns.map (fun t => if t.done.isNone then { t with done := some (kPeerFail, []) } else t) })) d

/-- The chain ports of enabled Bills whose parameter block names an entry. -/
def chainStations (s : State) (d : DieId) (idx : Nat) : List StAt :=
  (getDie s d).slots.flatMap (fun e =>
    (billStations s d e.1 9).filter (fun a => (runningBill (getDie s d) e.1).isSome
      && ((List.range (stNin a.bill a.st)).any (fun i => (cpIn a i).1 == idx)
        || (List.range (stNout a.bill a.st)).any (fun o => (cpOut a o).1 == idx))))

/-- The entry becomes FAILED. -/
def failPeer (s : State) (d : DieId) (idx : Nat) : State :=
  let p := getPeer (getDie s d) idx
  let s := logErr s (some d) { cls := 8, code := 3, part := some p.part.toNat, unitKind := 7, unitIndex := idx, detail := idx }
  let as := chainStations s d idx
  let s := modPeer (discardPeer s d idx) d idx (fun p => { p with failed := true })
  as.foldl (fun s a => haltStation s a 5 7 idx) s

/-! ### Registers of an entry (Tables 13.11 to 13.13) -/

def peerCfgWord (p : Peer) : Nat :=
  p.mac.toNat + 2 ^ 48 * p.port.toNat + 2 ^ 52 * p.part.toNat + 2 ^ 56 * p.farPart.toNat + 2 ^ 60 * b2n p.memEn + 2 ^ 61 * b2n p.valid

/-- PEER_CFG: a VALID entry changes only VALID; setting VALID zeroes the sequence numbers (R357, R358). -/
def writePeerCfg (s : State) (d : DieId) (n : Nat) (w : RegW) : State :=
  let p := getPeer (getDie s d) n
  let v := w.over (peerCfgWord p)
  if p.valid then
    if bit v 61 then s else modPeer (discardPeer s d n) d n (fun p => { p with valid := false, failed := false })
  else
    let s := modPeer s d n (fun p => { p with
      mac := BitVec.ofNat 48 (fld v 47 0), port := BitVec.ofNat 4 (fld v 51 48), part := BitVec.ofNat 4 (fld v 55 52)
      farPart := BitVec.ofNat 4 (fld v 59 56), memEn := bit v 60 })
    if bit v 61 then modPeer s d n (fun p => { p with valid := true, failed := false, txNext := 0, rxExpect := 0, tries := 0, nackAt := none })
    else s

/-- PEER_ID: FAR_ID changes only while VALID is 0. -/
def writePeerId (s : State) (d : DieId) (n : Nat) (w : RegW) : State :=
  if (getPeer (getDie s d) n).valid then s
  else modPeer s d n (fun p => { p with farId := BitVec.ofNat 32 (w.over p.farId.toNat) })

def execPeerCfgWrite (agent : Nat) (d : DieId) (n : Nat) (v : W64) (s : State) : Res :=
  answer (reachesDie s agent d && decide (n < 4096)) agent s (writePeerCfg s d n { mask := 2 ^ 64 - 1, val := v.toNat })

/-! ### Receiving (R354, R358) -/

/-- The port's link carries frames. -/
def portTakes (x : Die) (port : Nat) : Bool :=
  decide (port < 16) && bit x.chain.linkUp port && cpClocked x port && (decide ((getCp x port).st = .on) || decide ((getCp x port).st = .draining))

/-- A frame is dropped and counted. -/
def chainDrop (s : State) (d : DieId) (port : Nat) : State :=
  let s := bump s d (setChain port) 4 1
  modDie s d (fun x => { x with chain := { x.chain with dropped := tabSet 0 x.chain.dropped port (tabGet 0 x.chain.dropped port + 1) } })

/-- The VALID entry that a frame belongs to. -/
def entryOf (x : Die) (port srcId : Nat) : Option Nat :=
  (x.peers.find? (fun e => e.2.valid && e.2.farId.toNat == srcId && e.2.port.toNat == port)).map Prod.fst

/-- What becomes of a received frame before its type counts. -/
inductive RecvR where
  | drop
  | bad (idx : Nat)
  | ok (idx : Nat)
  deriving DecidableEq, Repr

def judgeFrame (x : Die) (port : Nat) (f : Frame) : RecvR :=
  let v := portForce x port
  if f.etype ≠ v.2.2.2.1 then .drop
  else if f.dstId ≠ v.2.2.1 ∧ !(f.type == 6 && f.dstId == 0xFFFFFFFF) then .drop
  else match entryOf x port f.srcId with
    | none => .drop
    | some idx =>
      if frameCheck v.2.2.2.2 f ≠ f.check then .bad idx
      else .ok idx

/-- A NACK, at most one per entry in each 2 µs. -/
def sendNack (s : State) (d : DieId) (idx port : Nat) : State :=
  let now := timeOf s (some d)
  if (getPeer (getDie s d) idx).nackAt.any (fun t => decide (now < t + 2000)) then s
  else modPeer (bump (sendPlain s d idx 5 []) d (setChain port) 5 1) d idx (fun p => { p with nackAt := some now })

/-- SEQ `a` lies before `b` within a window of 2^31. -/
def seqBefore (a b : Nat) : Bool :=
  let k := (b + 2 ^ 32 - a % 2 ^ 32) % 2 ^ 32
  decide (0 < k) && decide (k < 2 ^ 31)

/-- Lines of an input have been acknowledged: they leave its buffer and are consumed, and the item leaves with its last (R360). -/
def consumeSent (s : State) (d : DieId) (key lines : Nat) (last : Bool) : State :=
  match rtAt s d (key / 65536) (key % 65536) with
  | none => s
  | some a =>
    let r := key % 65536
    let dst := dstOf a r
    let i := rtDstPort a.bill r
    let s := modRoute s d dst.slot r (fun x => { x with owed := x.owed + lines })
    if last then
      stMod (modRoute s d dst.slot r (fun x => { x with inbox := x.inbox.tail, taken := x.taken + 1 })) dst 0 (fun x => { x with
        order := x.order.erase r, ackLines := tabSet 0 x.ackLines i 0
        sentItems := tabSet 0 x.sentItems i (tabGet 0 x.sentItems i - 1) })
    else stMod s dst 0 (fun x => { x with ackLines := tabSet 0 x.ackLines i (tabGet 0 x.ackLines i + lines) })

/-- Every frame before ACK_SEQ is freed. -/
def freeAcked (s : State) (d : DieId) (idx ackSeq : Nat) : State :=
  let p := getPeer (getDie s d) idx
  let gone := p.unacked.takeWhile (fun h => seqBefore h.f.seq ackSeq)
  if gone.isEmpty then s
  else
    let s := modPeer s d idx (fun p => { p with unacked := p.unacked.drop gone.length, tries := 0 })
    gone.foldl (fun s h => if h.rt = 0 then s else consumeSent s d (h.rt - 1) h.lines h.last) s

/-- TYPEs that take a SEQ (Table 13.10). -/
def sequencedType (t : Nat) : Bool := t == 1 || t == 2 || t == 7 || t == 8

/-- A frame of a type arrives at a port; `act` is what the type does once the frame is accepted. -/
def recvFrame (s : State) (d : DieId) (port type : Nat) (f : Frame) (act : State → Nat → State) : State :=
  if f.type ≠ type ∨ !portTakes (getDie s d) port then s
  else
    let s := bump (bump s d (setChain port) 1 1) d (setChain port) 3 (frameBytes (portForce (getDie s d) port).2.2.2.2 f)
    match judgeFrame (getDie s d) port f with
    | .drop => chainDrop s d port
    | .bad idx => if sequencedType type then sendNack (chainDrop s d port) d idx port else chainDrop s d port
    | .ok idx =>
      let s := if bit f.hflags 2 then freeAcked s d idx f.ackSeq else s
      if !sequencedType type then act s idx
      else
        let p := getPeer (getDie s d) idx
        if f.seq % 2 ^ 32 = p.rxExpect.toNat then
          act (modPeer s d idx (fun p => { p with rxExpect := p.rxExpect + 1, ackDue := true })) idx
        else if seqBefore p.rxExpect.toNat f.seq then sendNack (chainDrop s d port) d idx port
        else sendPlain (chainDrop s d port) d idx 4 []

/-- The output of a chain port of an enabled Bill that accepts an entry's items, and its route (R359). -/
def chainReceiver (s : State) (d : DieId) (port idx chan : Nat) : Option (StAt × Nat) :=
  (getDie s d).slots.findSome? (fun e =>
    match (billStations s d e.1 9).find? (fun a => a.place == port) with
    | none => none
    | some a =>
      if (runningBill (getDie s d) e.1).isSome && decide (chan < stNout a.bill a.st) && (cpOut a chan).1 == idx && !stHalted s a then
        (routeAt a.bill a.st chan).map (fun r => (a, r))
      else none)

/-- Lines that a peer sent are discarded: their receive space is free (R360). -/
def freeLines (s : State) (d : DieId) (idx chan n : Nat) : State :=
  modPeer s d idx (fun p => { p with freed := tabSet 0 p.freed chan ((tabGet 0 p.freed chan + n) % 2 ^ 32) })

/-- An item or token reaches an output's route of its class; one of another class, or of no output, is discarded. -/
def chainPresent (s : State) (d : DieId) (port idx chan : Nat) (it : Item) : State :=
  match chainReceiver s d port idx chan with
  | none => freeLines (chainDrop s d port) d idx chan (itemLines it)
  | some (a, r) =>
    let cls := match it with
      | .token _ _ => 1
      | .tile _ _ _ => 0
    if rtClass a.bill r = cls then queueItem s d a.slot r it
    else freeLines (chainDrop s d port) d idx chan (itemLines it)

/-- A frame of an item: the item is presented when its LAST frame is held (R356). -/
def recvItem (s : State) (d : DieId) (port idx : Nat) (f : Frame) : State :=
  let p := getPeer (getDie s d) idx
  let held := if bit f.hflags 0 then some (f.ihdr, f.payload)
    else if p.partial_.any (fun e => e.1 == f.chan) then
      let h := tabGet (0, []) p.partial_ f.chan
      some (h.1, h.2 ++ f.payload)
    else none
  match held with
  | none => freeLines (chainDrop s d port) d idx f.chan (frameLines f)
  | some (h, bs) =>
    if bit f.hflags 1 then
      chainPresent (modPeer s d idx (fun p => { p with partial_ := tabSet (0, []) p.partial_ f.chan (0, []) })) d port idx f.chan
        (.tile (BitVec.ofNat 64 h) 0 bs)
    else modPeer s d idx (fun p => { p with partial_ := tabSet (0, []) p.partial_ f.chan (h, bs) })

def execItem (d : DieId) (port : Nat) (f : Frame) (s : State) : Res :=
  nx (recvFrame s d port 1 f (fun s idx => recvItem s d port idx f))

def execToken (d : DieId) (port : Nat) (f : Frame) (s : State) : Res :=
  nx (recvFrame s d port 2 f (fun s idx => chainPresent s d port idx f.chan
    (.token (BitVec.ofNat 32 (leNat (f.payload.take 4))) (BitVec.ofNat 64 (leNat ((f.payload.drop 4).take 8))))))

/-! ### Credits and acknowledgements (R358, R360) -/

/-- The more advanced of two totals modulo 2^32. -/
def advanced (old new : Nat) : Nat := if seqBefore old new then new else old

def recvCredit (s : State) (d : DieId) (idx : Nat) (f : Frame) : State :=
  let s := modPeer s d idx (fun p => { p with
    credTotal := (List.range 4).foldl (fun t c => tabSet 0 t c (advanced (tabGet 0 t c) (leNat ((f.payload.drop (4 * c)).take 4)))) p.credTotal })
  sendEntry s d idx

def execCredit (d : DieId) (port : Nat) (f : Frame) (s : State) : Res := nx (recvFrame s d port 3 f (fun s idx => recvCredit s d idx f))

def execAck (d : DieId) (port : Nat) (f : Frame) (s : State) : Res := nx (recvFrame s d port 4 f (fun s _ => s))

/-- Every held frame is sent again, with the ACK_SEQ of now, where the entry is UP. -/
def resendAll (s : State) (d : DieId) (idx : Nat) : State :=
  let p := getPeer (getDie s d) idx
  let port := p.port.toNat
  let cv := (portForce (getDie s d) port).2.2.2.2
  let again := p.unacked.map (fun h =>
    let f := { h.f with ackSeq := p.rxExpect.toNat }
    { h with f := { f with check := frameCheck cv f }, sentAt := timeOf s (some d) })
  let up := peerUp (getDie s d) idx
  let s := modPeer s d idx (fun p => { p with unacked := again, ackDue := p.ackDue && !up })
  if !up then s
  else bump (again.foldl (fun s h => putFrame s d port cv h.f) s) d (setChain port) 6 again.length

/-- A NACK or a time-out: the eighth in a row without an advance fails the entry; any other sends again. A FAILED entry holds no
frames. -/
def retryPeer (s : State) (d : DieId) (idx : Nat) (advancedNow : Bool) : State :=
  if (getPeer (getDie s d) idx).failed then s else
  let s := modPeer s d idx (fun p => { p with tries := if advancedNow then 0 else p.tries + 1 })
  if 8 ≤ (getPeer (getDie s d) idx).tries then failPeer s d idx else resendAll s d idx

/-- Frames that an entry holds. -/
def heldCount (s : State) (d : DieId) (idx : Nat) : Nat := (getPeer (getDie s d) idx).unacked.length

/-- A NACK: frames before ACK_SEQ are freed, and the rest is sent again. -/
def execNack (d : DieId) (port : Nat) (f : Frame) (s : State) : Res :=
  nx (recvFrame s d port 5 f (fun s1 idx =>
    let s2 := freeAcked s1 d idx f.ackSeq
    retryPeer s2 d idx (decide (heldCount s2 d idx < heldCount s d idx))))

/-- CP_CTL.RTO in nanoseconds (Table 13.25). -/
def rtoNs (x : Die) : Nat := 1000 * max 1 x.chain.rto.toNat

/-- The oldest frame that the entry holds has waited RTO for its acknowledgement. -/
def rtoDue (s : State) (d : DieId) (peer : Nat) : Bool :=
  (getPeer (getDie s d) peer).unacked.head?.any (fun h => decide (h.sentAt + rtoNs (getDie s d) ≤ timeOf s (some d)))

/-- A time-out, with the link up or down: the eighth in a row fails the entry, and one before it sends again what the link takes. -/
def execRtoTimeout (d : DieId) (peer : Nat) (s : State) : Res :=
  if rtoDue s d peer && (getPeer (getDie s d) peer).valid then nx (retryPeer s d peer false) else nx s

def execStandaloneAck (d : DieId) (peer : Nat) (s : State) : Res :=
  if (getPeer (getDie s d) peer).ackDue && peerUp (getDie s d) peer then nx (sendPlain s d peer 4 []) else nx s

/-- A CREDIT frame with the totals of the outputs that accept the entry. -/
def execCreditPeriodic (d : DieId) (peer : Nat) (s : State) : Res :=
  let p := getPeer (getDie s d) peer
  let named := (List.range 4).any (fun c => (chainReceiver s d p.port.toNat peer c).isSome)
  if named && peerUp (getDie s d) peer then
    let s1 := sendPlain s d peer 3 ((List.range 4).flatMap (fun c => leBytes 4 (tabGet 0 p.freed c)))
    nx (modPeer s1 d peer (fun p => { p with freedSent := p.freed }))
  else nx s

/-! ### Marks (R362, R388, R389) -/

/-- A capture of TB_MEAS: register `i` takes a value; DONE is set once nothing is awaited. -/
def measDoneNow (c : DieClk) : DieClk := if !c.measTx && !c.measRx then { c with measDone := true } else c

/-- The send time of the next mark on the port is captured. -/
def captureTx (s : State) (d : DieId) (port : Nat) : State :=
  modDie s d (fun x =>
    if x.clk.measTx && x.clk.measPort.toNat == port then
      { x with clk := measDoneNow { x.clk with measTx := false, meas := tabSet 0 x.clk.meas 0 (BitVec.ofNat 64 x.clk.tb) } }
    else x)

/-- The payload and the arrival time of the next mark received there are captured. -/
def captureRx (s : State) (d : DieId) (port payload : Nat) : State :=
  modDie s d (fun x =>
    if x.clk.measRx && x.clk.measPort.toNat == port then
      { x with clk := measDoneNow { x.clk with
        measRx := false
        meas := tabSet 0 (tabSet 0 x.clk.meas 1 (BitVec.ofNat 64 payload)) 2 (BitVec.ofNat 64 x.clk.tb) } }
    else x)

def recvMark (s : State) (d : DieId) (port idx : Nat) (f : Frame) : State :=
  let t := s.hd.time
  let payload := leNat (f.payload.take 8)
  let arrival := timeOf s (some d)
  let s := captureRx s d port payload
  if t.mode = 2 ∧ t.die = decide (d = .cd1) ∧ t.port.toNat = port ∧ t.peer.toNat = idx then
    takeReference s ((arrival : Int) - t.delay.toNat - payload)
  else s

def execMark (d : DieId) (port : Nat) (f : Frame) (s : State) : Res := nx (recvFrame s d port 6 f (fun s idx => recvMark s d port idx f))

/-- The port's partition is being scrubbed: it sends idle ordered sets only, and no MARK (R427, R429). -/
def portScrubbed (s : State) (d : DieId) (port : Nat) : Bool :=
  (ownerInst s d .chainPort port).any (fun p => decide ((getSec s p).st = .scrubbing))

/-- A port sends its mark. -/
def execMarkSend (d : DieId) (port : Nat) (s : State) : Res :=
  let x := getDie s d
  let dst := (tabGet 0 x.chain.markDst port).toNat
  if !portTakes x port || dst == 0 || portScrubbed s d port then nx s
  else
    let v := portForce x port
    let f0 : Frame := {
      dstMac := dst, srcMac := v.2.1, etype := v.2.2.2.1, ver := 1, type := 6, srcId := v.2.2.1, dstId := 0xFFFFFFFF
      seq := 0, ackSeq := 0, chan := 0, hflags := 0, part := 0, ihdr := 0, payload := leBytes 8 x.clk.tb, check := 0 }
    nx (putFrame (captureTx s d port) d port v.2.2.2.2 { f0 with check := frameCheck v.2.2.2.2 f0 })

/-! ### Requests between modules (R361) -/

/-- A MEM_RSP on an entry. -/
def respond (s : State) (d : DieId) (idx tag status : Nat) (data : List Byte) : State :=
  sendSeq s d idx (getPeer (getDie s d) idx).part.toNat 8 0 0 0 (leBytes 2 tag ++ leBytes 1 status ++ List.replicate 13 0 ++ data) 0

/-- The checks of R361 in order. -/
def reqAllowed (s : State) (d : DieId) (p : Peer) (f : Frame) (hpa len : Nat) : Bool :=
  p.memEn && f.part % 16 == p.farPart.toNat && decide (hpa < 2 ^ 40) && decide (hpaDie hpa = d)
    && inRegion (getDie s d) p.part.toNat (hpaOff hpa) len

def serveReq (s : State) (d : DieId) (idx : Nat) (f : Frame) : State :=
  let p := getPeer (getDie s d) idx
  let hpa := leNat (f.payload.take 8)
  let len := leNat ((f.payload.drop 8).take 2) + 1
  let tag := leNat ((f.payload.drop 10).take 2)
  let data := f.payload.drop 16
  let answer := fun (k : Nat) =>
    if k = kUncorr then respond (recHostUncorr s (some p.part.toNat) hpa len (!data.isEmpty)) d idx tag 2 [] else respond s d idx tag 1 []
  if !reqAllowed s d p f hpa len ∨ 8192 < 16 + len then respond s d idx tag 1 []
  else if data.isEmpty then
    match readPhys s d hpa len with
    | .ok bs => respond s d idx tag 0 bs
    | .error k => answer k
  else if data.length ≠ len then respond s d idx tag 1 []
  else match writePhys s d hpa data with
    | .ok s1 => respond s1 d idx tag 0 []
    | .error k => answer k

/-- A request waits while the die's memory controllers change their rate, and behind those that do (R300). -/
def takeReq (s : State) (d : DieId) (idx : Nat) (f : Frame) : State :=
  if hbmStopped (getDie s d) || !(getPeer (getDie s d) idx).reqHeld.isEmpty then modPeer s d idx (fun p => { p with reqHeld := p.reqHeld ++ [f] })
  else serveReq s d idx f

/-- The requests that waited are served in their order. -/
def serveHeldReqs (s : State) (d : DieId) : State :=
  (getDie s d).peers.foldl (fun s e =>
    (e.2.reqHeld).foldl (fun s f => serveReq s d e.1 f) (modPeer s d e.1 (fun p => { p with reqHeld := [] }))) s

def execMemReq (d : DieId) (port : Nat) (f : Frame) (s : State) : Res := nx (recvFrame s d port 7 f (fun s idx => takeReq s d idx f))

/-- The fault kind of a STATUS (R361). -/
def statusKind (n : Nat) : Nat := if n = 0 then 0 else if n = 1 then kAccess else kPeerFail

/-- An answer to a request; a completion ring that waited for it goes on (R246). -/
def recvRsp (s : State) (d : DieId) (idx : Nat) (f : Frame) : State :=
  let tag := leNat (f.payload.take 2)
  let st := leNat ((f.payload.drop 2).take 1)
  runRings (modPeer s d idx (fun p => { p with
    txns := p.txns.map (fun t => if t.tag = tag ∧ t.done.isNone then { t with done := some (statusKind st, f.payload.drop 16) } else t) })) d

def execMemRsp (d : DieId) (port : Nat) (f : Frame) (s : State) : Res := nx (recvFrame s d port 8 f (fun s idx => recvRsp s d idx f))

/-! ### Other frames, and the link -/

/-- A frame of reserved TYPE, or a PAUSE, PFC or VLAN frame, is dropped and counted. -/
def execReservedFrameType (d : DieId) (port : Nat) (_f : Frame) (s : State) : Res :=
  if portTakes (getDie s d) port then nx (chainDrop (bump s d (setChain port) 1 1) d port) else nx s

/-- The link of a port that is ON or DRAINING goes down or comes back. -/
def execChainLinkStateChange (d : DieId) (port : Nat) (up : Bool) (s : State) : Res :=
  let st := (getCp (getDie s d) port).st
  if decide (port < 16) && (decide (st = .on) || decide (st = .draining)) then
    let s := setLink_ s d port up
    nx (if up then ((getDie s d).peers.filter (fun e => e.2.port.toNat == port)).foldl (fun s e => sendEntry s d e.1) s else s)
  else nx s

end Sys2Proof.Machine
end

