-- ==== Sys2Proof/Machine/Bridge.lean ====
section
/-! DEFINITION. UCIe modules and the Ilupen bridge: training, lines, credits, acknowledgements and failed segments (R346 to R353,
R391). -/

namespace Sys2Proof.Machine

/-! ### UCIe modules (R346) -/

def getUcie (d : Die) (m : Nat) : Ucie := tabGet {} d.ucie m
def setUcie (d : Die) (m : Nat) (x : Ucie) : Die := { d with ucie := tabSet {} d.ucie m x }

/-- The module that carries a quadrant's traffic: its own, or the next one that is not DOWN. -/
def ucieServer (d : Die) (q : Nat) : Nat :=
  (((List.range 4).map (fun i => (q + i) % 4)).find? (fun m => (getUcie d m).st != 0)).getD q

/-- The substitution of DOWN modules is fixed at training. -/
def ucieSubst (d : Die) : Die :=
  (List.range 4).foldl (fun x q => setUcie x q { getUcie x q with servedBy := BitVec.ofNat 2 (ucieServer d q) }) d

/-- The die is in stage TRAIN, at boot or alone after its reset. -/
def training (s : State) (d : DieId) : Bool := s.hd.boot.stage == 4 || (getDie s d).clk.stage == 4

/-- A module trains at a width, with its lanes repaired; 0b11 is no STATE. -/
def trainUcie (x : Die) (m state tx rx : Nat) : Die :=
  if 2 < state then x
  else ucieSubst (setUcie x m { getUcie x m with st := BitVec.ofNat 2 state, txRep := BitVec.ofNat 3 (min 4 tx), rxRep := BitVec.ofNat 3 (min 4 rx) })

def execUcieTraining (d : DieId) (module state tx rx : Nat) (s : State) : Res :=
  if training s d && decide (module < 4) then nx (modDie s d (fun x => trainUcie x module state tx rx)) else nx s

/-- Adapter retries of a flit count in UCIE_ST (R346). -/
def noteRetries (s : State) (d : DieId) (module n : Nat) : State :=
  modDie s d (fun x => setUcie x module { getUcie x module with retries := BitVec.ofNat 16 (satAdd 16 (getUcie x module).retries.toNat n) })

/-- A flit on a module: its retries are counted, and a transaction of reserved TYPE is discarded with a record. -/
def execUcieReservedType (d : DieId) (module : Nat) (flit : UcieFlit) (s : State) : Res :=
  let type := (Sys2Proof.ucieHeader flit.header).type
  if !decide (module < 4) || (getUcie (getDie s d) module).st == 0 then nx s
  else
    let s := noteRetries s d module flit.retries
    if 0xA ≤ type then nx (logErr s (some d) { cls := 8, code := 1, unitKind := 8, unitIndex := module, detail := type }) else nx s

/-! ### Lines of the bridge (R347, R349, R352) -/

/-- Offers a line of an item or a token. -/
def offerFloor (s : State) (d : DieId) (seg slot station port : Nat) : State :=
  match floorLine s d seg slot station port with
  | none => s
  | some (a, _, it) =>
    let sent := tabGet 0 (stGet s a 0).sentLines port
    let l : BrgLine := match it with
      | .token seq arg => { vc := 2, seq := 0, data := leBytes 4 seq.toNat ++ leBytes 8 arg.toNat, kind := 1, src := some (slot, station, port) }
      | .tile h _ bs =>
        { vc := 2, seq := 0, data := (bs.drop (256 * sent)).take 256, kind := 2, header := if sent = 0 then h.toNat else 0
          src := some (slot, station, port) }
    if !mayOffer (getSeg (getDie s d) seg) l || !vcTurn s d seg 2 then s
    else
      let s := modSeg s d seg (fun g => offer d seg g l)
      stMod s a 0 (fun x =>
        if sent + 1 = itemLines it then
          { x with sentItems := tabSet 0 x.sentItems port (tabGet 0 x.sentItems port + 1), sentLines := tabSet 0 x.sentLines port 0 }
        else { x with sentLines := tabSet 0 x.sentLines port (sent + 1) })

/-- The next line of a channel other than FLOOR, with its bytes: the oldest memory line that waits for the segment, or a line of an
agent whose lines the model does not queue (assumption 48). -/
def waitingLine (g : Seg) (vc : Nat) (data : List Byte) : BrgLine :=
  let l := (if vc = 0 then g.waitReq.head? else if vc = 1 then g.waitRsp.head? else none).getD { vc := vc, seq := 0, data := [] }
  { l with data := data }

/-- The segment's queue after its oldest line has left. -/
def dropWaiting (g : Seg) (vc : Nat) : Seg :=
  if vc = 0 then { g with waitReq := g.waitReq.tail } else if vc = 1 then { g with waitRsp := g.waitRsp.tail } else g

/-- A line is offered on a segment direction that leaves the die. -/
def execBridgeLine (d : DieId) (seg vc : Nat) (src : Option (Nat × Nat × Nat)) (data : List Byte) (s : State) : Res :=
  if s.hd.boot.brgWait || decide (15 < seg) then nx s
  else match vc, src with
    | 2, some (slot, station, port) => nx (offerFloor s d seg slot station port)
    | 2, none => nx s
    | _, _ =>
      let g := getSeg (getDie s d) seg
      let l := waitingLine g vc data
      if decide (vc ≤ 3) && g.resend.isEmpty && mayOffer g l && vcTurn s d seg vc then
        nx (modSeg s d seg (fun g => offer d seg (dropWaiting g vc) l))
      else nx s

/-! ### Acknowledgements (R351, R352) -/

/-- The credits of one acknowledged line are owed on its route (R193). -/
def consumeLine (s : State) (a : StAt) (r : Nat) : State := modRoute s a.d a.slot r (fun x => { x with owed := x.owed + 1 })

/-- The far route takes a line of an item, `acked` lines having crossed before: the item goes on over a route that another Bill has
since named (R272). -/
def takeFloor (s : State) (b : StAt) (fr port acked : Nat) (it : Item) : State :=
  let cls := match it with
    | .token _ _ => 1
    | .tile _ _ _ => 0
  let x := getRoute (getDie s b.d) b.slot fr
  if acked ≠ 0 ∧ x.lacks ≠ 0 then modRoute s b.d b.slot fr (fun x => { x with lacks := x.lacks - 1 })
  else if rtClass b.bill fr ≠ cls then haltStation s b 5 6 port
  else modRoute (queueItem s b.d b.slot fr it) b.d b.slot fr (fun x => { x with lacks := itemLines it - 1 - acked })

/-- A FLOOR line has been taken by the far station; where the far die names no route now, it waits on the near side (R272). -/
def crossLine (s : State) (d : DieId) (slot station port : Nat) : State :=
  match stAt s d slot station with
  | none => s
  | some a => match portItem s a port 0, farRoute s a port with
    | none, _ => s
    | some _, none => recallFloor (modSeg s d a.place (fun g => addCredit g { vc := 2, seq := 0, data := [], src := some (slot, station, port) } 1)) a port
    | some (r, it), some (b, fr) =>
      let acked := tabGet 0 (stGet s a 0).ackLines port
      let lines := itemLines it
      let s := takeFloor (consumeLine s a r) b fr port acked it
      if acked + 1 = lines then
        let s := modRoute s a.d a.slot r (fun x => { x with inbox := x.inbox.tail, taken := x.taken + 1 })
        stMod s a 0 (fun x => { x with
          order := x.order.erase r, ackLines := tabSet 0 x.ackLines port 0
          sentItems := tabSet 0 x.sentItems port (tabGet 0 x.sentItems port - 1) })
      else stMod s a 0 (fun x => { x with ackLines := tabSet 0 x.ackLines port (acked + 1) })

/-- The receiver answers the oldest line with ACK_OK. -/
def execAckOk (d : DieId) (seg : Nat) (s : State) : Res :=
  let g := getSeg (getDie s d) seg
  match g.flight with
  | [] => nx s
  | l :: rest =>
    let s := modSeg s d seg (fun g =>
      let g := { g with flight := rest, tries := 0 }
      offerResend d seg (if l.vc = 2 then g else addCredit g l 1))
    nx (match l.src with
      | some (slot, station, port) => crossLine s d slot station port
      | none => crossMem s d seg l)

/-- One die's side of a failed segment: unacknowledged lines other than FLOOR go to the substitute. -/
def failSide (s : State) (d : DieId) (seg : Nat) : State :=
  let g := getSeg (getDie s d) seg
  let again := (g.flight ++ g.resend).filter (fun l => l.vc != 2)
  let s := modSeg s d seg (fun g => { g with st := .failed, flight := [], resend := [], tries := 0, waitReq := [], waitRsp := [], rspDue := 0 })
  let s := match segSubst (getDie s d) seg with
    | some n =>
      let s := modSeg s d seg (fun g => { g with subst := BitVec.ofNat 4 n })
      modSeg s d n (fun h => offerResend d n { h with
        resend := h.resend ++ again, waitReq := h.waitReq ++ g.waitReq, waitRsp := h.waitRsp ++ g.waitRsp, rspDue := h.rspDue + g.rspDue })
    | none =>
      let f := drawFree s 4
      modSeg f.2 d seg (fun h => { h with subst := BitVec.ofNat 4 f.1, waitReq := again.filter (fun l => l.vc == 0) ++ g.waitReq })
  (segStations s d seg).foldl (fun s a => haltStation (discardCrossing s a) a 5 7 seg) s

/-- The segment becomes FAILED in both directions. -/
def failSeg (s : State) (d : DieId) (seg : Nat) : State :=
  let s := logErr s (some d) { cls := 8, code := 2, unitKind := 6, unitIndex := seg, detail := seg }
  failSide (failSide s d seg) (otherDie d) seg

/-- A line is sent again with every later line in flight; the eighth time in a row the segment fails. -/
def retrySeg (s : State) (d : DieId) (seg : Nat) : State :=
  let g := getSeg (getDie s d) seg
  if g.flight.isEmpty || decide (g.st ≠ .up) then s
  else
    let s := modSeg s d seg (fun g => { g with
      tries := g.tries + 1, retries := BitVec.ofNat 16 (satAdd 16 g.retries.toNat g.flight.length) })
    if 8 ≤ g.tries + 1 then failSeg s d seg else s

def execAckRetry (d : DieId) (seg : Nat) (s : State) : Res := nx (retrySeg s d seg)

/-- An acknowledge that has not arrived 1 µs after its request counts as ACK_RETRY. -/
def execBridgeAckTimeout (d : DieId) (seg : Nat) (s : State) : Res := nx (retrySeg s d seg)

/-! ### Retraining (R351) -/

/-- The segments of one die after training: those in the mask are UP, with every credit. -/
def trainSegs (up : Nat) (x : Die) : Die :=
  (List.range 16).foldl (fun x n => setSeg x n { retries := (getSeg x n).retries, st := if bit up n then .up else .down }) x

/-- A die's transfers that wait for lines from the peer die ask for them again (R351). -/
def askAgain (s : State) (d : DieId) : State :=
  (List.range 16).foldl (fun s group => (getGate (getDie s d) group).xfers.foldl (fun s x =>
    sendPeerLines s d group x.id (x.addrs.take x.lines)) s) s

/-- The bridge retrains: what was in flight is gone, items cross whole again, and the transfers that waited go on. -/
def retrainBridge (s : State) (up : Nat) : State :=
  let side := fun (s : State) (d : DieId) =>
    (List.range 16).foldl (fun s n => (segStations s d n).foldl discardCrossing s) (modDie s d (trainSegs up))
  let s := side (side s .cd0) .cd1
  let s := askAgain (askAgain s .cd0) .cd1
  { s with hd := { s.hd with boot := { s.hd.boot with brgWait := false } } }

def execBridgeRetrain (up : Nat) (s : State) : Res :=
  if s.hd.boot.brgWait && s.cd0.clk.running && s.cd1.clk.running then nx (retrainBridge s up) else nx s

end Sys2Proof.Machine
end

