-- ==== Sys2Proof/Machine/Calib.lean ====
section
/-! DEFINITION. The boot region and the calibration set in it (R410, R411, R434). -/

namespace Sys2Proof.Machine

/-- Bytes of a boot-region copy. -/
def bootBytes (t : Tab Byte) (off n : Nat) : List Byte := tabRead 0 t off n
def bootNum (t : Tab Byte) (off n : Nat) : Nat := leNat (bootBytes t off n)

/-- Place of the calibration set in a copy (R434). -/
def calBase : Nat := 0xC00000

/-- The copy of NF01 with the writes that it has still to take. -/
def bootSecond (x : HdFlash) : Tab Byte := x.bootLater.foldl (fun t e => tabWrite 0 t e.1 e.2) x.boot1

/-- What a copy holds: NF00's, or NF01's. -/
def bootStored (x : HdFlash) (second : Bool) : Tab Byte := if second then bootSecond x else x.boot0

/-- A page of a copy fails (R329). -/
def pageBad (x : HdFlash) (second : Bool) (page : Nat) : Bool := x.bootBad.any (fun q => q.second == second && q.page == page)

/-- The copy numbered 0 or 1 as it is read: a page that fails on it alone is read from the other (R329). DESIGN CHOICE (assumption
113): one that fails on both reads as it was written. -/
def bootCopy (s : State) (n : Nat) : Tab Byte :=
  let x := s.hd.flash
  let c := n != 0
  (x.bootBad.filter (fun p => p.second == c && !pageBad x (!c) p.page)).foldl
    (fun t p => tabWrite 0 t (16384 * p.page) (bootBytes (bootStored x (!c)) (16384 * p.page) 16384)) (bootStored x c)

/-- A package that holds a copy of the boot region has failed. -/
def bootFailed (s : State) : Bool := fld s.hd.flash.failedPkg.toNat 1 0 != 0

/-- A COMMIT whose set is in both copies is done; where a package has failed its RESULT is FLASH (R412). -/
def commitDone (s : State) : HdBoot :=
  let b := s.hd.boot
  if !b.calBusy || b.calPend then b
  else if bootFailed s then { b with calBusy := false, calResult := 4 }
  else { b with calBusy := false, calDone := true }

/-- The second copy has taken the writes of the first (R329), and with them a COMMIT is done. -/
def settleBoot (s : State) : State :=
  { s with hd := { s.hd with boot := commitDone s, flash := { s.hd.flash with boot1 := bootSecond s.hd.flash, bootLater := [] } } }

/-- The check of a calibration set's header, SERIAL and body: the code of CAL_CTL.RESULT (R411, R412, Table 15.17). -/
def calCheck (serial : Nat) (b : List Byte) : Nat :=
  let n := leNat ((b.drop 8).take 4)
  if leNat (b.take 4) ≠ 0x4C41434D ∨ n < 0x100 ∨ 0x10000 < n then 1
  else if leNat ((b.drop 0x10).take 8) ≠ serial then 2
  else if crc64 (leBytes 8 serial ++ (b.drop 0x100).take (n - 0x100)) ≠ leNat ((b.drop 0x18).take 8) then 3
  else 0

/-- The set as it lies in a copy. -/
def calSet (t : Tab Byte) : List Byte := bootBytes t calBase (min 0x10000 (bootNum t (calBase + 8) 4))

def calGood (s : State) (n : Nat) : Bool := calCheck s.hd.ident.serial.toNat (calSet (bootCopy s n)) == 0

/-- The set that the security core takes at boot: the accepted copy's, else the other's (R411). -/
def calSelected (s : State) : Option (List Byte) :=
  let a := b2n s.hd.boot.copy
  if calGood s a then some (calSet (bootCopy s a))
  else if calGood s (1 - a) then some (calSet (bootCopy s (1 - a)))
  else none

/-- Bytes of a section of a set (Tables 15.15 and 15.16). -/
def calSection (b : List Byte) (i : Nat) : List Byte :=
  (b.drop (leNat ((b.drop (0x20 + 8 * i)).take 4))).take (leNat ((b.drop (0x24 + 8 * i)).take 4))

/-- The trim code; 0x800 without a set. -/
def calTrim : Option (List Byte) → Nat
  | some b => leNat ((calSection b 0).take 4) % 4096
  | none => 0x800

/-- The thermal offsets of a set, in 1/16 °C; none, which are zero, without one (R410, R411). -/
def calThermal : Option (List Byte) → List Int
  | some b =>
    let t := calSection b 1
    if t.length = 72 then (List.range 36).map (fun i => (BitVec.ofNat 16 (leNat ((t.drop (2 * i)).take 2))).toInt) else []
  | none => []

/-- The minimum column of Table 3.13. -/
def tableMin : List Nat := [680, 780, 1140, 1370, 1600, 1780, 2020]

/-- Calibrated minimum rates of a die: the fourth column of its seven rows; Table 3.13 where the section is absent. -/
def calRates (die : Nat) : Option (List Byte) → List Nat
  | some b =>
    let g := calSection b 2
    if g.length = 112 then (List.range 7).map (fun i => leNat ((g.drop (56 * die + 8 * i + 6)).take 2)) else tableMin
  | none => tableMin

end Sys2Proof.Machine
end

