-- ==== Sys2Proof/Machine/Clocks.lean ====
section
/-! DEFINITION. Clock sources, ramps, trimming, the governor, power modes, thermal limits, telemetry and time synchronisation
(R371 to R389). -/

namespace Sys2Proof.Machine

def modClk (s : State) (f : HdClk → HdClk) : State := { s with hd := { s.hd with clk := f s.hd.clk } }
def modDclk (s : State) (d : DieId) (f : DieClk → DieClk) : State := modDie s d (fun x => { x with clk := f x.clk })

/-! ### Islands and ramps (R372 to R375) -/

/-- Islands of Table 14.2 with stated frequencies, in kHz: HD.CPU 0, HD.SEC 1, HD.FLASH 2, CD0.DM 5, CD1.DM 8. -/
def serviceKhz : Nat → Nat
  | 0 => 2800000 | 1 => 800000 | 2 => 1200000 | 5 => 1000000 | 8 => 1000000 | _ => 0
def bootKhz : Nat → Nat
  | 0 => 400000 | 1 => 200000 | 2 => 200000 | 5 => 200000 | 8 => 200000 | _ => 0

def islands : List Nat := [0, 1, 2, 5, 8]

/-- The island has power and runs. -/
def islandOn (s : State) (n : Nat) : Bool :=
  if n < 5 then s.hd.power.hostRails else s.hd.power.computeRails

/-- A change of an island's frequency or source: a ramp, or held while one runs. -/
def startRamp (c : HdClk) (n target : Nat) : HdClk :=
  if c.ramps.any (fun e => e.1 == n) then { c with rampHeld := tabSet 0 c.rampHeld n (target + 1) }
  else { c with ramps := tabSet (0, 0, 0) c.ramps n (tabGet 0 c.freq n, target, 0) }

/-- HD.CPU in service, under throttle and limit (R383). -/
def cpuKhz (c : HdClk) : Nat := if c.limiting then 400000 else max 1000000 (2800000 - 300000 * c.cpuDown)

/-- An island's frequency in service now. -/
def serviceNow (c : HdClk) (n : Nat) : Nat := if n = 0 then cpuKhz c else serviceKhz n

/-- Every running island ramps to its service frequency. -/
def rampAll (s : State) : State :=
  (islands.filter (islandOn s)).foldl (fun s n => modClk s (fun c => startRamp c n (serviceNow c n))) s

/-- One of eight steps: step i takes f_old + (f_new − f_old) × i / 8. -/
def rampStep (c : HdClk) (n : Nat) : HdClk :=
  match tabGet (0, 0, 0) c.ramps n with
  | (old, new, i) =>
    let f := (old * (7 - i) + new * (i + 1)) / 8
    let c := { c with freq := tabSet 0 c.freq n f }
    if i < 7 then { c with ramps := tabSet (0, 0, 0) c.ramps n (old, new, i + 1) }
    else
      let c := { c with ramps := tabKeep (fun k => k != n) c.ramps }
      match tabGet 0 c.rampHeld n with
      | 0 => c
      | t + 1 => startRamp { c with rampHeld := tabSet 0 c.rampHeld n 0 } n t

def execClockRampStep (island : Nat) (s : State) : Res :=
  if s.hd.clk.ramps.any (fun e => e.1 == island) then nx (modClk s (fun c => rampStep c island)) else nx s

/-- Y1 passes 100 counting windows in stage ROM. -/
def execXtalGood (s : State) : Res :=
  if s.hd.power.hostRails && s.hd.boot.stage == 2 && s.hd.clk.src == 0 && !s.hd.clk.xtalGood && !s.hd.clk.noXtal then
    nx (rampAll (modClk s (fun c => { c with src := 1, xtalGood := true })))
  else nx s

/-- Y1 is not good within 20 ms: the islands stay on IOSC until the trim code is applied (R372). -/
def execNoXtal (s : State) : Res :=
  if s.hd.power.hostRails && s.hd.boot.stage == 2 && s.hd.clk.src == 0 && !s.hd.clk.xtalGood then
    nx (modClk s (fun c => { c with noXtal := true }))
  else nx s

/-- The security core applies the trim code; without Y1 it writes the record, and the islands ramp on trimmed IOSC. -/
def applyTrim (s : State) (code : Nat) : State :=
  let s := modClk s (fun c => { c with trimCode := BitVec.ofNat 12 code })
  if s.hd.clk.noXtal then rampAll (modClk (recClock s none 1) (fun c => { c with src := 2 })) else s

/-- Y1 gives no edge for 50 ns: every island falls to its boot frequency at once, then ramps on trimmed IOSC. -/
def execXtalLost (s : State) : Res :=
  if s.hd.power.hostRails && s.hd.clk.src == 1 then
    let s := modClk (recClock s none 2) (fun c => { c with
      src := 2, xtalGood := false, xtalLost := true, ramps := [], rampHeld := []
      freq := (islands.filter (islandOn s)).foldl (fun t n => tabSet 0 t n (bootKhz n)) c.freq })
    nx (rampAll s)
  else nx s

/-- CLK_CTL.XTAL_RETRY: Y1 is tested again, and the islands ramp back onto it where it passes. -/
def xtalRetry (s : State) (passes : Bool) : State :=
  if s.hd.clk.src == 1 || !passes then s else rampAll (modClk s (fun c => { c with src := 1, xtalGood := true }))

def execXtalRetry (agent : Nat) (passes : Bool) (s : State) : Res := hostReg s agent (xtalRetry s passes)

/-! ### Trimming (R376) -/

/-- The error of a window in ppm: IOSC cycles counted against 200 MHz over the window of Table 14.7. -/
def trimPpm (ref count : Nat) : Int :=
  let tenths : Nat := match ref with
    | 2 => 2000000000
    | 3 => 2097152
    | _ => 2000000
  Int.tdiv (((count : Int) * 10 - (tenths : Int)) * 1000000) (tenths : Int)

/-- A window ends; a count of 0 says that the reference gave no edge in it. -/
def trimWindow (c : HdClk) (count : Nat) : HdClk :=
  if count = 0 then
    let c := { c with trimBad := min 2 (c.trimBad + 1), trimGood := 0 }
    if c.trimBad = 2 then { c with refLost := true, locked := false } else c
  else
    let e := trimPpm c.trimRef.toNat count
    let good := if e.natAbs < 200 then min 4 (c.trimGood + 1) else 0
    let code : Int := max 0 (min 4095 ((c.trimCode.toNat : Int) - Int.tdiv e 15))
    { c with
      trimBad := 0, trimGood := good, locked := c.locked || good == 4
      trimErr := BitVec.ofNat 16 (satSigned 16 e), trimCode := BitVec.ofNat 12 code.toNat }

def execTrimWindow (count : Nat) (s : State) : Res :=
  if s.hd.power.hostRails && s.hd.clk.trimEn then nx (modClk s (fun c => trimWindow c count)) else nx s

/-! ### The governor (R377 to R382) -/

/-- Ceiling of a mode in 5 mV steps above 0.55 V, and its budget in W (Table 14.11). -/
def modeCeil : Nat → Nat
  | 0 => 40 | 1 => 20 | _ => 6
def modeBudget : Nat → Nat
  | 0 => 3000 | 1 => 1800 | _ => 1000

/-- The seven voltages of Table 3.13 in 5 mV steps above 0.55 V. -/
def tableSteps : List Nat := [0, 6, 20, 30, 40, 50, 70]

/-- The rate-cap voltage: the lowest of the table whose calibrated minimum reaches the cap (R379). -/
def rateCapV (x : DieClk) : Nat :=
  if x.rateCap = 0 then 70
  else match (tableSteps.zip x.govMin).find? (fun p => decide (x.rateCap.toNat ≤ p.2)) with
    | some p => p.1
    | none => 70

/-- The die's controllers run at the data rate of a mode: at the Quiet rate, or at the other. -/
def ratesAt (x : Die) (m : BitVec 2) : Bool :=
  x.mcs.all (fun e => decide (e.2.st ≠ .rateChange) && (decide (e.2.st ≠ .on) || e.2.rate == decide (m = 2)))

/-- The mode ceiling of a die: during a change the lower one, until the die's controllers have reached the new rate; a change to a
higher ceiling slews from then on (R382). -/
def ceilNow (s : State) (d : DieId) : Nat :=
  let c := s.hd.clk
  let old := modeCeil c.mode.toNat
  let new := modeCeil c.modeReq.toNat
  if !c.changing then old else if new ≤ old ∨ ratesAt (getDie s d) c.modeReq then new else old

/-- During a change the lower budget applies (R382). -/
def budgetNow (c : HdClk) : Nat :=
  if c.changing then min (modeBudget c.mode.toNat) (modeBudget c.modeReq.toNat) else modeBudget c.mode.toNat

/-- The power term is held during a change and for 1 ms after it. -/
def powerHeldNow (s : State) : Bool := s.hd.clk.changing || decide (s.hd.time.tb < s.hd.clk.powerHeld)

/-- Power exceeds the die's share, or the input current 70 A. DESIGN CHOICE (assumption 50): the governor holds the current to 70 A
as it holds the power to the share. -/
def overShare (x : DieClk) (power share : Nat) : Bool := decide (share < power) || decide (70000 < x.current)

/-- Power is below 97 % of the share, and the current within 70 A. -/
def underShare (x : DieClk) (power share : Nat) : Bool := decide (power * 100 < share * 97) && decide (x.current ≤ 70000)

/-- The power voltage after one more 10 µs: 0.55 V while DUTY is below 15. -/
def nextPowerV (s : State) (x : DieClk) (share : Nat) : Nat :=
  if x.duty2 < 15 then 0
  else if powerHeldNow s then x.powerV
  else if overShare x x.power share then x.powerV - 1
  else if underShare x x.power share then min 70 (x.powerV + 1)
  else x.powerV

/-- The lowest term and its LIMITER code; the lower code on a tie. -/
def lowestTerm (mode therm cap power : Nat) : Nat × Nat :=
  [(mode, 0), (therm, 1), (cap, 2), (power, 3)].foldl (fun b t => if t.1 < b.1 then t else b) (mode, 0)

/-- The thermal ceiling in force (R383). -/
def thermCeilNow (x : DieClk) : Nat := if x.limiting then 0 else x.thermCeil

/-- The lowest beat monitor of a die's groups (R380). -/
def lowestMonitor (ms : List Nat) : Nat := match ms with
  | [] => 0
  | m :: r => r.foldl min m

/-- The target of a die's VDD_FAB with a power voltage, and its LIMITER code. -/
def targetV (s : State) (d : DieId) (pv : Nat) : Nat × Nat :=
  let x := (getDie s d).clk
  lowestTerm (ceilNow s d) (thermCeilNow x) (rateCapV x) pv

/-- The die's apply window is open: its governor does not run, and VDD_FAB is held (R436). -/
def inApply (s : State) (d : DieId) : Bool := s.hd.sec.applying == dieNum d + 1

/-- One governor tick; the power of host die, flash and HBM that the share leaves out is measured, a free value (assumption 20). -/
def governorTick (s : State) (d : DieId) (g : GovIn) : State :=
  let f := drawFree s 12
  let s := modDclk f.2 d (fun x => { x with monitors := g.monitors.take 16, current := g.current })
  let x := (getDie s d).clk
  let share := (budgetNow s.hd.clk - f.1) / 2
  let pv := nextPowerV s x share
  let t := targetV s d pv
  let v := x.vdd.toNat
  modDclk s d (fun x => { x with
    share := BitVec.ofNat 16 share, powerV := pv, rate := BitVec.ofNat 12 (lowestMonitor x.monitors), limiter := BitVec.ofNat 2 t.2
    vdd := BitVec.ofNat 8 (if t.1 < v then max t.1 (v - 20) else min t.1 (v + 20)) })

def execGovernorTick (d : DieId) (g : GovIn) (s : State) : Res :=
  if (getDie s d).clk.running && !inApply s d then nx (governorTick s d g) else nx s

/-- DUTY of the power throttle after one more 100 µs. -/
def nextDuty (x : DieClk) (power : Nat) : Nat :=
  let share := x.share.toNat
  if x.duty2 = 15 then (if overShare x power share ∧ x.vdd = 0 then 14 else 15)
  else if overShare x power share then max 4 (x.duty2 - 1)
  else if underShare x power share then x.duty2 + 1
  else x.duty2

/-- A duty tick; while DUTY is below 15 the power voltage is 0.55 V. -/
def dutyTick (x : DieClk) (power : Nat) : DieClk :=
  let n := nextDuty x power
  { x with power := power, duty2 := n, powerV := if n < 15 then 0 else x.powerV }

def execDutyTick (d : DieId) (power : Nat) (s : State) : Res :=
  if (getDie s d).clk.running && !inApply s d then nx (modDclk s d (fun x => dutyTick x power)) else nx s

/-- GOV_ST.DUTY: the lower of the power throttle's and the thermal limit's. -/
def dutyNow (x : DieClk) : Nat := if x.limiting then min x.duty2 8 else x.duty2

/-- A change to another mode begins. -/
def beginMode (c : HdClk) (m : BitVec 2) : HdClk :=
  if m = c.mode then c else { c with modeReq := m, changing := true }

/-- PWR_CTL: 0b11 is ignored; a request during a change is held, and a later one replaces it. -/
def writePwrCtl (s : State) (v : Nat) : State :=
  let m := BitVec.ofNat 2 v
  if m = 3 then s
  else modClk s (fun c =>
    let c := { c with modeCtl := m }
    if c.changing then { c with heldMode := some m } else beginMode c m)

/-- Writes of agents without the management partition's rights are ignored (R382). -/
def execPwrCtlWrite (agent : Nat) (v : W32) (s : State) : Res := hostReg s agent (if mgmtAgent agent then writePwrCtl s v.toNat else s)

/-- The die has slewed to the ceiling that a change leads to: down to it, or up as far as its other terms let it. -/
def slewed (s : State) (d : DieId) : Bool :=
  let x := (getDie s d).clk
  let c := s.hd.clk
  let new := modeCeil c.modeReq.toNat
  if new ≤ modeCeil c.mode.toNat then decide (x.vdd.toNat ≤ new) else decide ((targetV s d x.powerV).1 ≤ x.vdd.toNat)

/-- The die has reached the mode that a change leads to: its controllers' rate and its voltage. -/
def modeReached (s : State) (d : DieId) : Bool :=
  let x := getDie s d
  !x.clk.running || (ratesAt x s.hd.clk.modeReq && slewed s d)

def endMode (s : State) : State :=
  modClk s (fun c =>
    let c := { c with mode := c.modeReq, changing := false, powerHeld := s.hd.time.tb + 1000000 }
    match c.heldMode with
    | some m => beginMode { c with heldMode := none } m
    | none => c)

def execPowerModeChangeEnd (s : State) : Res :=
  if s.hd.clk.changing && modeReached s .cd0 && modeReached s .cd1 then nx (endMode s) else nx s

/-! ### Thermal limits (R383) -/

/-- The thermal offset of a sensor, in 1/16 °C (R410). -/
def thermOffset (c : HdClk) (n : Nat) : Int := c.thermOff.getD n 0

/-- The sensors in whole °C: what they measure in 1/16 °C with their offsets, from offset `n` on. PRESUMED (assumption 108): an offset
is added, and a reading is rounded down. -/
def sensed (c : HdClk) (n : Nat) (ts : List Int) : List Int := ts.zipIdx.map (fun t => (t.1 + thermOffset c (n + t.2)) / 16)

/-- The highest sensor and its index, the lowest index on a tie. -/
def hottest (ts : List Int) : Int × Nat :=
  (ts.zipIdx).foldl (fun b t => if b.1 < t.1 then t else b) (ts.headD 0, 0)

/-- Ten samples are 1 ms. -/
def tenth (n : Nat) : Bool := n + 1 == 10

/-- The throttle's ceiling after a sample; the throttle acts from 100 °C, or 95 °C of a stack, until all are below 98 °C and 93 °C. -/
def throttleDie (ceil : Nat) (x : DieClk) (hot stack : Int) : DieClk :=
  let fall := decide (100 ≤ hot) || decide (95 ≤ stack)
  let rise := decide (hot < 98) && decide (stack < 93)
  let x := { x with throttle := fall || (x.throttle && !rise) }
  if !tenth x.thermTick then { x with thermTick := x.thermTick + 1 }
  else { x with thermTick := 0, thermCeil := if fall then min x.thermCeil ceil - 2 else if rise then min (max ceil x.thermCeil) (x.thermCeil + 2) else x.thermCeil }

/-- A sample of a compute die's sensors and of its stacks' reports. -/
def sampleDie (s : State) (d : DieId) (ts reports : List Int) : State :=
  let h := hottest (sensed s.hd.clk (16 * dieNum d) ts)
  let st := (hottest reports).1
  let was := (getDie s d).clk.limiting
  let lim := decide (105 ≤ h.1) || (was && decide (100 ≤ h.1))
  let s := modDclk s d (fun x => { throttleDie (ceilNow s d) x h.1 st with
    maxT := BitVec.ofInt 8 h.1, maxSensor := BitVec.ofNat 4 h.2, stackT := st, limiting := lim, limit := x.limit || (lim && !was) })
  if lim && !was then logErr s (some d) { cls := 0x0A, code := 1, unitKind := 0x0B, detail := h.2 } else s

/-- HD.CPU follows a change of throttle or limit: held while the island ramps, a ramp where it moves between its boot frequency and
another, else one step (R375, R383). -/
def followCpu (old c : HdClk) : HdClk :=
  if cpuKhz old = cpuKhz c then c
  else if c.ramps.any (fun e => e.1 == 0) || old.limiting != c.limiting then startRamp c 0 (cpuKhz c)
  else { c with freq := tabSet 0 c.freq 0 (cpuKhz c) }

/-- A sample of the host die's sensors. -/
def sampleHost (c : HdClk) (ts : List Int) : HdClk :=
  let h := hottest (sensed c 32 ts)
  let lim := decide (105 ≤ h.1) || (c.limiting && decide (100 ≤ h.1))
  let fall := decide (100 ≤ h.1)
  let rise := decide (h.1 < 98)
  let down := if !tenth c.thermTick then c.cpuDown else if fall then min 6 (c.cpuDown + 1) else if rise then c.cpuDown - 1 else c.cpuDown
  followCpu c { c with
    maxT := BitVec.ofInt 8 h.1, maxSensor := BitVec.ofNat 4 h.2, limiting := lim, limit := c.limit || (lim && !c.limiting)
    throttle := fall || (c.throttle && !rise), thermTick := if tenth c.thermTick then 0 else c.thermTick + 1, cpuDown := down }

def execThermalSample (where_ : Option DieId) (sensors stackTs : List Int) (s : State) : Res :=
  match where_ with
  | some d => if (getDie s d).clk.running then nx (sampleDie s d sensors stackTs) else nx s
  | none => if s.hd.power.hostRails then nx (modClk s (fun c => sampleHost c sensors)) else nx s

/-! ### Telemetry (R384, Table 14.16) -/

def pwrStWord (c : HdClk) : Nat := c.mode.toNat + 4 * b2n c.changing + 8 * b2n c.heldMode.isSome

/-- The block: measured voltage, current and power, and what the module's state gives. -/
def telemetryBytes (s : State) (measured : List Byte) : List Byte :=
  let a := s.cd0.clk
  let b := s.cd1.clk
  let c := s.hd.clk
  let flags := b2n a.throttle + 2 * b2n b.throttle + 4 * b2n (a.limit || b.limit || c.limit) + 8 * b2n c.xtalLost + 16 * b2n s.hd.time.locked
  ((measured ++ List.replicate 16 0).take 16) ++ leBytes 1 (pwrStWord c) ++ leBytes 1 flags ++ leBytes 2 0
    ++ leBytes 2 (550 + 5 * a.vdd.toNat) ++ leBytes 2 (550 + 5 * b.vdd.toNat) ++ leBytes 2 a.rate.toNat ++ leBytes 2 b.rate.toNat
    ++ leBytes 1 a.maxT.toNat ++ leBytes 1 b.maxT.toNat ++ leBytes 1 c.maxT.toNat ++ leBytes 1 (unsigned 8 (max a.stackT b.stackT))
    ++ leBytes 8 s.hd.time.tb ++ List.replicate 24 0

def execTelemetryRefresh (block : List Byte) (s : State) : Res :=
  if s.hd.power.hostRails then nx (modClk s (fun c => { c with telemetry := tabWrite 0 [] 0 (telemetryBytes s block) })) else nx s

/-! ### The timebase (R385, R388, R389) -/

/-- A compute die's timebase follows the host die's, a nanosecond at a time and never running backward (R385, R387); a divergence
above 4 ns leaves a record. -/
def execTimebaseFollow (d : DieId) (diverged : Int) (s : State) : Res :=
  let x := getDie s d
  if !dieTimed x then nx s
  else
    let s := if 4 < diverged.natAbs then recClock s (some d) 3 else s
    nx (modDclk s d (fun c => { c with tb := if c.tb < s.hd.time.tb then c.tb + 1 else c.tb }))

/-- A rising edge of REFSYNC_IN at 1 PPS, at `error` ns from the timebase of now. -/
def execPpsEdge (error : Int) (s : State) : Res :=
  let t := s.hd.time
  if s.hd.power.hostRails && t.mode == 3 then
    let off : Int := (t.tb : Int) + error - t.delay.toNat - t.ppsTod.toNat
    nx (modTime (takeReference s off) (fun t => { t with ppsTod := t.ppsTod + 1000000000 }))
  else nx s

/-- Sixteen intervals without a reference, in nanoseconds. -/
def holdoverNs (mode : BitVec 2) : Nat := if mode = 2 then 131072 else 16000000000

def execTbHoldover (s : State) : Res :=
  let t := s.hd.time
  if s.hd.power.hostRails && (t.mode == 2 || t.mode == 3) && decide (t.lastRef + holdoverNs t.mode ≤ t.tb) then
    nx (modTime s (fun t => { t with holdover := true, slew := 0 }))
  else nx s

/-- START of TB_MEAS_CTL: the next mark sent and the next mark received on the port are captured. -/
def startMeas (s : State) (d : DieId) : State := modDclk s d (fun c => { c with measDone := false, measTx := true, measRx := true })

def execTbMeasStart (agent : Nat) (d : DieId) (port : Nat) (s : State) : Res :=
  dieReg s agent d (startMeas (modDclk s d (fun c => { c with measPort := BitVec.ofNat 4 port })) d)

end Sys2Proof.Machine
end

