-- ==== Sys2Proof/Machine/Flash.lean ====
section
/-! DEFINITION. The flash store's commands, reads, programs, moves, health and readers (R322 to R341). -/

namespace Sys2Proof.Machine

/-! ### Map changes and durability (R323, R324) -/

/-- An entry changes in the map and is not yet durable. -/
def changeEntry (s : State) (u v : Nat) : State :=
  modFlash (setMapEntry s u v) (fun x => { x with journal := tabSet 0 x.journal u (v + 1) })

/-- Every change is durable. -/
def makeDurable (s : State) : State :=
  modFlash s (fun x => { x with durable := x.journal.foldl (fun t e => tabSet 0 t e.1 (e.2 - 1)) x.durable, journal := [] })

/-! ### Places (R322, R327, R328) -/

/-- A place of the user area exists in its package, which answers (R320, R339). -/
def placeOk (s : State) (pkg place : Nat) : Bool :=
  decide (place < 2 ^ 26) && decide (fld place 25 14 < 2304) && blockGood s (blockOf (stripeKey pkg place)) && !pkgFailed s pkg

/-- The map, its durable copy, a move or a read that is under way names the place for the unit that is stored there (R328). -/
def placeUsed (s : State) (pkg place : Nat) : Bool :=
  s.hd.flash.moves.any (fun m => decide (unitPkg m.unit = pkg) && (m.place == place || entPlace m.ent == place))
  || match getStripe s (stripeKey pkg place) with
  | none => false
  | some x =>
    let now := mapEntry s x.unit
    let old := tabGet 0 s.hd.flash.durable x.unit
    let read := tabGet 0 s.hd.flash.retries x.unit
    (entMapped now && entPlace now == place) || (entMapped old && entPlace old == place) || (read != 0 && entPlace (read - 1) == place)

/-- The store before a program at a place: the page is free, or its block holds nothing in use and is erased for it (R325, R328);
none where neither is. -/
def preparePlace (s : State) (pkg place : Nat) : Option State :=
  let key := stripeKey pkg place
  let b := blockOf key
  if (getStripe s key).isNone then some s
  else if wearOk s b && s.hd.flash.moves.all (fun m => blockOf (stripeKey (unitPkg m.unit) m.place) != b) && s.hd.flash.nand.all (fun e => blockOf e.1 != b || !placeUsed s pkg (e.1 % 2 ^ 26)) then some (eraseBlock s b)
  else none

/-- A block is retired (R327). -/
def retireBlock (s : State) (pkg place : Nat) : State :=
  modFlash s (fun x => { x with retired := x.retired ++ [blockOf (stripeKey pkg place)] })

/-- A stripe of a unit is programmed with its check value (R336). -/
def programUnit (s : State) (u place : Nat) (bs : List Byte) : State :=
  let pkg := unitPkg u
  setStripe s (stripeKey pkg place) (some { unit := u, data := bs, check := placeCheck u pkg place bs })

/-- A map entry that names a place. -/
def entAt (place : Nat) : Nat := place + 2 ^ 26

/-! ### Reads (R335, R336, R338) -/

/-- A read of a unit ends for every reader that has asked for it. -/
def answerReaders (s : State) (u status : Nat) (bs : List Byte) : State :=
  let f := fun (d : Die) => { d with stations := d.stations.map (fun e =>
    (e.1, { e.2 with units := e.2.units.map (fun x => if x.1 = u ∧ x.2.1 = 0 then (u, status, bs) else x) })) }
  { s with cd0 := f s.cd0, cd1 := f s.cd1 }

/-- Readers with a unit for a sink ask for its transfers (R335). -/
def sinksAsk (s : State) (d : DieId) : State :=
  (getDie s d).stations.foldl (fun s e => match stAt s d (e.1 / 65536) (e.1 % 65536 / 4) with
    | some a => if a.kind = 8 then stAsks s a else s
    | none => s) s

/-- The outcome of a unit's read reaches the readers. -/
def deliverUnit (s : State) (u : Nat) : UnitR → State
  | .ok bs => sinksAsk (sinksAsk (answerReaders s u 1 bs) .cd0) .cd1
  | .wait => s
  | _ => answerReaders s u 2 []

/-- The oldest read of the unit's package is a command's. -/
def cmdReads (s : State) (u : Nat) : Bool := (runHead s (unitPkg u)).any (fun x => match x.by_ with
  | .cmd _ _ _ => true
  | .reader _ _ _ => false)

/-- The outcome of a unit's retries reaches its readers, or the command that waits for it. -/
def deliverRetried (s : State) (u : Nat) (r : UnitR) : State := deliverUnit (if cmdReads s u then keepRead s u r else s) u r

def deliverRead (s : State) (u : Nat) : State := deliverUnit s u (readUnit s u)

/-- The stripe that the map names for a unit. -/
def unitStripe (s : State) (u : Nat) : Option (Nat × Stripe) :=
  let e := mapEntry s u
  if entMapped e && !entUncorr e then (getStripe s (stripeKey (unitPkg u) (entPlace e))).map (fun x => (stripeKey (unitPkg u) (entPlace e), x))
  else none

/-- The unit is of the oldest read that waits at its package; a run that is a command's reads its units itself. -/
def unitTurn (s : State) (unit : Nat) (decodes : Bool) : Bool :=
  (runHead s (unitPkg unit)).any (fun x => match x.by_ with
    | .reader _ _ _ => x.first == unit
    | .cmd _ _ _ => !decodes && decide (x.first ≤ unit) && decide (unit < x.first + x.count))

/-- A unit is read from its stripe, in the order of Table 12.5; a failed hard decode leaves it, with the entry captured, to the
retries. -/
def execFlashUnitRead (unit : Nat) (decodes : Bool) (s : State) : Res :=
  if !mapOpen s || decide (userUnits ≤ unit) || tabGet 0 s.hd.flash.retries unit != 0 || !unitTurn s unit decodes then nx s
  else match unitStripe s unit with
    | some (key, _) =>
      if pkgFailed s unit then nx (deliverRead s unit)
      else if decodes then nx (deliverRead (noteRead s key) unit)
      else nx (modFlash (noteRead s key) (fun x => { x with retries := tabSet 0 x.retries unit (mapEntry s unit + 1) }))
    | none => nx (deliverRead s unit)

/-- The partition whose extents hold a unit. -/
def unitOwner (s : State) (u : Nat) : Option Nat := (List.range 16).find? (fun p => unitOwned s p u)

/-- The record of an uncorrectable unit: UNIT_INDEX is its package. DESIGN CHOICE (assumption 93): PC holds the die, block and page,
packed as Table 12.3 packs them. -/
def recUnit (s : State) (unit place : Nat) : State :=
  logErr s none {
    cls := 7, code := 1, part := unitOwner s unit, unitKind := 9, unitIndex := unitPkg unit, addrKind := 3, addr := unit * 65536
    pc := place, detail := unit }

/-- The retries of a unit end: it reads from the stripe that the read captured, or it is marked UNCORR, where the map still names
that stripe, with a record. -/
def execReadRetry (unit : Nat) (decodes : Bool) (s : State) : Res :=
  let x := tabGet 0 s.hd.flash.retries unit
  if !mapOpen s || x == 0 then nx s
  else
    let s := modFlash s (fun f => { f with retries := tabSet 0 f.retries unit 0 })
    if decodes then nx (deliverRetried s unit (stripeRead s unit (x - 1)))
    else
      let e := mapEntry s unit
      let s := if entMapped e ∧ entPlace e = entPlace (x - 1) then changeEntry s unit (setFld e 27 27 1) else s
      nx (deliverRetried (recUnit s unit (entPlace (x - 1))) unit .uncorr)

/-! ### Moves and scans (R326, R328) -/

/-- Free blocks of a package: good ones that hold no stripe. -/
def freeBlocks (s : State) (pkg : Nat) : Nat :=
  let used := ((s.hd.flash.nand.filter (fun e => decide (e.1 / 2 ^ 26 = pkg))).map (fun e => blockOf e.1)).eraseDups
  13248 - (if pkg < 2 then 172 else 0) - (s.hd.flash.retired.filter (fun b => decide (b / 2 ^ 26 = pkg) && !used.contains b)).length - used.length

/-- The free-block pool of a package is below its low mark, which is a free value (R328, assumption 20). -/
def poolLow (s : State) (pkg : Nat) : Bool := decide (freeBlocks s pkg < Config.lowMark pkg)

/-- A WRITE or TRIM that has started waits at the package (level 4 of Table 12.5). -/
def writesWait (s : State) (pkg : Nat) : Bool :=
  s.hd.flash.q.started.any (fun x => (cmdOp x.word == 2 || cmdOp x.word == 3) && (decide (x.phase = .wait) || decide (x.phase = .fresh))
    && runMeets (flUnit x + x.prog) (flCount x - x.prog) pkg)

/-- A request of level 5 is served at the package (Table 12.5). -/
def levelFive (s : State) (pkg : Nat) : Bool := noReads s pkg && !writesWait s pkg

/-- A move is served at the package: at level 5, or at level 2 while the pool is low. -/
def moveServed (s : State) (pkg : Nat) : Bool := levelFive s pkg || poolLow s pkg

/-- The oldest block of the package that is due to move and holds a unit in use (R326). -/
def dueBlock (s : State) (pkg : Nat) : Option Nat :=
  s.hd.flash.refresh.find? (fun b => decide (b / 2 ^ 26 = pkg) && s.hd.flash.nand.any (fun e => blockOf e.1 == b && placeUsed s pkg (e.1 % 2 ^ 26)))

/-- Units of the oldest block that is due to move go first; another move waits for them (R326, Table 12.5). -/
def moveDue (s : State) (u : Nat) : Bool := (dueBlock s (unitPkg u)).all (fun b => (unitStripe s u).any (fun y => blockOf y.1 == b))

/-- A move of a unit to a stripe of a fresh block of its package begins: its map entry is captured, and the block is made ready. -/
def beginMove (s : State) (u place : Nat) : State :=
  let pkg := unitPkg u
  if !mapOpen s || decide (userUnits ≤ u) || !placeOk s pkg place || placeUsed s pkg place || !moveDue s u || !moveServed s pkg then s
  else match unitStripe s u, preparePlace s pkg place with
    | some (key, _), some s1 =>
      if blockOf key = blockOf (stripeKey pkg place) then s
      else modFlash s1 (fun x => { x with moves := x.moves ++ [{ unit := u, place := place, ent := mapEntry s u }] })
    | _, _ => s

/-- A move ends: the stripe is checked at its old address and written, and then the map entry changes; a program that fails retires
the block and leaves the unit where it is (R327, R328, R336). -/
def endMove (s : State) (m : FlMove) (ok : Bool) : State :=
  let pkg := unitPkg m.unit
  let s := modFlash s (fun x => { x with
    moves := x.moves.erase m, suspended := x.suspended.filter (fun y => y != pkg * 8 + fld m.place 2 0) })
  if !ok then retireBlock s pkg m.place
  else match stripeRead s m.unit m.ent with
    | .ok bs => changeEntry (programUnit (noteRead s (stripeKey pkg (entPlace m.ent))) m.unit m.place bs) m.unit (entAt m.place)
    | _ => s

/-- A WRITE or TRIM cancels the moves of its units (R328). -/
def cancelMoves (s : State) (first count : Nat) : State :=
  modFlash s (fun x => { x with moves := x.moves.filter (fun m => !(decide (first ≤ m.unit) && decide (m.unit < first + count))) })

/-- A move begins, or the one under way to the place ends; a suspended program ends once the reads that suspended it have been
served. -/
def execFlashMove (unit : Nat) (p : Programmed) (s : State) : Res :=
  match s.hd.flash.moves.find? (fun m => m.unit == unit) with
  | none => nx (beginMove s unit p.place)
  | some m =>
    if m.place == p.place && mapOpen s && (noReads s (unitPkg unit) || !s.hd.flash.suspended.contains (unitPkg unit * 8 + fld p.place 2 0)) then
      nx (endMove s m p.ok)
    else nx s

/-- A scan of every block is due: after an enable, and 24 h of powered time after the last (R326). -/
def scanDue (s : State) : Bool :=
  mapOpen s && s.hd.flash.scanned.all (fun t => decide (t + 86400000000000 ≤ s.hd.time.tb))

/-- The blocks of units that a scan finds weak are due to move. -/
def markWeak (s : State) (weak : List (Nat × Nat)) : State :=
  let bs := (weak.filterMap (fun x => (unitStripe s x.1).map (fun y => blockOf y.1))).eraseDups
  modFlash s (fun f => { f with refresh := f.refresh ++ bs.filter (fun b => !f.refresh.contains b), scanned := some s.hd.time.tb })

/-- A scan, which is served at level 5 of every package, finds the blocks that are weak, and begins to move their units. -/
def execFlashScan (weak : List (Nat × Nat)) (s : State) : Res :=
  if scanDue s && (List.range 16).all (levelFive s) then nx (weak.foldl (fun s x => beginMove s x.1 x.2) (markWeak s weak)) else nx s

/-! ### Host commands (R331, R332) -/

/-- A write to the FL_CMD aperture. -/
def execFlCommandWrite (agent off : Nat) (data : List Byte) (s : State) : Res :=
  if reachesFlash s agent && decide (off < 4096) then nx (judgeWrite s .cd0 flQ off data)
  else nx (emit s (.busError agent))

/-- A flash command by its CSEQ: started, or the next to start. -/
def flOpen (s : State) (cseq : Nat) : State := if s.hd.flash.q.startSeq.toNat = cseq then flStart s else s

def flRef (cseq : Nat) : CmdRef := { q := flQ, cseq := cseq }

/-- A unit lies beyond the user area. -/
def flRange (c : Started) : Bool := decide (userUnits < flUnit c + flCount c)

/-- The command ends with OK; no RESULT is stated for it (assumption 20). -/
def flOk (s : State) (cseq : Nat) : State := failCmd s .cd0 (flRef cseq) 0

/-- Units before the first that does not read, and what that one gives. -/
def readRun (s : State) (u : Nat) : Nat → List (List Byte) × Option UnitR
  | 0 => ([], none)
  | n + 1 =>
    match readRun s u n with
    | (xs, some r) => (xs, some r)
    | (xs, none) => match readNow s (u + xs.length) with
      | .ok bs => (xs ++ [bs], none)
      | r => (xs, some r)

/-- A write of the buffer that finds no memory: the spec states no status for it (assumption 20). -/
def flBufFault (s : State) (cseq : Nat) : State :=
  let f := drawFree s 8
  failCmd f.2 .cd0 (flRef cseq) (1 + f.1 % 255)

/-- A READ asks for its units, and reads them when they are the oldest at their packages. -/
def execFlRead (cseq : Nat) (s : State) : Res :=
  let s := flOpen s cseq
  match openCmd s .cd0 flQ cseq 0x01 with
  | none => nx s
  | some c =>
    if flBlocked s c then nx s
    else if flRange c then nx (failCmd s .cd0 (flRef cseq) 0x30)
    else if c.phase = .fresh then nx (askFor (waitCmd s .cd0 (flRef cseq)) .cd0 flQ cseq (flUnit c) (flCount c))
    else
      let r := readRun s (flUnit c) (flCount c)
      if r.2 = some .wait || !runTurn s .cd0 flQ cseq (flUnit c) (flCount c) || hostHeld s (cmdF c.word 0x18 8) (65536 * r.1.length) then nx s
      else match hostWrite (noteRun s (flUnit c) r.1.length) (cmdF c.word 0x18 8) r.1.flatten with
        | (.ok _, s1) => match r.2 with
          | none => nx (flOk s1 cseq)
          | some .pkg => nx (failCmd s1 .cd0 (flRef cseq) 0x34)
          | some .check => nx (failCmd s1 .cd0 (flRef cseq) 0x32)
          | some _ => nx (doneCmd s1 .cd0 (flRef cseq) 0x31 r.1.length)
        | (_, s1) => nx (flBufFault s1 cseq)

/-- A package of the units has FAILED. -/
def flPackage (s : State) (c : Started) : Bool := (List.range (min 16 (flCount c))).any (fun i => pkgFailed s (flUnit c + i))

/-- A WRITE that is in order waits for its programs. -/
def execFlWrite (cseq : Nat) (s : State) : Res :=
  let s := flOpen s cseq
  match freshCmd s .cd0 flQ cseq 0x02 with
  | none => nx s
  | some c =>
    if flBlocked s c || !mapOpen s then nx s
    else if flRange c then nx (failCmd s .cd0 (flRef cseq) 0x30)
    else if s.hd.flash.health = 2 then nx (failCmd s .cd0 (flRef cseq) 0x33)
    else if flPackage s c then nx (failCmd s .cd0 (flRef cseq) 0x34)
    else nx (waitCmd (cancelMoves s (flUnit c) (flCount c)) .cd0 (flRef cseq))

/-- A WRITE or TRIM that started before this one still has a unit of the package to serve (Table 12.5). -/
def olderWrite (s : State) (c : Started) (pkg : Nat) : Bool :=
  (s.hd.flash.q.started.takeWhile (fun x => x.cseq != c.cseq)).any (fun x =>
    ((cmdOp x.word == 2 && decide (x.phase = .wait)) || (cmdOp x.word == 3 && decide (x.phase = .fresh)))
      && runMeets (flUnit x + x.prog) (flCount x - x.prog) pkg)

/-- The bytes of a WRITE's next unit: those in the controller's buffer from a program that failed, else those in memory. -/
def writeBytes (s : State) (c : Started) : HostAcc × State :=
  match tabGet [] s.hd.flash.wbuf c.cseq with
  | [] => hostRead s (cmdF c.word 0x18 8 + 65536 * c.prog) 65536
  | bs => (.ok bs, s)

/-- The next unit of a WRITE is programmed at a place, once no read waits at the package; a program or erase that fails retires the
block, and the unit is programmed again from the controller's buffer. -/
def execFlashProgram (cseq place : Nat) (ok : Bool) (s : State) : Res :=
  match openCmd s .cd0 flQ cseq 0x02 with
  | none => nx s
  | some c =>
    let u := flUnit c + c.prog
    let pkg := unitPkg u
    if c.phase = .wait ∧ pkgFailed s u then nx (failCmd s .cd0 (flRef cseq) 0x34)
    else if decide (c.phase ≠ .wait) || !mapOpen s || hostHeld s (cmdF c.word 0x18 8 + 65536 * c.prog) 65536 || !placeOk s pkg place || placeUsed s pkg place || !noReads s pkg || olderWrite s c pkg then nx s
    else match preparePlace s pkg place with
      | none => nx s
      | some s0 =>
        let s0 := modFlash s0 (fun x => { x with suspended := x.suspended.filter (fun y => y != pkg * 8 + fld place 2 0) })
        match writeBytes s0 c with
        | (.ok bs, s1) =>
          if !ok then nx (retireBlock (modFlash s1 (fun x => { x with wbuf := tabSet [] x.wbuf cseq bs })) pkg place)
          else
            let s1 := modFlash s1 (fun x => { x with wbuf := tabSet [] x.wbuf cseq [] })
            let s2 := changeEntry (programUnit s1 u place bs) u (entAt place)
            if c.prog + 1 = flCount c then nx (flOk s2 cseq)
            else nx (modStarted s2 .cd0 flQ cseq (fun c => { c with prog := c.prog + 1 }))
        | (_, s1) => nx (flBufFault s1 cseq)

/-- TRIM clears MAPPED, and UNCORR, of its units, once its turn has come at their packages. -/
def execFlTrim (cseq : Nat) (s : State) : Res :=
  let s := flOpen s cseq
  match freshCmd s .cd0 flQ cseq 0x03 with
  | none => nx s
  | some c =>
    if flBlocked s c || !mapOpen s then nx s
    else if flRange c then nx (failCmd s .cd0 (flRef cseq) 0x30)
    else if flPackage s c then nx (failCmd s .cd0 (flRef cseq) 0x34)
    else if !(List.range 16).all (fun pkg => !runMeets (flUnit c) (flCount c) pkg || (noReads s pkg && !olderWrite s c pkg)) then nx s
    else nx (flOk ((List.range (flCount c)).foldl (fun s i =>
      changeEntry s (flUnit c + i) (setFld (mapEntry s (flUnit c + i)) 27 26 0)) (cancelMoves s (flUnit c) (flCount c))) cseq)

def execFlFlush (cseq : Nat) (s : State) : Res :=
  let s := flOpen s cseq
  match freshCmd s .cd0 flQ cseq 0x04 with
  | none => nx s
  | some _ => if mapOpen s then nx (flOk (makeDurable s) cseq) else nx s

def execFlQueueResume (agent : Nat) (s : State) : Res := flashReg s agent (queueAct s .cd0 flQ 1)
def execFlQueueFlush (agent : Nat) (s : State) : Res := flashReg s agent (queueAct s .cd0 flQ 2)

/-- A read of levels 1 to 3 is at a die of a package: of the boot region, which the boot and the services read on die 0 of NF00 and
NF01; by a move while the pool is low; or of a run of units. -/
def readsDie (s : State) (pkg nand : Nat) : Bool :=
  (decide (pkg < 2) && nand == 0
    && (s.hd.boot.stage == 2 || s.hd.boot.stage == 3 || s.hd.sec.ch0.busy || s.hd.sec.ch1.busy))
  || (s.hd.flash.moves.any (fun m => unitPkg m.unit == pkg && fld m.ent 2 0 == nand) && poolLow s pkg)
  || (liveRuns s).any (fun x => (List.range x.count).any (fun i =>
    unitPkg (x.first + i) == pkg && entMapped (mapEntry s (x.first + i)) && fld (mapEntry s (x.first + i)) 2 0 == nand))

/-- A WRITE waits to program a unit of the package, or a move programs a die of it. -/
def programsDie (s : State) (pkg nand : Nat) : Bool :=
  s.hd.flash.q.started.any (fun c => cmdOp c.word == 2 && decide (c.phase = .wait) && unitPkg (flUnit c + c.prog) == pkg)
  || s.hd.flash.moves.any (fun m => unitPkg m.unit == pkg && fld m.place 2 0 == nand)

/-- A read of levels 1 to 3 reaches a die of a package that programs or erases (R321, R332). -/
def execProgramSuspend (pkg nand : Nat) (s : State) : Res :=
  let k := pkg * 8 + nand
  if programsDie s pkg nand && readsDie s pkg nand && decide (pkg < 16) && decide (nand < 8) && !s.hd.flash.suspended.contains k then
    nx (modFlash s (fun x => { x with suspended := x.suspended ++ [k] }))
  else nx s

/-! ### Extents and health (R330, R339) -/

def extOverlap (a b : W64) : Bool :=
  extValid a && extValid b && decide (fld a.toNat 28 0 < fld b.toNat 57 29) && decide (fld b.toNat 28 0 < fld a.toNat 57 29)

/-- A write of an extent register by the security core. -/
def writeExt (s : State) (i : Nat) (v : W64) : State :=
  let v := BitVec.ofNat 64 (setFld v.toNat 62 62 0)
  if (List.range 64).any (fun j => j != i && extOverlap v (tabGet 0 s.hd.flash.ext j)) then
    logErr s none { cls := 0x0C, code := 3, unitKind := 0x0B, detail := i }
  else modFlash s (fun x => { x with ext := tabSet 0 x.ext i v })

def execFlExtWrite (agent i : Nat) (v : W64) (s : State) : Res :=
  answer (reachesFlash s agent && decide (i < 64)) agent s (if agent = 0 then writeExt s i v else s)

/-- The state that the conditions of Table 12.11 give. -/
def healthOf (spareMin peMax failedPkg : Nat) : Nat :=
  if failedPkg ≠ 0 then 3 else if spareMin ≤ 1 then 2 else if spareMin ≤ 9 ∨ 2700 ≤ peMax then 1 else 0

/-- A package's spare pool, in percent of its size as made: retired blocks come out of it (R327, R339). -/
def sparePercent (x : HdFlash) (pkg : Nat) : Nat :=
  let pool := Config.sparePool pkg
  100 * (pool - (x.retired.filter (fun b => decide (b / 2 ^ 26 = pkg))).length) / max 1 pool

def spareLeast (x : HdFlash) : Nat := (List.range 16).foldl (fun m p => min m (sparePercent x p)) 100

/-- The highest erase count of a user block. -/
def eraseMost (x : HdFlash) : Nat := x.erases.foldl (fun m e => if bootBlock e.1 then m else max m e.2) 0

/-- A run of packages that have stopped answering, as bits of FAILED_PKG. -/
def pkgRun (stops : Bool) (first last : Nat) : Nat := if stops then (2 ^ (last + 1) - 2 ^ first) % 65536 else 0

/-- The store's health is measured again, with the packages that have stopped answering; its state never falls, and a rise writes a
record and an interrupt. -/
def execFlashHealthChange (stops : Bool) (first last : Nat) (s : State) : Res :=
  if s.hd.flash.fn.st = .off then nx s
  else
    let f := s.hd.flash
    let spareMin := spareLeast f
    let peMax := eraseMost f
    let pk := f.failedPkg.toNat ||| pkgRun stops first last
    let st := max f.health.toNat (healthOf spareMin peMax pk)
    let s1 := modFlash s (fun x => { x with
      health := BitVec.ofNat 3 st, failedPkg := BitVec.ofNat 16 pk, spareMin := BitVec.ofNat 7 spareMin, peMax := BitVec.ofNat 16 peMax })
    if st = f.health.toNat then nx s1
    else nx (queueIrq (logErr s1 none { cls := 7, code := 3, detail := st }) .cd0 flQ)

/-! ### Flash readers (R335) -/

/-- The next unit that a reader asks for. -/
def nextUnit (ws : List Work) : Option Nat := (ws.find? (fun w => decide (0 < w.left))).map Work.unit

/-- The unit is asked for. -/
def askUnit : List Work → List Work
  | [] => []
  | w :: r => if 0 < w.left then { w with unit := w.unit + 1, left := w.left - 1 } :: r else w :: askUnit r

def readerRuns (s : State) (a : StAt) : Bool :=
  let x := stGet s a 0
  a.kind == 8 && !x.halted && decide (x.begun = x.ended + 1)

/-- A reader asks the controller for its next unit; at most 64 are outstanding. -/
def execFlashReq (d : DieId) (slot station unit : Nat) (s : State) : Res :=
  match stAt s d slot station with
  | none => nx s
  | some a =>
    let x := stGet s a 0
    if readerRuns s a && nextUnit x.work == some unit && decide (x.units.length < 64) then
      let s := stMod s a 0 (fun x => { x with work := askUnit x.work, units := x.units ++ [(unit, 0, [])] })
      nx (askRun s { first := unit, count := 1, by_ := .reader d slot station })
    else nx s

/-- Items of `len` bytes cut from the front of a buffer, by fuel, with what is left; the last may be short when the entry ends. -/
def cutItems (len : Nat) (all : Bool) : Nat → List Byte → List (List Byte) × List Byte
  | 0, bs => ([], bs)
  | n + 1, bs =>
    if len ≤ bs.length then
      let r := cutItems len all n (bs.drop len)
      (bs.take len :: r.1, r.2)
    else if all && !bs.isEmpty then ([bs], []) else ([], bs)

/-- A unit of an entry has been delivered. -/
def workStep (w : Work) (rest : List Work) : List Work := if w.due = 1 then rest else { w with due := w.due - 1 } :: rest

/-- A unit's bytes go onto the entry's route, in items. -/
def sendUnit (s : State) (a : StAt) (w : Work) (rest : List Work) (bs : List Byte) : State :=
  let len := 256 * w.n
  let cut := cutItems len (w.due == 1) (65536 + 1) ((stGet s a 0).buf ++ bs)
  let s := match portRoute a w.port 0 with
    | some r => (cut.1.zipIdx).foldl (fun s i => queueItem s a.d a.slot r (.tile 0 (w.off + len * i.2) i.1)) s
    | none => s
  stMod s a 0 (fun x => { x with
    buf := cut.2, work := workStep { w with off := w.off + len * cut.1.length } rest })

/-- A delivered unit goes onto the entry's route, where it names one. -/
def passUnit (s : State) (a : StAt) (w : Work) (rest : List Work) (bs : List Byte) : State :=
  if w.port = 0xFF then stMod s a 0 (fun x => { x with work := workStep w rest }) else sendUnit s a w rest bs

/-- Checked unit bytes reach the reader: items on its route, and a sink write through the memory gate; a unit that failed halts
it. -/
def execFlashDlv (d : DieId) (slot station : Nat) (s : State) : Res :=
  match stAt s d slot station with
  | none => nx s
  | some a =>
    let x := stGet s a 0
    if !readerRuns s a then nx s
    else match x.units, x.work with
      | (u, st, bs) :: units, w :: rest =>
        let pop := fun (s : State) => stMod s a 0 (fun x => { x with units := units })
        if st = 0 then nx s
        else if st ≠ 1 then nx (haltStation (pop s) a 7 2 u)
        else
          let s0 := s
          let s := bump s d (setStationSet 8 a.place) 6 1
          if !w.sink then nx (passUnit (pop s) a w rest bs)
          else if !stepFetched a x then nx s0
          else match writeVA s d (stCaches s a) a.part (sinkVa w) bs with
            | .fault k => nx (haltFault (pop s) a 2 5 k k (stepTransfers a x) true)
            | .ask q => nx (askPeers s0 d a.part q)
            | .ok s1 =>
              let s := stMod (stBytes (dropAnswers s1 d) a (sinkVa w) bs.length) a 0 (fun x => stepDone a x)
              nx (stAsks (passUnit (pop s) a w rest bs) a)
      | _, _ => nx s

end Sys2Proof.Machine
end

