-- ==== Sys2Proof/Machine/Resets.lean ====
section
/-! DEFINITION. Resets of a partition, a compute die and the module, and what each keeps (R404 to R408, R475, Table 19.3). -/

namespace Sys2Proof.Machine

def modBoot (s : State) (f : HdBoot → HdBoot) : State := { s with hd := { s.hd with boot := f s.hd.boot } }
def modPower (s : State) (f : HdPower → HdPower) : State := { s with hd := { s.hd with power := f s.hd.power } }
def modHsec (s : State) (f : HdSec → HdSec) : State := { s with hd := { s.hd with sec := f s.hd.sec } }

def bothDies : List DieId := [.cd0, .cd1]

/-! ### A partition (R404) -/

/-- The Floor of a partition on one die is closed under ABORT and OFF; a load in progress is given up. -/
def closeFloor (s : State) (d : DieId) (p : Nat) : State :=
  let s := match (getPart (getDie s d) p).active with
    | some t => closeBill s d p t true
    | none => s
  let s := modPart s d p (fun x => { x with active := none, sw := none, held := none })
  let s := modDie s d (fun x => { x with loads := x.loads.filter (fun l => l.part != p) })
  (List.range 8).foldl (fun s t =>
    if ownerSlot s d t = some p then
      modSlot s d t (fun x => match x.st with
        | .empty => x
        | .loading => { lastStatus := x.lastStatus }
        | _ => { x with st := .loaded })
    else s) s

/-- The queue is OFF, and no command is left in it. -/
def stopQueue (x : Queue) : Queue :=
  { x with
    fn := { status := x.fn.status }, entries := [], started := [], free := 512, startSeq := x.accSeq, halted := false, cause := 0, runs := 0
    offReported := false }

/-- Steps 1 to 5 of R404 on one die; the queues' ring headers are written again but in a scrub (R246, R429). -/
def partResetDie (s : State) (p : Nat) (headers : Bool) (d : DieId) : State :=
  let s := closeFloor s d p
  let s := (List.range 64).foldl (fun s q =>
    if ownerQueue s d q = some p then
      let t := modQueue s d q stopQueue
      if headers then headerAfter s d q t else t
    else s) s
  let s := (List.range 272).foldl (fun s n =>
    let c : CellLoc := { die := d, site := n }
    if ownerCell s c = some p then modFn (initCell s c) c (fun f => { status := f.status }) else s) s
  let s := (List.range 64).foldl (fun s i =>
    if ownerInst s d .reductionLink i = some p then modLink s d i (fun k => { k with head := 0, headValid := false, closed := 0, places := [] })
    else s) s
  let s := (List.range 256).foldl (fun s g => if ownerEpoch s d g = some p then modEpoch s d g (fun e => { e with commit := none }) else s) s
  modPart s d p (fun x => { x with stepNf := false, lastVerdict := 0, nfSite := 0, nfCtx := 0, nfTime := 0 })

def partReset (s : State) (p : Nat) (headers : Bool) : State := bothDies.foldl (fun s d => partResetDie s p headers d) s

/-- The layout gives the partition a unit on a die, or a region of the die's HBM. -/
def holdsUnits (s : State) (p : Nat) (d : DieId) : Bool :=
  (layoutRec s p).exists_ && (layoutDie s p d != {} || (List.range 32).any (fun i =>
    let r := getRgn (getDie s d) i
    rgnValid r && !r.host && r.part.toNat == p))

/-- A die that holds, or that held, units of the partition is in its reset. -/
def unitsReset (s : State) (p : Nat) : Bool :=
  (getSec s p).diesReset != 0 || bothDies.any (fun d => (getDie s d).clk.stage != 0 && holdsUnits s p d)

/-- RESETTING of PART_SEC_ST (R419). -/
def isResetting (s : State) (p : Nat) : Bool := (getSec s p).resetting || unitsReset s p

/-- A reset of the partition has to wait: for its scrub, or for a reset of a die that holds its units (R404, R430). -/
def partWaits (s : State) (p : Nat) : Bool := s.hd.sec.scrub.any (fun c => c.part == some p) || unitsReset s p

/-- Resets run one after another, in the order of their STARTs: one that waits holds those behind it (R404). -/
def runHeld (s : State) : State :=
  (s.hd.boot.prHeld.takeWhile (fun p => !partWaits s p)).foldl (fun s p =>
    let s := modSec (partReset s p true) p (fun x => { x with resetting := false })
    modBoot s (fun b => { b with prHeld := b.prHeld.drop 1, prBusy := decide (1 < b.prHeld.length), prDone := true })) s

/-- START of PART_RST. -/
def startPartRst (s : State) (p : Nat) : State :=
  let s := modSec s p (fun x => { x with resetting := true })
  runHeld (modBoot s (fun b => { b with prBusy := true, prHeld := b.prHeld ++ [p] }))

def execPartRst (agent part : Nat) (s : State) : Res :=
  hostReg s agent (if mgmtAgent agent && decide (part < 16) then startPartRst (modBoot s (fun b => { b with prPart := BitVec.ofNat 4 part })) part else s)

/-! ### A compute die (R405) -/

/-- VALID of every descriptor is cleared and GEN kept. -/
def invalidateTdt (t : Tab Nat) : Tab Nat := t.foldl (fun u e => tabSet 0 u e.1 (setFld e.2 495 495 0)) []

/-- Interrupts of a log are a register; its records and sequence numbers are kept (Table 19.3). -/
def keptLog (e : Elog) : Elog := { wr := e.wr, rd := e.rd, lost := e.lost, recs := e.recs }

/-- Every unit of a die after its reset: HBM contents, the log, SCRUB_MAP, failed sectors and stale descriptors are kept; a
lost line stays lost. -/
def resetDie (x : Die) : Die := {
  fuse := { en := x.fuse.en, failed := x.fuse.failed }
  elog := keptLog x.elog
  scrubMap := x.scrubMap
  tdt := invalidateTdt x.tdt
  cacheLost := x.cacheLost }

/-- Clock enables that DM0 sets at the start of stage TRAIN (R392). -/
def dmEnables (x : DieClk) : DieClk := { x with enDm := 0x7, enUcie := 0xF, enMc := 0x3FF }

/-- Every HBM controller of the die is TRAINING until the training's results are in (R298, R299). -/
def mcsTraining (x : Die) : Die := { x with mcs := (List.range 320).map (fun i => (i, { getMc x i with st := .training })) }

/-- The governor's table and the die manager's start: the controllers train, the timebase takes the host die's value, and the sector checks begin (R19, R379,
R385). -/
def startDm (s : State) (d : DieId) : State :=
  let rates := calRates (dieNum d) (calSelected s)
  modDie (modDclk s d (fun x => dmEnables { x with tb := s.hd.time.tb, govMin := rates })) d (fun x => mcsTraining (sectorsAnswered x))

/-- A region of host memory lies on the die. -/
def holdsHost (x : Die) : Bool := (List.range 32).any (fun i => (getRgn x i).host && rgnValid (getRgn x i))

/-- A scrub ends unfinished: its channel is free, its partition stays SCRUBBING, and its granules stay unclean (R430). -/
def dropScrub (s : State) : State :=
  match s.hd.sec.scrub with
  | none => s
  | some c =>
    let s := match c.part with
      | none => s
      | some p => bothDies.foldl (fun s d => modDie s d (fun x => { x with
          scrubMap := clearGranules x.scrubMap (regionGranules x p) })) s
    modHsec s (fun c => { c with scrub := none, ch0 := { c.ch0 with busy := false, op := 0, block := none } })

/-- What the host die and the other die lose with a die: its measurements and what was in flight on the bridge. -/
def dropDie (s : State) (d : DieId) : State :=
  let s := (List.range 16).foldl (fun s p => modSec s p (fun x =>
    let x := if holdsUnits s p d then { x with diesReset := x.diesReset ||| 2 ^ dieNum d } else x
    match d with
    | .cd0 => { x with meas0 := [], ovf0 := false }
    | .cd1 => { x with meas1 := [], ovf1 := false })) s
  let e := otherDie d
  let s := (List.range 16).foldl (fun s n => (segStations s e n).foldl discardCrossing s) s
  modDie s e (fun x => { x with segs := x.segs.map (fun g => (g.1, { g.2 with st := .down, flight := [], resend := [] })) })

/-- The layout's assignments on a die are cleared, until the next LAYOUT_SET (R24). -/
def dropLayout (s : State) (d : DieId) : State :=
  modHsec s (fun c => { c with layout := c.layout.foldl (fun t e => tabSet {} t e.1 (match d with
    | .cd0 => { e.2 with die0 := {} }
    | .cd1 => { e.2 with die1 := {} })) [] })

def beginDieReset (s : State) (d : DieId) : State :=
  let s := dropLayout (dropScrub (dropDie s d)) d
  let s := modDie s d resetDie
  let s := startDm (modDclk s d (fun c => { c with stage := 4 })) d
  modBoot s (fun b => match d with
    | .cd0 => { b with busyCd0 := true, brgWait := true }
    | .cd1 => { b with busyCd1 := true, brgWait := true })

/-- NO_SERVICE ends only with a power cycle: a request for a reset has no effect in it (R397). -/
def resetServed (s : State) : Bool := s.hd.boot.stage != 0xF

/-- A request to reset a die: refused where it holds host memory, merged where a reset is under way (R405, R407). -/
def requestDieReset (s : State) (d : DieId) : State :=
  let x := getDie s d
  if !s.hd.power.computeRails || x.clk.stage != 0 then s
  else if holdsHost x then modBoot s (fun b => { b with refused := true })
  else beginDieReset s d

def execDieReset (agent : Nat) (d : DieId) (s : State) : Res := hostReg s agent (if mgmtAgent agent && resetServed s then requestDieReset s d else s)

/-! ### The module (R406, R408) -/

/-- Units written since the last FLUSH keep their old or their new contents (R324): one free bit for each. -/
def settleJournal (s : State) : State :=
  let s := s.hd.flash.journal.foldl (fun s e =>
    let f := drawFree s 1
    if f.1 = 0 then f.2 else modFlash f.2 (fun x => { x with durable := tabSet 0 x.durable e.1 (e.2 - 1) })) s
  modFlash s (fun x => { x with journal := [] })

/-- What the flash store keeps without power. -/
def keptFlash (f : HdFlash) : HdFlash := {
  nand := f.nand, durable := f.durable, retired := f.retired, marksRead := f.marksRead, erases := f.erases, reads := f.reads
  refresh := f.refresh
  boot0 := f.boot0, boot1 := f.boot1, bootSpare := f.bootSpare, bootReads := f.bootReads }

/-- What it keeps while it has power: its health never falls back, and no unit written since the last FLUSH is lost (R324, R339). -/
def heldFlash (f : HdFlash) : HdFlash :=
  { keptFlash f with
    health := f.health, failedPkg := f.failedPkg, spareMin := f.spareMin, peMax := f.peMax, journal := f.journal, bootLater := f.bootLater }

/-- The host die after a reset: fuses, pins and the flash store are kept. -/
def resetHost (h : HostDie) (flash : HdFlash → HdFlash) : HostDie := {
  ident := { h.ident with pfWin := 0x02000000 }
  power := h.power
  flash := flash h.flash }

/-- Boot frequencies of the islands that have power, and the enable that the boot ROM sets in stage ROM (R372, R392). -/
def startRom (s : State) : State :=
  let s := modClk s (fun c => { c with
    enHd := BitVec.ofNat 28 (2 ^ 24), freq := [0, 1, 2].foldl (fun t n => tabSet 0 t n (bootKhz n)) [] })
  modBoot s (fun b => { b with stage := 2 })

/-- The layout that every boot starts with: partition 0 exists and has no unit (R414, R415). -/
def bootLayout (s : State) : State := modHsec s (fun c => { c with layout := tabSet {} [] 0 { exists_ := true } })

/-- A scrub that a reset ended: its partition stays SCRUBBING (R430). -/
def keptScrubs (t : Tab PartSec) : Tab PartSec :=
  t.foldl (fun u e => tabSet {} u e.1 (if e.2.st = .scrubbing then { st := .scrubbing } else {})) []

/-- A reset of every unit of the module: logs, HBM contents and failed sectors are kept. -/
def warmReset (s : State) (cause : Nat) : State :=
  let n := s.hd.boot.count
  let scrubs := keptScrubs s.hd.sec.parts
  let logs := (keptLog s.hd.elog, keptLog s.cd0.elog, keptLog s.cd1.elog)
  let die := fun (x : Die) (e : Elog) => { resetDie x with elog := e, scrubMap := 0, tdt := [] }
  let s := { s with
    hd := { resetHost s.hd heldFlash with elog := logs.1 }, cd0 := die s.cd0 logs.2.1, cd1 := die s.cd1 logs.2.2, imsic := [] }
  let s := modBoot s (fun b => { b with count := n + 1, cause := BitVec.ofNat 3 cause })
  startRom (bootLayout (modHsec s (fun c => { c with parts := scrubs })))

def execWarmReset (agent : Nat) (s : State) : Res := hostReg s agent (if mgmtAgent agent && resetServed s then warmReset s 1 else s)

/-! ### Power (R391, R408, R487, R492) -/

/-- Every rail is off: only fuses, flash and pins are left. -/
def powerOff (s : State) : State :=
  let s := settleJournal s
  let die := fun (x : Die) => ({ fuse := { en := x.fuse.en } } : Die)
  let p := s.hd.power
  let s := { s with
    hd := { resetHost s.hd keptFlash with power := { p with pwrgd := false, hostRails := false, computeRails := false, bootPending := false, restartDue := false } }
    cd0 := die s.cd0, cd1 := die s.cd1, hbm := [], hbmBad := [], imsic := [] }
  if p.pwrgd then emit s (.pin "MOD_PWRGD" false) else s

/-- The host-die rails start and power-on reset is released. -/
def startPower (s : State) : State :=
  let s := modPower s (fun p => { p with hostRails := true, bootPending := false, restartDue := false })
  startRom (bootLayout (modBoot s (fun b => { b with count := 1 })))

/-- MOD_EN rises: the straps are latched, and the module boots where PWR48_IN is in range. -/
def execModEnRise (role : Bool) (addr : Nat) (s : State) : Res :=
  let p := s.hd.power
  if p.modEn then nx s
  else
    let s := modPower s (fun p => { p with
      modEn := true, rolePin := role, addrPin := BitVec.ofNat 2 addr, role := role, addr := BitVec.ofNat 2 addr, bootPending := true })
    if p.pwr48 = .inRange ∧ !p.tripLatch then nx (startPower s) else nx s

/-- PWR48_IN reaches 39 V with its capacitance charged: a boot that waits begins. After a trip it does so where 48 V had been removed
(R408). -/
def execPwr48Threshold (s : State) : Res :=
  let p := s.hd.power
  if p.pwr48 = .inRange then nx s
  else
    let still := p.tripLatch && decide (p.pwr48 ≠ .absent)
    let s := modPower s (fun p => { p with pwr48 := .inRange, tripLatch := still })
    if p.modEn && !p.hostRails && !still && (p.bootPending || p.tripLatch) then nx (startPower s) else nx s

/-- MOD_EN falls: every rail off; a trip no longer holds the module. -/
def execModEnFall (s : State) : Res :=
  if s.hd.power.modEn then nx (modPower (powerOff s) (fun p => { p with modEn := false, tripLatch := false })) else nx s

/-- A turn-off after which the module restarts by itself. -/
def turnOff (s : State) : State := if s.hd.power.hostRails then modPower (powerOff s) (fun p => { p with restartDue := true }) else s

/-- PWR48_IN falls below 37 V. DESIGN CHOICE (assumption 112): of a module that is off, 48 V has been removed. -/
def execUndervoltage (s : State) : Res :=
  nx (modPower (turnOff s) (fun p => { p with pwr48 := if s.hd.power.hostRails then .low else .absent }))
def execOvervoltage (s : State) : Res := nx (modPower (turnOff s) (fun p => { p with pwr48 := .high }))
def execRegulatorFault (s : State) : Res := nx (turnOff s)

/-- 100 ms after a turn-off, with PWR48_IN in range and MOD_EN high. -/
def execTurnOffRestart (s : State) : Res :=
  let p := s.hd.power
  if p.restartDue && decide (p.pwr48 = .inRange) && p.modEn && !p.tripLatch then nx (startPower s) else nx s

/-- A comparator turns off every regulator; nothing records the trip (R383). -/
def execThermalTrip (s : State) : Res :=
  if s.hd.power.hostRails then nx (modPower (powerOff s) (fun p => { p with tripLatch := true })) else nx s

end Sys2Proof.Machine
end

