-- ==== Sys2Proof/Machine/Bundles.lean ====
section
/-! DEFINITION. The boot region's pages and blocks, and the selectors and firmware bundles in it (R320, R326, R329, R393, R433, R434). -/

namespace Sys2Proof.Machine

/-! ### Pages and blocks (R320, R326, R329) -/

/-- Pages of a copy, which holds 8 GiB; and bytes of an SLC block, which has 768 pages. -/
def bootPages : Nat := 524288
def bootBlockBytes : Nat := 768 * 16384

/-- A page of a copy has failed. -/
def failPage (x : HdFlash) (p : BootPage) : HdFlash :=
  if bootPages ≤ p.page ∨ pageBad x p.second p.page then x else { x with bootBad := x.bootBad ++ [p] }

/-- Pages that a read of the region met as failed. -/
def failPages (s : State) (ps : List BootPage) : State := modFlash s (fun x => ps.foldl failPage x)

/-- A page that fails on one copy is rewritten from the other; where its block has gone bad, one of the copy's 5 spare blocks replaces
the block. -/
def repairPage (s : State) (p : BootPage) : State :=
  let x := s.hd.flash
  let n := b2n p.second
  if pageBad x (!p.second) p.page || (p.worn && decide (5 ≤ tabGet 0 x.bootSpare n)) then s
  else
    let bs := bootBytes (bootCopy s n) (16384 * p.page) 16384
    modFlash s (fun x =>
      let x := if p.second then { x with boot1 := tabWrite 0 x.boot1 (16384 * p.page) bs } else { x with boot0 := tabWrite 0 x.boot0 (16384 * p.page) bs }
      { x with
        bootBad := x.bootBad.filter (fun q => q.second != p.second || q.page != p.page)
        bootSpare := if p.worn then tabSet 0 x.bootSpare n (tabGet 0 x.bootSpare n + 1) else x.bootSpare })

/-- The security core rewrites the pages that failed on one copy only. -/
def repairBoot (s : State) : State := s.hd.flash.bootBad.foldl repairPage s

/-- Reads of a range of a copy, counted by page in each block; a block goes to a fresh one after 500,000 (R326). -/
def noteBoot (s : State) (n off len : Nat) : State :=
  let b0 := off / bootBlockBytes
  modFlash s (fun x => { x with bootReads := (List.range ((off + len - 1) / bootBlockBytes + 1 - b0)).foldl (fun t i =>
    let k := 1024 * n + b0 + i
    let lo := max off ((b0 + i) * bootBlockBytes)
    let hi := min (off + len) ((b0 + i + 1) * bootBlockBytes)
    let r := tabGet 0 t k + ((hi - 1) / 16384 + 1 - lo / 16384)
    tabSet 0 t k (if 500000 ≤ r then 0 else r)) x.bootReads })

/-- A read of the copy that booted by the security core, which met failed pages: they are rewritten (R329). -/
def readBoot (s : State) (failed : List BootPage) (off len : Nat) : State :=
  repairBoot (failPages (noteBoot s (b2n s.hd.boot.copy) off len) failed)

/-- The security core writes bytes into the first copy of the boot region, and into the second after it (R329): a loss of power
between the two leaves the second as it was. -/
def writeBoot (s : State) (off : Nat) (bs : List Byte) : State :=
  modFlash (settleBoot s) (fun x => { x with boot0 := tabWrite 0 x.boot0 off bs, bootLater := [(off, bs)] })

/-! ### Selectors (R434) -/

/-- The selector of a copy names its bundles only where it is whole. -/
def selectorOk (s : State) (n : Nat) : Bool :=
  let t := bootCopy s n
  bootNum t 0 4 == 0x4C45534D && bootNum t 56 8 == crc64 (leBytes 8 s.hd.ident.serial.toNat ++ bootBytes t 0 56)

/-- ACTIVE and STAGED of a copy: bundle slots, STAGED 0xFF for none; slot 0 and none without a whole selector. -/
def selectedOf (s : State) (n : Nat) : Nat × Nat :=
  if selectorOk s n then (bootNum (bootCopy s n) 8 1 % 2, bootNum (bootCopy s n) 9 1) else (0, 0xFF)

/-- Those of the copy that booted. -/
def selected (s : State) : Nat × Nat := selectedOf s (b2n s.hd.boot.copy)

/-- Place of a bundle slot. -/
def bundleBase (slot : Nat) : Nat := 0x1800000 + slot * 0x10000000

/-- Bytes of a bundle slot in the copy that booted. -/
def bundleAt (s : State) (slot off n : Nat) : List Byte := bootBytes (bootCopy s (b2n s.hd.boot.copy)) (bundleBase slot + off) n

/-- The header of a bundle slot. -/
def bundleHead (s : State) (slot : Nat) : List Byte := bundleAt s slot 0 0x400

/-! ### Bundle headers (R433) -/

/-- A field of a block of bytes. -/
def argF (b : List Byte) (off n : Nat) : Nat := leNat ((b.drop off).take n)

/-- A component entry of a bundle header: TYPE, OFFSET, SIZE and DIGEST. -/
def compF (b : List Byte) (i off n : Nat) : Nat := argF b (0x58 + 80 * i + off) n
def nComp (b : List Byte) : Nat := argF b 6 2

def bundleKey (b : List Byte) : List Byte := (b.drop 0x18).take 57

/-- The fuse slot, not revoked, that holds a public key's digest. -/
def keySlot (s : State) (key : List Byte) : Option Nat :=
  (List.range 4).find? (fun k => !bit s.hd.ident.keyRevoked.toNat k && (tabGet 0 s.hd.ident.keyDigest k).toNat == digest512 key)

/-- The header's signature verifies under its key. -/
def bundleSigned (b : List Byte) : Bool := edVerify (bundleKey b) (ascii "HOLTUTH-FW") (b.take 0x380) ((b.drop 0x380).take 114)

/-- The boot ROM takes the bundle that the selector of a copy names, where the copy can be read (R393). -/
def romTakes (s : State) (n : Nat) (r : BootRead) : Bool :=
  let b := bootBytes (bootCopy s n) (bundleBase (selectedOf s n).1) 0x400
  r.readable && (keySlot s (bundleKey b)).isSome && bundleSigned b

/-- The component of a type in the bundle in force: its offset, size and digest. -/
def component (s : State) (type : Nat) : Option (Nat × Nat × Nat) :=
  let b := bundleHead s (selected s).1
  ((List.range (min 8 (nComp b))).find? (fun i => compF b i 0 1 == type)).map (fun i => (compF b i 4 4, compF b i 8 4, compF b i 16 64))

end Sys2Proof.Machine
end

