-- ==== Sys2Proof/Machine/Boot.lean ====
section
/-! DEFINITION. The stages of a boot and of a die's return from reset (R391 to R398, R411, R437). -/

namespace Sys2Proof.Machine

/-- The clock monitor has decided on Y1 (R372). -/
def xtalDecided (s : State) : Bool := s.hd.clk.xtalGood || s.hd.clk.noXtal

/-- NO_SERVICE with a reason (R397). -/
def noService (s : State) (reason : Nat) : State := modBoot s (fun b => { b with stage := 0xF, reason := BitVec.ofNat 4 reason })

/-- The boot ROM takes the bundle of the NF00 copy, else that of NF01 (R393). -/
def execFirmwareVerify (copy0 copy1 : BootRead) (s : State) : Res :=
  if s.hd.boot.stage ≠ 2 ∨ !xtalDecided s then nx s
  else
    let s := failPages s (copy0.failed ++ copy1.failed)
    let first := romTakes s 0 copy0
    if !first && !romTakes s 1 copy1 then nx (noService s 1)
    else nx (modBoot s (fun b => { b with
      stage := 3, copy := !first
      degraded := b.degraded ||| BitVec.ofNat 16 (2 ^ 9 * b2n (!(copy0.readable && copy1.readable)) + 2 ^ 8 * b2n s.hd.clk.noXtal) }))

/-- Host memory of the boot die (R394). -/
def bootRegion (s : State) (d : DieId) : State :=
  modBoot (modDie s d (fun x => setRgn x 0 { base := 0, limit := 4, host := true, valid := true })) (fun b => { b with bootDie := decide (d = .cd1) })

/-- Whether the die's manager starts. -/
def dieStarts (r : SecStart) : DieId → Bool
  | .cd0 => r.die0
  | .cd1 => r.die1

/-- A compute die's rails are up, and its manager is loaded and started. -/
def powerDie (s : State) (r : SecStart) (d : DieId) : State :=
  if !(r.railsOk && dieStarts r d) then s
  else
    let n := 5 + 3 * dieNum d
    let s := modClk s (fun c => startRamp { c with freq := tabSet 0 c.freq n (bootKhz n) } n (serviceKhz n))
    startDm (modDclk s d (fun x => { x with running := true })) d

/-- Stage SEC_FW: the pages that failed, calibration, trim, boot host region, compute rails and DM0. -/
def secFwStart (s : State) (r : SecStart) : State :=
  let s := readBoot s r.failed calBase 0x10000
  let cal := calSelected s
  let s := modBoot s (fun b => { b with calBad := cal.isNone, stage := 4, brgWait := true })
  let nonce := drawFree s 64
  let s := modHsec nonce.2 (fun c => { c with nonce := BitVec.ofNat 64 nonce.1 })
  let s := modClk s (fun c => { c with enHd := c.enHd ||| BitVec.ofNat 28 (2 ^ 25 + 2 ^ 26 + 2 ^ 27), thermOff := calThermal cal })
  let s := applyTrim s (calTrim cal)
  let s := bootRegion s (if r.die0 then .cd0 else .cd1)
  let s := if r.railsOk then emit (modPower s (fun p => { p with computeRails := true, pwrgd := true })) (.pin "MOD_PWRGD" true) else s
  powerDie (powerDie s r .cd0) r .cd1

def execSecFwStart (r : SecStart) (s : State) : Res := if s.hd.boot.stage = 3 then nx (secFwStart s r) else nx s

/-! ### Stage TRAIN -/

/-- The results of a training for one die: STATE of its four UCIe modules, two bits each, and its trained stacks. -/
def trainUcieOf (r : LinkTrain) : DieId → Nat
  | .cd0 => r.ucie0
  | .cd1 => r.ucie1
def trainLanesOf (r : LinkTrain) : DieId → Nat
  | .cd0 => r.lanes0
  | .cd1 => r.lanes1
def trainStacksOf (r : LinkTrain) : DieId → Nat
  | .cd0 => r.stacks0 % 1024
  | .cd1 => r.stacks1 % 1024

/-- Controllers of a trained stack are ON, of any other FAILED (R298, R392). -/
def trainStacks (x : Die) (m : Nat) : Die :=
  let x := (List.range 320).foldl (fun x i => setMc x i { getMc x i with st := if bit m (i / 32) then .on else .failed }) x
  { x with ilvEn := BitVec.ofNat 10 m, ilvValid := true }

/-- The die trains in this stage: at boot a die whose manager runs, or one that returns from its reset. -/
def trainsNow (s : State) (d : DieId) : Bool :=
  (s.hd.boot.stage == 4 && (getDie s d).clk.running) || (getDie s d).clk.stage == 4

def trainDie (s : State) (r : LinkTrain) (d : DieId) : State :=
  if !trainsNow s d then s
  else modDie s d (fun x =>
    let x := (List.range 4).foldl (fun x m => trainUcie x m (fld (trainUcieOf r d) (2 * m + 1) (2 * m))
      (fld (trainLanesOf r d) (6 * m + 2) (6 * m)) (fld (trainLanesOf r d) (6 * m + 5) (6 * m + 3))) x
    let x := trainStacks x (trainStacksOf r d)
    if x.clk.stage = 4 then { x with clk := { x.clk with stage := 5 } } else x)

/-- Bits [5:2] and [6] of DEGRADED (Table 15.4). -/
def trainDegraded (s : State) (up : Nat) : Nat :=
  let few := fun (d : Die) => decide ((bitsSet 10 d.ilvEn.toNat).length < 10)
  let slow := fun (d : Die) => (List.range 4).any (fun m => (getUcie d m).st != 1)
  4 * b2n (few s.cd0) + 8 * b2n (few s.cd1) + 16 * b2n (slow s.cd0) + 32 * b2n (slow s.cd1) + 64 * b2n (up % 65536 == 0)

/-- With SAVE_ON_TRAIN a new set replaces the seeds, whose values no rule states: free bytes (R412, assumption 20). -/
def freshSeeds (s : State) (set : List Byte) (i : Nat) : List Byte × State :=
  let n := (calSection set i).length
  let f := drawFree s (8 * n)
  (overlay set (leNat ((set.drop (0x20 + 8 * i)).take 4)) (leBytes n f.1), f.2)

/-- A set with its ORIGIN and the check of its body. -/
def sealSet (serial origin : Nat) (set : List Byte) : List Byte :=
  let n := leNat ((set.drop 8).take 4)
  let set := overlay set 6 (leBytes 1 origin)
  overlay set 0x18 (leBytes 8 (crc64 (leBytes 8 serial ++ (set.drop 0x100).take (n - 0x100))))

def saveSeeds (s : State) : State :=
  if !s.hd.boot.calSave then s
  else match calSelected s with
    | none => s
    | some set =>
      let a := freshSeeds s set 3
      let b := freshSeeds a.2 a.1 4
      writeBoot b.2 calBase (sealSet s.hd.ident.serial.toNat 1 b.1)

/-- UCIe, HBM4 and the bridge have trained, at boot or for a die alone. -/
def execLinkTraining (r : LinkTrain) (s : State) : Res :=
  if !trainsNow s .cd0 && !trainsNow s .cd1 && s.hd.boot.stage != 4 then nx s
  else
    let s1 := trainDie (trainDie s r .cd0) r .cd1
    let s1 := saveSeeds (if s1.hd.boot.brgWait then retrainBridge s1 r.segs else s1)
    nx (if s.hd.boot.stage = 4 then
      modBoot s1 (fun b => { b with stage := 5, degraded := b.degraded ||| BitVec.ofNat 16 (trainDegraded s1 r.segs) })
    else s1)

/-! ### Stage FLOOR (R396, R397, R400) -/

def badSites (r : FloorTest) : DieId → List Nat
  | .cd0 => r.bad0
  | .cd1 => r.bad1

/-- Sites that failed a boot test are absent. -/
def markAbsent (x : Die) (bad : List Nat) : Die :=
  (bad.filter (siteEnabled x)).foldl (fun x n =>
    let g := groupOf n
    { x with fuse := { x.fuse with absent := tabSet 0 x.fuse.absent g (BitVec.ofNat 17 (setFld (tabGet 0 x.fuse.absent g).toNat (n % 17) (n % 17) 1)) } }) x

/-- A UCIe module, a stack and a cell of a die work. -/
def ucieWorks (x : Die) : Bool := (List.range 4).any (fun m => (getUcie x m).st != 0)
def stackWorks (x : Die) : Bool := x.ilvEn != 0
def cellWorks (x : Die) : Bool := (List.range 272).any (fun n => sitePresent x n)

/-- The die manager sets EN of every enabled cell outside a failed sector (R400). -/
def startCells (s : State) (d : DieId) : State :=
  (List.range 272).foldl (fun s n => if sitePresent (getDie s d) n then writeCellEn s { die := d, site := n } true else s) s

/-- The first test of Table 15.5 that fails; 0 where the floor is met. -/
def floorReason (s : State) (badCores : Nat) : Nat :=
  let works := bothDies.filter (fun d => (getDie s d).clk.running && ucieWorks (getDie s d))
  if badCores % 2 ^ 24 = 2 ^ 24 - 1 then 2
  else if works.isEmpty then 3
  else if !works.any (fun d => stackWorks (getDie s d)) then 4
  else if !works.any (fun d => stackWorks (getDie s d) && cellWorks (getDie s d)) then 5
  else 0

/-- The die meets its part of the service floor. -/
def dieMeets (x : Die) : Bool := x.clk.running && ucieWorks x && stackWorks x && cellWorks x

/-- A die without a manager, a UCIe module or a stack is absent (Table 15.4). -/
def dropAbsent (s : State) (d : DieId) : State :=
  let x := getDie s d
  if x.clk.running && ucieWorks x && stackWorks x then s
  else modBoot (modDclk s d (fun c => { c with running := false })) (fun b =>
    { b with degraded := b.degraded ||| BitVec.ofNat 16 (2 ^ dieNum d) })

/-- Lines of the die cache that lie in a run of granules are invalidated without write-back, and the granules read as zero. -/
def zeroRange (s : State) (d : DieId) (g n : Nat) : State :=
  let lo := dieNum d * 2 ^ 39 + g * gib
  let keep := fun (k : Nat) => !(decide (lo ≤ k) && decide (k < lo + n * gib))
  let lines := fun (ls : List Nat) => ls.filter (fun l => keep (l * 256))
  let s := { s with hbm := tabKeep keep s.hbm, hbmBad := s.hbmBad.filter (fun u => keep (u * 32)) }
  modDie s d (fun x => { x with cacheLost := lines x.cacheLost, cacheDirty := lines x.cacheDirty, cacheLines := lines x.cacheLines })

/-- Granules 0 to 3 of the boot die are zero-written before the bootloader is loaded (R418). -/
def zeroBoot (s : State) (d : DieId) : State := zeroRange s d 0 4

/-- What the tests of the host die found: cores, flash packages and PCIe that failed are absent, and set their bits of DEGRADED (R396). -/
def hostFailures (s : State) (r : FloorTest) : State :=
  let s := modFlash s (fun f => { f with failedPkg := f.failedPkg ||| BitVec.ofNat 16 r.packages })
  modBoot s (fun b => { b with
    badCores := r.cores % 2 ^ 24, badPcie := r.pcie
    degraded := b.degraded ||| BitVec.ofNat 16 (2 ^ 7 * b2n (r.cores % 2 ^ 24 != 0) + 2 ^ 10 * b2n (r.packages / 4 % 2 ^ 14 != 0) + 2 ^ 11 * b2n r.pcie) })

/-- The host bootloader is loaded into the boot host region and verified. DESIGN CHOICE (assumption 110): at the region's start; one
that fails is reported as NO_FIRMWARE. -/
def loadBootloader (s : State) (boot : DieId) : State :=
  match component s 4 with
  | none => noService s 1
  | some (off, size, digest) =>
    let base := bundleBase (selected s).1 + off
    let bs := bootBytes (bootCopy s (b2n s.hd.boot.copy)) base size
    let s := storeHbm (noteBoot s (b2n s.hd.boot.copy) base size) (dieNum boot * 2 ^ 39) bs
    if digest512 bs = digest then modBoot s (fun b => { b with stage := 6 }) else noService s 1

/-- Stage FLOOR of the boot. -/
def bootFloor (s : State) (r : FloorTest) : State :=
  let s := bothDies.foldl (fun s d => modDie s d (fun x => markAbsent x (badSites r d))) s
  let why := floorReason s r.cores
  if why ≠ 0 then noService s why
  else
    let s := hostFailures (bothDies.foldl dropAbsent s) r
    let boot : DieId := if dieMeets s.cd0 then .cd0 else .cd1
    let s := if s.hd.boot.bootDie = decide (boot = .cd1) then s
      else bootRegion (modDie s (otherDie boot) (fun x => setRgn x 0 {})) boot
    let s := zeroBoot s boot
    let s := bothDies.foldl (fun s d => if (getDie s d).clk.running then startCells s d else s) s
    loadBootloader s boot

/-- Stage FLOOR of a die that returns from its reset: its reset ends. -/
def dieFloor (s : State) (r : FloorTest) (d : DieId) : State :=
  if (getDie s d).clk.stage ≠ 5 then s
  else
    let s := modDie s d (fun x => markAbsent x (badSites r d))
    let s := modDclk s d (fun c => { c with stage := 0, running := ucieWorks (getDie s d) && stackWorks (getDie s d) })
    let s := if (getDie s d).clk.running then startCells s d else s
    let s := modBoot s (fun b => match d with
      | .cd0 => { b with busyCd0 := false }
      | .cd1 => { b with busyCd1 := false })
    runHeld ((List.range 16).foldl (fun s p => modSec s p (fun x => { x with diesReset := setFld x.diesReset (dieNum d) (dieNum d) 0 })) s)

def execServiceFloorTest (r : FloorTest) (s : State) : Res :=
  if s.hd.boot.stage = 5 then nx (bootFloor s r) else nx (dieFloor (dieFloor s r .cd0) r .cd1)

/-! ### HOST_START (R391, R414, R437) -/

/-- SVN of the bundle in force. -/
def activeSvn (s : State) : Nat := leNat (bundleAt s (selected s).1 0x10 8)

/-- Core 0 runs the bootloader; the first boot on a bundle of a higher SVN raises FW_SVN. -/
def execHostStart (s : State) : Res :=
  if s.hd.boot.stage = 6 ∧ !s.hd.clk.enHd.toNat.testBit 0 then
    let s := modClk s (fun c => { c with enHd := c.enHd ||| 1 })
    let s := modSec s 0 (fun x => { x with st := .active })
    nx { s with hd := { s.hd with ident := { s.hd.ident with fwSvn := max s.hd.ident.fwSvn (min 64 (activeSvn s)) } } }
  else nx s

end Sys2Proof.Machine
end

