-- ==== Sys2Proof/Machine/CellEw.lean ====
section
/-! DEFINITION. Element-wise operations (R168 to R172). An EW acts as a whole when the drain unit takes it: at its issue, or later
where it waits for older reads, for the store, or behind a parity error (assumption 15). -/

namespace Sys2Proof.Machine

/-- Class L of Table 6.8. -/
def ewClassL (op : Nat) : Bool := decide (op ≤ 0x0B)
def ewIsFn (op : Nat) : Bool := op == 0x12 || op == 0x13

/-- The sum in FP32 of values in ascending order, from the first one, each addition rounded (R169). -/
def sumFp32 : List Val → Val
  | [] => .zero
  | v :: vs => decodeVal .fp32 (vs.foldl (fun acc x => toFp32 (addVal false (decodeVal .fp32 acc) x)) (toFp32 v))

/-- The maximum of values in ascending order; of no value it is open (assumption 20). -/
def maxFp32 : List Val → Val
  | [] => decodeVal .fp32 (Config.fixedFn 0x130 0).toNat
  | v :: vs => vs.foldl (fun a b => maxMin true a b) v

/-- The result of an operation on one element (Table 6.8); `rd` marks rounding toward minus infinity. DESIGN CHOICE (assumption 84):
DFN multiplies a by f'(b), which keeps R172's bound, rounds the product to FP32 under RNE, and converts that. -/
def ewElem (m : CellMem) (op fn : Nat) (rd : Bool) (p q a b c : Val) : Val :=
  match op with
  | 0x00 => a
  | 0x01 => addVal rd a b
  | 0x02 => addVal rd a (negVal b)
  | 0x03 => mulVal a b
  | 0x04 => addVal rd (mulVal a b) c
  | 0x05 => maxMin true a b
  | 0x06 => maxMin false a b
  | 0x07 => absVal a
  | 0x08 => negVal a
  | 0x09 => maxMin false (maxMin true a b) c
  | 0x0A => if c.isZero then b else a
  | 0x0B => addVal rd (mulVal a p) (mulVal b q)
  | 0x0C => match a, b with
    | .fin _ n _, .fin _ 0 _ => if n = 0 then divVal a b else decodeVal .fp32 (Config.fixedFn 0x120 (toFp32 a)).toNat
    | _, _ => divVal a b
  | 0x0D => sqrtVal a
  | 0x12 => decodeVal .fp32 (fnEval m.ftab fn (toFp32 a))
  | 0x13 => decodeVal .fp32 (toFp32 (mulVal a (decodeVal .fp32 (dfnEval m.dtab fn (toFp32 b)))))
  | _ => decodeVal .fp32 (transEval op (toFp32 a))

def ewArgs (t : Stream) (w : Nat) : EwArgs :=
  { dslot := fld w 19 14, sa := fld w 25 20, sb := fld w 31 26, sc := fld w 37 32, bc := fld w 39 38
    scalar := getReg t (fld w 44 40), fmt := fld w 49 45, rnd := fld w 52 50, sat := bit w 53
    dkind := fld w 55 54, dreg := fld w 60 56 }

/-- Extents of the result (R168). -/
def ewRows (op : Nat) (a : Slot) : Nat := if op = 0x17 then 1 else a.rows
def ewCols (op : Nat) (a : Slot) : Nat := if 0x14 ≤ op ∧ op ≤ 0x16 then 1 else a.cols

/-- The sources' extents do not agree after broadcast (R168). -/
def ewShapeBad (c : Cell) (op : Nat) (g : EwArgs) : Bool :=
  let a := getTslot c g.sa
  let b := getTslot c g.sb
  let z := getTslot c g.sc
  (ewUsesB op && match g.bc with
    | 0 => b.rows != a.rows || b.cols != a.cols
    | 1 => b.rows != 1 || b.cols != a.cols
    | 2 => b.rows != a.rows || b.cols != 1
    | _ => false)
  || (ewUsesC op && (z.rows != a.rows || z.cols != a.cols))

/-- The result does not fit its destination (R168). -/
def ewDestBad (c : Cell) (d : Dest) (R C : Nat) : Bool :=
  match d with
  | .slot t => (getTslot c t).rows != R || (getTslot c t).cols != C
  | .store _ => false
  | .desc _ e => decide (eTrows e < R) || decide (eTcols e < C)

/-- Whether a store result carries scales, and its span (R168). -/
def ewScaled (d : Dest) (f : Fmt) : Bool :=
  match d with
  | .desc _ e => eSlayout e != 0
  | _ => fmtAlwaysScaled f
def ewSpan (d : Dest) (f : Fmt) (R C : Nat) : Nat := R * lineLen f C + (if ewScaled d f then 128 else 0)
def destOff : Dest → Nat
  | .slot _ => 0
  | .store off => off
  | .desc off _ => off

/-- The exact values of the result, under the configurations that the EW read at issue (R104). DESIGN CHOICE (assumption 103):
RSUMSQ adds each square exact and unrounded, in one addition that rounds to FP32. -/
def ewVals (x : CellAll) (e : EwOp) (i j : Nat) : Val :=
  let g := e.g
  let av := fun i j => elemVal x.c e.a g.sa i j
  let bv := match g.bc with
    | 0 => elemVal x.c e.b g.sb i j
    | 1 => elemVal x.c e.b g.sb 0 j
    | 2 => elemVal x.c e.b g.sb i 0
    | _ => decodeVal .fp32 (fld g.scalar.toNat 31 0)
  match e.op with
  | 0x14 => sumFp32 ((List.range e.a.cols).map (fun j => av i j))
  | 0x15 => sumFp32 ((List.range e.a.cols).map (fun j => mulVal (av i j) (av i j)))
  | 0x16 => maxFp32 ((List.range e.a.cols).map (fun j => av i j))
  | 0x17 => sumFp32 ((List.range e.a.rows).map (fun i => av i j))
  | _ => ewElem x.m e.op (g.sc % 16) (g.rnd == 3) (decodeVal .fp32 (fld g.scalar.toNat 31 0)) (decodeVal .fp32 (fld g.scalar.toNat 63 32))
      (av i j) bv (elemVal x.c e.c g.sc i j)

/-- The SAXIS and SAT of an EW's destination (R164, R168). -/
def ewAxis (e : EwOp) (f : Fmt) : Nat :=
  match e.d with
  | .slot _ => e.z.saxis
  | .store _ => if fmtAlwaysScaled f then 1 else 0
  | .desc _ d => eSlayout d
def ewSat (g : EwArgs) (d : Dest) : Bool :=
  match d with
  | .desc _ e => eSat e
  | _ => g.sat

/-- What an EW touches, for the scoreboard. -/
def ewTouch (op : Nat) (g : EwArgs) (d : Dest) (f : Fmt) (R C : Nat) : Touch :=
  { reads := ewReads op g
    writes := match d with
      | .slot t => [t]
      | _ => []
    range := if toStore d then some (destOff d, ewSpan d f R C, true) else none }

/-- A cell-scope FENCE holds an EW back: it always accesses tile slots, and the store with a store destination. -/
def ewFenced (m : CellMem) (d : Dest) : Bool :=
  m.ops.any (fun f => match f.kind with
    | .fence ts cs ext => (ts || (cs && toStore d)) && m.ops.any (fun y => decide (y.id < f.id) && inClass y ts cs ext)
    | _ => false)

/-- What the fields of an EW raise at issue whatever its destination. -/
def ewFieldExcs (op : Nat) (g : EwArgs) : List (Bool × Nat) :=
  [(g.dkind == 3 || (op == 0x0B && g.bc != 0), xIllegalOp),
    (!outputOk g.fmt || (rndOfCode g.rnd).isNone || (ewIsFn op && !fnOk (g.sc % 16)), xFormatInvalid)]

/-- The result's format and extents. -/
def ewFmt (g : EwArgs) : Fmt := (fmtOfCode g.fmt).getD .fp32
def ewShape (c : Cell) (op : Nat) (g : EwArgs) : Nat × Nat := (ewRows op (getTslot c g.sa), ewCols op (getTslot c g.sa))

/-- What the sources of an EW raise at issue whatever its destination. -/
def ewSourceExcs (x : CellAll) (op : Nat) (g : EwArgs) : List (Bool × Nat) :=
  [(!ewClassL op && (ewReads op g).any (fun t => fmtIsInt (slotFmt (getTslot x.c t))), xFormatPair),
    ((ewReads op g).any (slotBad x), xSlotInvalid), (ewShapeBad x.c op g, xShapeMismatch)]

/-- What an EW with a stale handle raises: a lower code that needs no descriptor, or HANDLE_STALE (R180). -/
def ewStale (s : State) (l : StreamLoc) (op : Nat) (g : EwArgs) : List (Bool × Nat) :=
  ewFieldExcs op g ++ ewSourceExcs (getCell s (cellOf l)) op g
    ++ [(regFld (getStream s l) g.dreg 19 0 % 256 != 0, xStoreRange), (true, xHandleStale)]

/-- What an EW raises at issue (Table 6.19). -/
def ewExcs (x : CellAll) (op : Nat) (g : EwArgs) (d : Dest) : List (Bool × Nat) :=
  let sh := ewShape x.c op g
  ewFieldExcs op g ++ ewSourceExcs x op g ++ [
    (destMismatch x.c d g.fmt, xFormatMismatch), (ewDestBad x.c d sh.1 sh.2, xShapeMismatch),
    (toStore d && (destOff d % 256 != 0 || decide (storeSize < destOff d + ewSpan d (ewFmt g) sh.1 sh.2)), xStoreRange),
    (ewIsFn op && g.sc % 16 == 8 && !(if op == 0x13 then x.m.dtab.valid else x.m.ftab.valid), xTableInvalid)]

/-- An EW waits at issue for a TCFG of a slot that it names (R104). -/
def ewTcfg (x : CellAll) (op : Nat) (g : EwArgs) : Bool :=
  (ewReads op g).any (tcfgWaits x.m) || (g.dkind == 0 && tcfgWaits x.m g.dslot)

/-- An EW waits at issue for the scoreboard or a FENCE. -/
def ewHolds (x : CellAll) (op : Nat) (g : EwArgs) (d : Dest) : Bool :=
  let sh := ewShape x.c op g
  sbHolds x.m (ewTouch op g d (ewFmt g) sh.1 sh.2) || ewFenced x.m d

/-- What an EW is when it issues: the configurations that it reads and the outputs that it draws then (R45, R104), with its age. -/
def ewOp (s : State) (l : StreamLoc) (op : Nat) (g : EwArgs) (d : Dest) : EwOp × State :=
  let x := getCell s (cellOf l)
  let sh := ewShape x.c op g
  let p := drawFor s l g.rnd (sh.1 * sh.2)
  ({ op := op, g := g, d := d, range := (ewTouch op g d (ewFmt g) sh.1 sh.2).range, a := getTslot x.c g.sa, b := getTslot x.c g.sb
     c := getTslot x.c g.sc, z := destSlotCfg x.c d, draws := p.1, srWas := (getStream s l).sr, srNow := (getStream p.2 l).sr
     age := x.m.slices, lines := sh.1 }, p.2)

/-- The converted result of an EW. DESIGN CHOICE (assumption 81): the source of its conversion, for NONFINITE (R58), is the computed
value, so a non-finite operand with a finite result is not flagged. -/
def ewResult (x : CellAll) (e : EwOp) : Conv :=
  convTile (ewFmt e.g) ((rndOfCode e.g.rnd).getD .rne) (ewSat e.g e.d) (ewAxis e (ewFmt e.g)) (ewRows e.op e.a) (ewCols e.op e.a)
    (ewVals x e) e.draws

/-- The EW takes its effect: its result is written, with its flags and its count of lines (exactly its elements, R168), or waits in
the output stage where a grant holds the store (R135, R137). -/
def ewEffect (s : State) (c : CellLoc) (o : Op) (e : EwOp) : State :=
  let x := getCell s c
  let k := ewResult x e
  match e.d with
  | .slot t =>
    let s1 := modCell s c (fun y =>
      let z := convToSlot y t e.z k
      { z with m := removeOp z.m o.id })
    settle (bump (flagSlot s1 (opLoc c o) t k.flags) c.die (setCellSet c.site) 5 e.lines) c
  | _ =>
    let f := ewFmt e.g
    let C := ewCols e.op e.a
    let r := (convWrites f (destOff e.d) C (ewRows e.op e.a) (lineLen f C) k, k.flags.nonfinite)
    if x.c.grant.isSome then modM s c (fun m => { setOp m o.id (.ew { e with out := some r }) with outHeld := some o.id })
    else ewWrite s c o e r

/-- The slot whose read meets a parity error, if the EW reads it. -/
def ewParity (op : Nat) (g : EwArgs) (perr : Option Nat) : Option Nat := perr.filter (fun t => (ewReads op g).contains t)

/-- The input stage accepts the operand reads of an EW: nothing holds the output stage, and no tile read of its age or older and no
earlier EW waits (R137). -/
def ewTurn (x : CellAll) (o : Op) (e : EwOp) : Bool :=
  x.m.outHeld.isNone && !o.bad && e.out.isNone
    && x.m.ops.all (fun y => match y.kind with
        | .ew f => y.bad || f.out.isSome || decide (o.id ≤ y.id)
        | _ => (readAge x y).all (fun n => decide (e.age < n)))

/-- An EW in flight whose turn has come reads its operands, which may meet a parity error (R117), and takes its effect. -/
def ewRead (s : State) (c : CellLoc) (o : Op) (e : EwOp) (perr : Option Nat) : State :=
  if !ewTurn (getCell s c) o e then s
  else withParity s c o ((ewParity e.op e.g perr).getD e.g.sa) (ewParity e.op e.g perr).isSome (fun s => ewEffect s c o e)

/-- An EW at issue: in flight, it takes its effect at once where the drain unit can take it. -/
def issueEw (s : State) (l : StreamLoc) (op : Nat) (perr : Option Nat) (w : Nat) : Issue :=
  let x := getCell s (cellOf l)
  let g := ewArgs (getStream s l) w
  if ewTcfg x op g then .hold .scoreboard
  else match destOf s l g.dkind g.dslot g.dreg with
    | none => orElse (ewStale s l op g) (.raise xHandleStale)
    | some d =>
      orElse (ewExcs x op g d)
        (if ewHolds x op g d then .hold .scoreboard
        else
          let p := ewOp s l op g d
          let o : Op := { id := x.m.nextOp, stream := l.stream, pc := (getStream s l).pc.toNat, inst := none, kind := .ew p.1 }
          .done (ewRead (addOp p.2 l none (.ew p.1)) (cellOf l) o p.1 perr))

/-- An EW of the stream that waits in flight for its turn. -/
def heldEw (s : State) (l : StreamLoc) (op : Nat) : Option (Op × EwOp) :=
  let x := getCell s (cellOf l)
  x.m.ops.findSome? (fun o => match o.kind with
    | .ew e => if o.stream = l.stream ∧ e.op = op ∧ ewTurn x o e then some (o, e) else none
    | _ => none)

/-- The row of one EW operation: one in flight whose turn has come, or else the stream's next instruction. `perr` names the source
slot whose read meets a parity error. -/
def ew (op : Nat) (l : StreamLoc) (perr : Option Nat) (s : State) : Res :=
  match heldEw s l op with
  | some p => nx (ewRead s (cellOf l) p.1 p.2 perr)
  | none => nx (issue s l (fun w => opcode w == 0x64 && fld w 13 8 == op) (issueEw s l op perr))

def execEwCvt (l : EwAt) (s : State) : Res := ew 0x00 l.loc l.perr s
def execEwAdd (l : EwAt) (s : State) : Res := ew 0x01 l.loc l.perr s
def execEwSub (l : EwAt) (s : State) : Res := ew 0x02 l.loc l.perr s
def execEwMul (l : EwAt) (s : State) : Res := ew 0x03 l.loc l.perr s
def execEwFma (l : EwAt) (s : State) : Res := ew 0x04 l.loc l.perr s
def execEwMax (l : EwAt) (s : State) : Res := ew 0x05 l.loc l.perr s
def execEwMin (l : EwAt) (s : State) : Res := ew 0x06 l.loc l.perr s
def execEwAbs (l : EwAt) (s : State) : Res := ew 0x07 l.loc l.perr s
def execEwNeg (l : EwAt) (s : State) : Res := ew 0x08 l.loc l.perr s
def execEwClamp (l : EwAt) (s : State) : Res := ew 0x09 l.loc l.perr s
def execEwSel (l : EwAt) (s : State) : Res := ew 0x0A l.loc l.perr s
def execEwAxpby (l : EwAt) (s : State) : Res := ew 0x0B l.loc l.perr s
def execEwDiv (l : EwAt) (s : State) : Res := ew 0x0C l.loc l.perr s
def execEwSqrt (l : EwAt) (s : State) : Res := ew 0x0D l.loc l.perr s
def execEwRsqrt (l : EwAt) (s : State) : Res := ew 0x0E l.loc l.perr s
def execEwRecip (l : EwAt) (s : State) : Res := ew 0x0F l.loc l.perr s
def execEwExp (l : EwAt) (s : State) : Res := ew 0x10 l.loc l.perr s
def execEwLog (l : EwAt) (s : State) : Res := ew 0x11 l.loc l.perr s
def execEwFn (l : EwAt) (s : State) : Res := ew 0x12 l.loc l.perr s
def execEwDfn (l : EwAt) (s : State) : Res := ew 0x13 l.loc l.perr s
def execEwRsum (l : EwAt) (s : State) : Res := ew 0x14 l.loc l.perr s
def execEwRsumsq (l : EwAt) (s : State) : Res := ew 0x15 l.loc l.perr s
def execEwRmax (l : EwAt) (s : State) : Res := ew 0x16 l.loc l.perr s
def execEwCsum (l : EwAt) (s : State) : Res := ew 0x17 l.loc l.perr s

end Sys2Proof.Machine
end

