-- ==== Sys2Proof/Machine/Counters.lean ====
section
/-! DEFINITION. Counter sets: wraps, CLEAR, HOLD and the die-wide snapshot (R438 to R441, R446). -/

namespace Sys2Proof.Machine

/-- The number of counters of a set; none where the key names no set (Table 17.6). -/
def setSize (k : Nat) : Option Nat :=
  if k < 10000 then
    if 272 ≤ k / 16 then none else if k % 16 < 10 then some 10 else if k % 16 = 10 then some 6 else none
  else if k < 20000 then
    if (k - 10000) % 512 < placesOf ((k - 10000) / 512) then some 11 else none
  else if k < 20064 then some 5
  else if 21000 ≤ k ∧ k < 21016 then some 8 else none

/-- The agent reaches the set's registers; those of a chain port lie in its quadrant's block (R374; assumption 41). -/
def reachesSet (s : State) (a : Nat) (d : DieId) (k : Nat) : Bool :=
  (setSize k).isSome &&
    if k < 10000 then reachesCell s a { die := d, site := k / 16 }
    else if k < 20000 then reachesDie s a d
    else if k < 21000 then reachesQueue s a d (k - 20000)
    else reachesDie s a d && (getDie s d).clk.enCp.toNat.testBit ((k - 21000) / 4)

/-- Counters of beats and of waiting time, whose counting the model leaves out with time itself (assumption 14). -/
def beatCounter (k n : Nat) : Bool :=
  if k < 10000 then
    if k % 16 < 4 then true else if k % 16 < 10 then n != 0 else n == 3
  else if k < 20000 then
    let kind := (k - 10000) / 512
    n == 3 || n == 4 || n == 5 || (kind == 3 && decide (8 ≤ n)) || (kind == 8 && n == 8) || (kind == 10 && n == 6)
  else if k < 21000 then n == 0
  else n == 7

/-- The unit of a set runs: its die does, its chain port has its clock, and its cell is not absent (R439). -/
def unitRuns (x : Die) (k : Nat) : Bool := x.clk.running && setClocked x k && (decide (10000 ≤ k) || sitePresent x (k / 16))

/-- COUNT passes from its largest value to 0: by one more event, or for a counter of beats at any time. -/
def execCounterWrap (d : DieId) (set n : Nat) (s : State) : Res :=
  let c := getSet (getDie s d) set
  let x := tabGet {} c.counters n
  let secret := (setOwner s d set).any (confidential s)
  if !(setSize set).any (fun m => decide (n < m)) || !unitRuns (getDie s d) set || !c.en || secret then nx s
  else if beatCounter set n then nx (bump s d set n (2 ^ 48 - x.count.toNat))
  else if x.count.toNat = 2 ^ 48 - 1 then nx (bump s d set n 1)
  else nx s

/-- CLEAR of CNT_CTL (R439). -/
def execCntClear (agent : Nat) (d : DieId) (set : Nat) (s : State) : Res :=
  answer (reachesSet s agent d set) agent s (modSet s d set (fun c => { c with counters := [] }))

/-- A write of HOLD (R439). -/
def execCntHold (agent : Nat) (d : DieId) (set : Nat) (hold : Bool) (s : State) : Res :=
  answer (reachesSet s agent d set) agent s (modSet s d set (fun c => holdSet c hold))

/-- The counter sets of a die: engines, streams and cells of enabled cells, stations, queues and chain ports. -/
def allSets (d : Die) : List Nat :=
  ((List.range 272).filter (sitePresent d)).flatMap (fun n => (List.range 11).map (fun i => n * 16 + i))
    ++ ((List.range 12).flatMap (fun k => (List.range (placesOf k)).map (setStationSet k)))
    ++ (List.range 64).map setQueueSet ++ (List.range 16).map setChain

/-- Every set of the die holds, and the snapshot is done (R441). -/
def takeSnap (s : State) (d : DieId) : State :=
  modDie s d (fun x =>
    let x := (allSets x).foldl (fun x k => setSet x k (holdSet (getSet x k) true)) x
    { x with obs := { x.obs with snapArmed := false, snapDone := true } })

/-- ARM: a time that has passed holds at once. -/
def armSnap (s : State) (d : DieId) : State :=
  let x := getDie s d
  if x.obs.snapTime.toNat ≤ x.clk.tb then takeSnap s d else modDie s d (fun x => { x with obs := { x.obs with snapArmed := true } })

def execCntSnapArm (agent : Nat) (d : DieId) (s : State) : Res := dieReg s agent d (armSnap s d)

def execCntSnapTrigger (d : DieId) (s : State) : Res :=
  let x := getDie s d
  if x.clk.running && x.obs.snapArmed && decide (x.obs.snapTime.toNat ≤ x.clk.tb) then nx (takeSnap s d) else nx s

end Sys2Proof.Machine
end

