-- ==== Sys2Proof/Machine/TraceUnit.lean ====
section
/-! DEFINITION. The trace unit of a die: records, triggers and the buffer in HBM (R447, R449 to R452). -/

namespace Sys2Proof.Machine

def modTrace (s : State) (d : DieId) (f : Trace → Trace) : State :=
  modDie s d (fun x => { x with obs := { x.obs with trace := f x.obs.trace } })

def getTrace (s : State) (d : DieId) : Trace := (getDie s d).obs.trace

/-- Records that the buffer in force holds. -/
def traceSize (t : Trace) : Nat := 2 ^ (t.sizeNow.toNat + 11)

/-- The 32 bytes of a record (Table 17.8). -/
def traceBytes (time kind cls index sub rflags seq data : Nat) : List Byte :=
  leBytes 8 time ++ leBytes 1 kind ++ leBytes 1 cls ++ leBytes 2 index ++ leBytes 1 sub ++ leBytes 1 rflags ++ leBytes 2 seq ++ leBytes 16 data

/-! ### Writing (R450, R451) -/

/-- A record is lost: it is counted, and remembered for the GAP record. -/
def loseRec (s : State) (d : DieId) : State :=
  modTrace s d (fun t => { t with
    lost := BitVec.ofNat 32 (satAdd 32 t.lost.toNat 1), gap := t.gap + 1
    gapTime := if t.gap = 0 then timeOf s (some d) else t.gapTime })

/-- The slot moves on: it wraps, or in STOP mode the unit stops at the last slot; a triggered unit stops after POST records. -/
def advanceIdx (t : Trace) : Trace :=
  let n := t.idx.toNat + 1
  let t := { t with seq := t.seq + 1, idx := BitVec.ofNat 27 (n % traceSize t), wrapped := t.wrapped || decide (n = traceSize t) }
  if t.modeNow = 1 ∧ n + 1 = traceSize t then { t with st := 3 }
  else if t.st = 2 then { t with after := t.after - 1, st := if t.after ≤ 1 then 3 else 2 }
  else t

/-- One record in its slot: it waits for the memory gate of its line's home slice (R449; assumption 65). -/
def putRec (s : State) (d : DieId) (kind cls index sub part data : Nat) : State :=
  let t := getTrace s d
  let hpa := t.baseNow.toNat * 65536 + 32 * t.idx.toNat
  let bs := traceBytes (timeOf s (some d)) kind cls index sub (dieNum d + 2 * part) t.seq.toNat data
  askTransfer (modTrace s d (fun t => advanceIdx { t with waiting := t.waiting ++ [(hpa, bs)] })) d (homeSlice (hpaOff hpa)) .trace

/-- The gate's write of a record ends: one that the memory does not take is lost. -/
def traceWritten (s : State) (d : DieId) (hpa : Nat) : State :=
  match (getTrace s d).waiting.find? (fun r => r.1 == hpa) with
  | none => s
  | some r =>
    let s := modTrace s d (fun t => { t with waiting := t.waiting.erase r })
    match writePhys s d hpa r.2 with
    | .error _ => loseRec s d
    | .ok s1 => s1

/-- A record reaches the unit: while RUNNING or TRIGGERED it is written behind a GAP record where some were lost; in STOPPED it
is lost; in OFF it is dropped. -/
def traceRec (s : State) (d : DieId) (kind cls index sub part data : Nat) : State :=
  let t := getTrace s d
  if t.st = 0 then s
  else if t.st = 3 then loseRec s d
  else
    let s := if t.gap = 0 then s
      else modTrace (putRec s d 0x11 7 0 0 0 (min t.gap (2 ^ 32 - 1) + 2 ^ 64 * t.gapTime)) d (fun t => { t with gap := 0 })
    if (getTrace s d).st = 3 then loseRec s d else putRec s d kind cls index sub part data

/-- GOV_ST (Table 14.10) and TB_ST (Table 14.20). -/
def govStWord (x : DieClk) : Nat :=
  x.vdd.toNat + 2 ^ 8 * x.rate.toNat + 2 ^ 20 * dutyNow x + 2 ^ 24 * x.limiter.toNat + 2 ^ 32 * x.share.toNat
def tbStWord (t : HdTime) : Nat :=
  b2n t.locked + 2 * b2n t.holdover + 4 * b2n t.stepped + 2 ^ 16 * t.offset.toNat + 2 ^ 32 * t.step.toNat

/-! ### Matches and causes (R450) -/

/-- A record's kind, class and index match TRC_TRIG (Table 17.14). -/
def trigMatch (t : Trace) (kind cls index : Nat) : Bool :=
  t.tkind != 0 && t.tkind.toNat == kind && t.tclass.toNat == cls && (t.tindex == 0xFFFF || t.tindex.toNat == index)

/-- The unit takes a trigger. -/
def trigReady (t : Trace) : Bool := t.st == 1 && t.modeNow == 2

/-- A cause of the next trigger. -/
def addCause (s : State) (d : DieId) (c : Nat) : State :=
  if trigReady (getTrace s d) then modTrace s d (fun t => { t with causes := t.causes ||| c }) else s

/-! ### Enable (R449) -/

/-- A range of the die's HBM lies in one VALID HOST region. -/
def inHostRgn (d : Die) (off len : Nat) : Bool :=
  (List.range 32).any (fun i =>
    let r := getRgn d i
    rgnValid r && r.host && decide (r.base.toNat * gib ≤ off) && decide (off + len ≤ r.limit.toNat * gib))

/-- The checks of R449 and the reserved values of MODE and LOG2SZ. -/
def traceOk (s : State) (d : DieId) : Bool :=
  let t := getTrace s d
  let x := getDie s d
  let hpa := t.base.toNat * 65536
  let len := 2 ^ (t.log2sz.toNat + 16)
  t.mode != 3 && decide (t.log2sz.toNat ≤ 16) && decide (hpaDie hpa = d)
    && (if t.part = 0 then inHostRgn x (hpaOff hpa) len else inRegion x t.part.toNat (hpaOff hpa) len)
    && decide (hpa % len = 0)
    && (t.mode != 2 || decide (t.pre.toNat + t.post.toNat + 1 ≤ 2 ^ (t.log2sz.toNat + 11)))

/-- EN is set: the checks, and the unit runs. -/
def traceStart (s : State) (d : DieId) : State :=
  if traceOk s d then
    modTrace s d (fun t => { t with
      en := true, status := 0, idx := 0, wrapped := false, trigIdx := 0, lost := 0, st := 1, modeNow := t.mode, sizeNow := t.log2sz
      baseNow := t.base, gap := 0, after := 0, causes := 0, errWr := (getDie s d).elog.wr })
  else modTrace s d (fun t => { t with en := true, status := 3, st := 0 })

/-- EN is cleared: records not yet written are dropped; in STOP mode with records lost, the last slot takes one GAP record with their
count. -/
def traceStop (s : State) (d : DieId) : State :=
  let t := getTrace s d
  let s := modTrace s d (fun t => { t with waiting := [] })
  let s :=
    if t.modeNow = 1 ∧ t.st ≠ 0 ∧ t.lost ≠ 0 then
      let s := modTrace s d (fun t => { t with idx := BitVec.ofNat 27 (traceSize t - 1) })
      let s := putRec s d 0x11 7 0 0 0 (t.lost.toNat + 2 ^ 64 * t.gapTime)
      modTrace s d (fun u => { u with idx := t.idx, wrapped := t.wrapped, lost := t.lost })
    else s
  modTrace s d (fun t => { t with en := false, st := 0, gap := 0, causes := 0 })

/-- TRC_CTL (Table 17.11). -/
def trcCtlWord (t : Trace) : Nat :=
  b2n t.en + 2 * t.mode.toNat + 2 ^ 4 * t.part.toNat + 2 ^ 8 * t.status.toNat + 2 ^ 16 * t.groups.toNat + 2 ^ 32 * t.kinds.toNat

def writeTrcCtl (s : State) (d : DieId) (w : RegW) : State :=
  let was := (getTrace s d).en
  let v := w.over (trcCtlWord (getTrace s d))
  let s := modTrace s d (fun t => { t with
    mode := BitVec.ofNat 2 (fld v 2 1), part := BitVec.ofNat 4 (fld v 7 4), groups := BitVec.ofNat 16 (fld v 31 16)
    kinds := BitVec.ofNat 16 (fld v 47 32) })
  let s := if bit v 0 && !was then traceStart s d else if !bit v 0 && was then traceStop s d else s
  if w.one 3 then addCause s d 2 else s

def execTraceEnable (agent : Nat) (d : DieId) (v : W64) (s : State) : Res :=
  dieReg s agent d (writeTrcCtl s d { mask := 2 ^ 64 - 1, val := v.toNat })

/-! ### Triggers (R450) -/

/-- The causes that are due: a match, software, and a record in the die's error log where ON_ERROR is set. -/
def causesDue (s : State) (d : DieId) : Nat :=
  let t := getTrace s d
  t.causes + 4 * b2n (t.onError && (getDie s d).elog.wr != t.errWr)

/-- The TRIGGER record is written with every cause, and POST further records follow it. -/
def takeTrigger (s : State) (d : DieId) (cause : Nat) : State :=
  let t := getTrace s d
  let s := if t.gap = 0 then s
    else modTrace (putRec s d 0x11 7 0 0 0 (min t.gap (2 ^ 32 - 1) + 2 ^ 64 * t.gapTime)) d (fun t => { t with gap := 0 })
  let at_ := (getTrace s d).idx
  let s := putRec s d 0x10 7 0 0 0 cause
  modTrace s d (fun t => { t with
    trigIdx := at_, st := if t.post = 0 then 3 else 2, after := t.post.toNat, causes := 0, errWr := (getDie s d).elog.wr })

def execTraceTrigger (d : DieId) (cause : Nat) (s : State) : Res :=
  if (getDie s d).clk.running && trigReady (getTrace s d) && cause != 0 && cause == causesDue s d then nx (takeTrigger s d cause) else nx s

/-- A record of a source goes to the unit, and triggers where it matches. -/
def emitRec (s : State) (d : DieId) (kind cls index sub part data : Nat) : State :=
  traceRec (if trigMatch (getTrace s d) kind cls index then addCause s d 1 else s) d kind cls index sub part data

/-- A write of TRC_MARK emits a MARK record. -/
def traceMark (s : State) (d : DieId) (v : Nat) : State :=
  if bit (getTrace s d).kinds.toNat 0xF then emitRec s d 0xF 6 0 0 0 v else s

/-- TRC_TRIG: an error record from before ON_ERROR was set is no cause. -/
def trigWrite (t : Trace) (v : Nat) (wr : W32) : Trace :=
  { t with
    tkind := BitVec.ofNat 8 (fld v 7 0), tclass := BitVec.ofNat 8 (fld v 15 8), tindex := BitVec.ofNat 16 (fld v 31 16)
    onError := bit v 32, errWr := if bit v 32 && !t.onError then wr else t.errWr }

def execTrcMarkWrite (agent : Nat) (d : DieId) (v : W64) (s : State) : Res := dieReg s agent d (traceMark s d v.toNat)

end Sys2Proof.Machine
end

