-- ==== Sys2Proof/Machine/MemGates.lean ====
section
/-! DEFINITION. Memory gates, translation caches, the die cache, memory controllers and regions (R295 to R308, R418, R463). -/

namespace Sys2Proof.Machine

/-! ### Gate transfers (R307, R308, R311) -/

/-- Transfers outstanding, and those of levels 3 to 5. -/
def gateRoom (g : Gate) (level : Nat) : Bool :=
  decide (g.xfers.length < 256) && (decide (level < 3) || decide ((g.xfers.filter (fun x => decide (3 ≤ x.level))).length < 192))

/-- The mask lines that a stream's held OPA misses (R256). -/
def maskWanted (s : State) (l : StreamLoc) : List Nat :=
  let t := getStream s l
  if t.st = .running ∧ t.wait = .memoryLate then
    match wordAt s l t.pc.toNat with
    | none => []
    | some w => match cellHandle s (cellOf l) (regFld t (fld w 56 52) 31 0) with
      | some e => maskMissing (getCell s (cellOf l)).m e (regFld t (fld w 56 52) 63 32)
      | none => []
  else []

/-- The transfer that an instruction of a cell asks for next, where it is due: the rows of a TFETCH in ascending order, those of a
TSTORE that may act, the transfers of an XFETCH (R107, R108, R158). A FENCE or a wait of the scoreboard holds it (R140), and after a
stop request a TSTORE asks for its next row only (R114). -/
def cellReq (s : State) (d : DieId) (group site op : Nat) : Option GateReq :=
  let x := getCell s { die := d, site := site }
  (findOp x.m op).bind (fun o =>
    if groupOf site ≠ group then none
    else match o.kind with
    | .transfer t =>
      if t.stopped.isSome || (t.stopReq && decide (t.row < t.asked)) || decide (t.cfg.rows ≤ t.asked) then none
      else if t.store then (if mayAct x o then some (.storeRow site op t.asked) else none)
      else if fenceBlocks x.m o.id o then none else some (.fetchRow site op t.asked)
    | .xfetch f =>
      if f.fault.isSome || fenceBlocks x.m o.id o || decide ((xfetchTransfers f).flatten.length ≤ f.asked) || !stagingRoom s d group 2048 then none
      else some (.xfetchPiece site op)
    | _ => none)

/-- The mask line that a stream's held OPA asks for next, once no earlier FENCE holds external accesses (R176). -/
def maskReq (s : State) (d : DieId) (g : Gate) (site stream : Nat) : Option Nat :=
  if extFenced (getCell s { die := d, site := site }).m then none
  else (maskWanted s { die := d, site := site, stream := stream }).find? (fun va => !g.xfers.any (fun x => x.client == .maskLine site va))

/-- The station of a memory gate that has a transfer to issue. -/
def stationDue (s : State) (d : DieId) (group slot station : Nat) : Bool :=
  (stAt s d slot station).any (fun a => a.node == group && decide ((stGet s a 0).asked < (gateTransfers s a).length))

/-- The first waiting trace record for the gate of its line's home slice whose write has not been issued (R449). -/
def traceDue (s : State) (d : DieId) (group : Nat) : Option Nat :=
  let g := getGate (getDie s d) group
  ((getDie s d).obs.trace.waiting.find? (fun r => homeSlice (hpaOff r.1) == group && !g.xfers.any (fun x => x.client == .trace r.1))).map Prod.fst

/-- What one that waits in the gate's queue asks for next. -/
def wantNext (s : State) (d : DieId) (group : Nat) (w : Want) : Option GateReq :=
  match w with
  | .cell site op => cellReq s d group site op
  | .mask site stream =>
    if groupOf site = group ∧ (maskReq s d (getGate (getDie s d) group) site stream).isSome then some (.maskLine site stream) else none
  | .station slot station => if stationDue s d group slot station then some (.station slot station) else none
  | .command q cseq =>
    if q % 16 = group ∧ (cmdTransfer s d q cseq (cmdAsked s d q cseq)).isSome then some (.command q cseq) else none
  | .loader => if (loadTransfer s d (loadAsked s d)).isSome ∧ loadGate s d = group then some .loader else none
  | .trace => (traceDue s d group).map (fun _ => .trace)

/-- Who makes a request; none for a walk, which stands in no queue. -/
def reqWant : GateReq → Option Want
  | .fetchRow site op _ => some (.cell site op)
  | .storeRow site op _ => some (.cell site op)
  | .xfetchPiece site op => some (.cell site op)
  | .maskLine site stream => some (.mask site stream)
  | .station slot station => some (.station slot station)
  | .walk _ _ _ _ => none
  | .command q cseq => some (.command q cseq)
  | .loader => some .loader
  | .trace => some .trace

/-- The level of a request (Table 11.14, R240); one of level 4 or 5 that has waited 4 us is served as level 3 (R308). -/
def reqLevel (s : State) (d : DieId) (r : GateReq) : Nat :=
  match r with
  | .walk _ _ _ _ => 1
  | .loader => 3
  | .station _ _ => 4
  | .trace => 5
  | .command q cseq => if (findStarted (cmdQueue s d q) cseq).any (fun c => cmdOp c.word == 0x30) then 5 else 2
  | _ => 2
def agedLevel (now since level : Nat) : Nat := if 4 ≤ level ∧ since + 4000 ≤ now then 3 else level

/-- The range of a request: its partition, its partition virtual address and its bytes, and whether it writes; none for a walk and for
the trace unit, which uses physical addresses. -/
def reqRange (s : State) (d : DieId) (group : Nat) (r : GateReq) : Option (Nat × Nat × Nat × Bool) :=
  let op := fun (site op : Nat) => findOp (getCell s { die := d, site := site }).m op
  let row := fun (site id : Nat) => (op site id).bind (fun o => match o.kind with
    | .transfer t => some (cellPart s { die := d, site := site }, rowVa t t.asked % 2 ^ 48,
        ceilDiv (colsIn t.ent t.coord t.cfg.cols * fmtBits (fmtOfEnt t.ent)) 8, t.store)
    | _ => none)
  match r with
  | .fetchRow site id _ => row site id
  | .storeRow site id _ => row site id
  | .xfetchPiece site id => (op site id).bind (fun o => match o.kind with
    | .xfetch f => (xfetchTransfers f).flatten[f.asked]?.map (fun p => (cellPart s { die := d, site := site }, p.1, p.2, false))
    | _ => none)
  | .maskLine site stream => (maskReq s d (getGate (getDie s d) group) site stream).map (fun va =>
      (cellPart s { die := d, site := site }, va, 64, false))
  | .station slot station => (stAt s d slot station).bind (fun a =>
      (gateTransfers s a)[(stGet s a 0).asked]?.map (fun p =>
        (a.part, p.1, p.2, [4, 7, 8].contains a.kind && decide ((stGet s a 0).begun ≠ (stGet s a 0).ended))))
  | .command q cseq => (cmdTransfer s d q cseq (cmdAsked s d q cseq)).map (fun p => (queuePart s d q, p.1, p.2.1, p.2.2))
  | .loader => (loadTransfer s d (loadAsked s d)).map (fun p => (loadPart s d, p.1, p.2, false))
  | .walk _ _ _ _ => none
  | .trace => none

/-- The cell through whose translation cache a request goes, beside its gate's (R304). -/
def reqSite : GateReq → Option Nat
  | .fetchRow site _ _ => some site
  | .storeRow site _ _ => some site
  | .xfetchPiece site _ => some site
  | .maskLine site _ => some site
  | _ => none

/-- The caches of a request's translation. -/
def reqCaches (s : State) (d : DieId) (group : Nat) (r : GateReq) : List Tlb :=
  (match reqSite r with
  | some n => (getCell s { die := d, site := n }).m.tlb
  | none => []) ++ gateCaches s d group

/-- The request lacks a translation that a walk would give: its site, partition, address and direction. A walk that faults installs
nothing, and the transfer faults itself (R304; assumption 97). -/
def reqLacks (s : State) (d : DieId) (group : Nat) (r : GateReq) : Option (Option Nat × Nat × Nat × Bool) :=
  (reqRange s d group r).bind (fun p =>
    if (tlbFind (reqCaches s d group r) p.1 p.2.1).isSome then none
    else match translate s d [] p.1 p.2.1 p.2.2.2 with
      | .ok _ => some (reqSite r, p.1, p.2.1, p.2.2.2)
      | .error _ => none)

/-- The request of one that waits in the gate's queue, where it is due: its translation is known. -/
def wantReq (s : State) (d : DieId) (group : Nat) (w : Want) : Option GateReq :=
  (wantNext s d group w).bind (fun r => if (reqLacks s d group r).isSome then none else some r)

/-- The walk that the gate asks for next: that of the oldest request that lacks a translation and whose walk is not outstanding. -/
def walkDue (s : State) (d : DieId) (group : Nat) : Option GateReq :=
  let g := getGate (getDie s d) group
  (g.wants.findSome? (fun w => ((wantNext s d group w.1).bind (reqLacks s d group)).bind (fun p =>
    if g.xfers.any (fun x => x.client == .walk p.1 p.2.1 p.2.2.1 p.2.2.2) then none else some p))).map
      (fun p => .walk p.1 p.2.1 p.2.2.1 p.2.2.2)

/-- The request is due. -/
def reqDue (s : State) (d : DieId) (group : Nat) (r : GateReq) : Bool :=
  match reqWant r with
  | some w => wantReq s d group w == some r
  | none => walkDue s d group == some r

/-- The places in memory of a request: its first byte, or the entries of a walk. -/
def reqPlaces (s : State) (d : DieId) (group : Nat) (r : GateReq) : List Nat :=
  match r with
  | .walk _ part va _ => walkEntries s d part va
  | .trace => (traceDue s d group).toList
  | _ => match reqRange s d group r with
    | some (part, va, _, write) => match translate s d (reqCaches s d group r) part va write with
      | .ok (.here h) => [h]
      | _ => []
    | none => []

/-- The gate holds the request while the controllers of its die, or of a die that it reaches, change their rate (R300). -/
def reqHeld (s : State) (d : DieId) (group : Nat) (r : GateReq) : Bool :=
  hbmStopped (getDie s d) || (reqPlaces s d group r).any (fun h => hbmStopped (getDie s (hpaDie h)))

/-- The requests that wait at a gate and that it has room for, oldest first, each with who makes it and its level now. -/
def waiting (s : State) (d : DieId) (group : Nat) : List (Want × Nat) :=
  let g := getGate (getDie s d) group
  g.wants.filterMap (fun w => (wantReq s d group w.1).bind (fun r =>
    if gateRoom g (reqLevel s d r) && !reqHeld s d group r then some (w.1, agedLevel (timeOf s (some d)) w.2 (reqLevel s d r)) else none))

/-- The level of a request now. -/
def levelNow (s : State) (d : DieId) (group : Nat) (r : GateReq) : Nat :=
  (((waiting s d group).find? (fun w => some w.1 == reqWant r)).map Prod.snd).getD (reqLevel s d r)

/-- The gate serves the request next: the lowest level, and within a level the oldest (R308). -/
def gateTurn (s : State) (d : DieId) (group : Nat) (r : GateReq) : Bool :=
  let ws := waiting s d group
  let older := ws.takeWhile (fun w => some w.1 != reqWant r)
  let lv := levelNow s d group r
  older.all (fun w => decide (lv < w.2)) && (ws.drop older.length).all (fun w => decide (lv ≤ w.2))

/-- The client of an issued transfer, and the count that the issue moves on. -/
def reqClient (s : State) (d : DieId) (group : Nat) (r : GateReq) : Client :=
  match r with
  | .fetchRow site op row => .fetchRow site op row
  | .storeRow site op row => .storeRow site op row
  | .xfetchPiece site op => .xfetchPiece site op
  | .maskLine site stream => .maskLine site ((maskReq s d (getGate (getDie s d) group) site stream).getD 0)
  | .station slot station => .station slot station
  | .walk site part va write => .walk site part va write
  | .command q cseq => .command q cseq
  | .loader => .loader
  | .trace => .trace ((traceDue s d group).getD 0)
def countAsked (s : State) (d : DieId) (r : GateReq) : State :=
  let cell := fun (site op : Nat) => modM s { die := d, site := site } (fun m =>
    match (findOp m op).map Op.kind with
    | some (.transfer t) => setOp m op (.transfer { t with asked := t.asked + 1 })
    | some (.xfetch f) => setOp m op (.xfetch { f with asked := f.asked + 1 })
    | _ => m)
  match r with
  | .fetchRow site op _ => cell site op
  | .storeRow site op _ => cell site op
  | .xfetchPiece site op => cell site op
  | .station slot station => modStation s d slot station 0 (fun x => { x with asked := x.asked + 1 })
  | .command q cseq => modStarted s d q cseq (fun c => { c with asked := c.asked + 1 })
  | .loader => modLoad s d (fun l => { l with asked := l.asked + 1 })
  | _ => s

/-- The queue after an issue: a station's next transfer is a new request, and those with nothing left to ask for are gone. -/
def afterIssue (s : State) (d : DieId) (group : Nat) (r : GateReq) : State :=
  let now := timeOf s (some d)
  modGate s d group (fun g =>
    let mine := g.wants.filter (fun w => some w.1 == reqWant r)
    let rest := g.wants.filter (fun w => some w.1 != reqWant r)
    { g with wants := (match r with
        | .station slot station => rest ++ [(.station slot station, now)]
        | _ => g.wants.filter (fun w => !mine.contains w || (wantNext s d group w.1).isSome)) })

/-- The lines of the peer die that a request crosses the bridge for. -/
def reqLines (s : State) (d : DieId) (group : Nat) (r : GateReq) : List Nat :=
  match r with
  | .walk _ part va _ => ((walkEntries s d part va).filter (fun e => hpaDie e != d)).map (fun e => e / 256 * 256)
  | _ => match reqRange s d group r with
    | some (part, va, n, write) => peerLines s d group part va n write
    | none => []

/-- A memory gate issues a transfer, in the order of Table 11.14 and within its limits (R307, R308). -/
def execGateTransfer (d : DieId) (group : Nat) (client : GateReq) (s : State) : Res :=
  let g := getGate (getDie s d) group
  if decide (16 ≤ group) || reqHeld s d group client || !reqDue s d group client || !gateRoom g (reqLevel s d client)
      || !gateTurn s d group client then nx s
  else
    let lines := reqLines s d group client
    let x : Xfer := {
      id := g.nextXfer, level := reqLevel s d client, client := reqClient s d group client, addrs := lines, lines := lines.length
      since := timeOf s (some d) }
    let s := modGate s d group (fun g => { g with xfers := g.xfers ++ [x], nextXfer := g.nextXfer + 1 })
    nx (afterIssue (countAsked (sendPeerLines s d group x.id lines) d client) d group client)

/-- A stream whose held OPA misses the mask line at an address. -/
def maskStream (s : State) (c : CellLoc) (va : Nat) : Option StreamLoc :=
  ((List.range 6).map (fun n => ({ die := c.die, site := c.site, stream := n } : StreamLoc))).find? (fun l => (maskWanted s l).contains va)

/-- The mask line at an address arrives for a stream that misses it, or its fetch fails. -/
def arriveMask (s : State) (c : CellLoc) (va : Nat) : State := (maskStream s c va).elim s (fun l => fillMask s l va)

/-- The range of memory of a transfer: its partition virtual address and its bytes. -/
def xferRange (s : State) (d : DieId) (x : Xfer) : Option (Nat × Nat × Nat) :=
  let op := fun (site op : Nat) => findOp (getCell s { die := d, site := site }).m op
  match x.client with
  | .fetchRow site id row => (op site id).bind (fun o => match o.kind with
    | .transfer t => some (cellPart s { die := d, site := site }, rowVa t row % 2 ^ 48,
        ceilDiv (colsIn t.ent t.coord t.cfg.cols * fmtBits (fmtOfEnt t.ent)) 8)
    | _ => none)
  | .storeRow _ _ _ => none
  | .xfetchPiece site id => (op site id).bind (fun o => match o.kind with
    | .xfetch f => (xfetchTransfers f).flatten[f.got]?.map (fun p => (cellPart s { die := d, site := site }, p.1, p.2))
    | _ => none)
  | .maskLine site va => some (cellPart s { die := d, site := site }, va, 64)
  | .station slot station => (stAt s d slot station).bind (fun a =>
      (gateTransfers s a)[(stGet s a 0).got]?.map (fun p => (a.part, p.1, p.2)))
  | .command q cseq => (cmdTransfer s d q cseq (cmdGot s d q cseq)).bind (fun p => if p.2.2 then none else some (queuePart s d q, p.1, p.2.1))
  | .loader => (loadTransfer s d (loadGot s d)).map (fun p => (loadPart s d, p.1, p.2))
  | .walk _ _ _ _ => none
  | .trace _ => none

/-- The cell whose translation cache a transfer uses. -/
def xferSite : Client → Option Nat
  | .fetchRow site _ _ => some site
  | .storeRow site _ _ => some site
  | .xfetchPiece site _ => some site
  | .maskLine site _ => some site
  | _ => none

/-- The 32-byte accesses that a transfer reads, by HPA / 32. -/
def xferUnits (s : State) (d : DieId) (group : Nat) (x : Xfer) : List Nat :=
  match x.client with
  | .walk _ part va _ => (walkEntries s d part va).map (fun e => e / 32)
  | _ => match xferRange s d x with
    | none => []
    | some (part, va, n) =>
      let own := ((xferSite x.client).map (fun n => (getCell s { die := d, site := n }).m.tlb)).getD []
      match translate s d (own ++ gateCaches s d group) part va false with
      | .ok (.here h) => units32 h n
      | _ => []

/-- The reads of a transfer pass their lines' homes, with what their check symbols show. -/
def eccOf (s : State) (d : DieId) (group : Nat) (x : Xfer) (ecc : List (Nat × EccResult)) : State :=
  let us := xferUnits s d group x
  let s := eccUnits s us ecc
  touchUnits s us

/-- A TSTORE still waits for its row to be accepted, which TSTORE_ROW_ACCEPT is (R108). -/
def rowWaits (s : State) (d : DieId) (site op row : Nat) : Bool :=
  (findOp (getCell s { die := d, site := site }).m op).any (fun o => match o.kind with
    | .transfer t => t.store && t.stopped.isNone && decide (t.row ≤ row)
    | _ => false)

/-- What a transfer's arrival does for its client. -/
def arriveXfer (s : State) (d : DieId) (group : Nat) (x : Xfer) : State :=
  match x.client with
  | .fetchRow site op row =>
    let c : CellLoc := { die := d, site := site }
    match findOp (getCell s c).m op with
    | some o => match o.kind with
      | .transfer t =>
        gateRanges (arriveRow s c op row) d group (cellPart s c) (rowRanges t.ent (readBase t.ent) t.coord row t.cfg.cols)
      | _ => s
    | none => s
  | .storeRow _ _ _ => s
  | .xfetchPiece site op =>
    let c : CellLoc := { die := d, site := site }
    match findOp (getCell s c).m op with
    | some o => match o.kind with
      | .xfetch f =>
        let p := (xfetchTransfers f).flatten.getD f.got (0, 0)
        gateBytes (modM s c (fun m => setOp m op (.xfetch { f with got := min f.asked (f.got + 1) }))) d group (cellPart s c) p.1 p.2
      | _ => s
    | none => s
  | .station slot station => modStation s d slot station 0 (fun x => { x with got := min x.asked (x.got + 1) })
  | .maskLine site va =>
    let c : CellLoc := { die := d, site := site }
    gateBytes (arriveMask s c va) d group (cellPart s c) va 64
  | .walk _ _ _ _ => s
  | .command q cseq => modStarted s d q cseq (fun c => { c with got := min c.asked (c.got + 1) })
  | .loader => modLoad s d (fun l => { l with got := min l.asked (l.got + 1) })
  | .trace hpa => traceWritten s d hpa

/-- The transfer waits for another event: the acceptance of a TSTORE's row, or its lines over the bridge while the peer die runs
(R350, R351). -/
def xferHeld (s : State) (d : DieId) (x : Xfer) : Bool :=
  (decide (x.lines ≠ 0) && (getDie s (otherDie d)).clk.running) || match x.client with
  | .storeRow site op row => rowWaits s d site op row
  | _ => false

/-- What an access still has to ask of other modules. -/
def asksOf {α : Type} (r : MemR α) : List (Nat × Nat × Nat × Option (List Byte)) :=
  match r with
  | .ask q => q
  | _ => []

/-- What the data of a transfer still has to be asked of other modules, before it can arrive (R361). -/
def xferAsks (s : State) (d : DieId) (x : Xfer) : List (Nat × Nat × Nat × Option (List Byte)) :=
  match x.client with
  | .fetchRow site op row =>
    let c : CellLoc := { die := d, site := site }
    ((findOp (getCell s c).m op).map (fun o => match o.kind with
      | .transfer t => if t.stopped.isSome || decide (row < t.row) then [] else asksOf (fetchRow s c t row)
      | _ => [])).getD []
  | .maskLine site va =>
    let c : CellLoc := { die := d, site := site }
    ((maskStream s c va).bind (maskOpa s)).elim [] (fun p =>
      asksOf (readEntBytes s d (cellCaches s c) (cellPart s c) p.1 (readBase p.1) (va - readBase p.1) 64))
  | _ => []

/-- The transfer is a walk. -/
def reqWalk : Client → Bool
  | .walk _ _ _ _ => true
  | _ => false

/-- A transfer's data arrives with what its check symbols show, or its write is accepted. Data of another module keeps it
outstanding until the answer has come, and a walk until PAGE_WALK ends it. -/
def execGateTransferComplete (d : DieId) (group : Nat) (e : XferEnd) (s : State) : Res :=
  match (getGate (getDie s d) group).xfers.find? (fun x => x.id == e.id) with
  | none => nx s
  | some x =>
    let asks := xferAsks s d x
    if xferHeld s d x then nx s
    else if !asks.isEmpty then
      nx ((xferRange s d x).elim s (fun r => askPeers s d r.1 asks))
    else
      let s := eccOf s d group x e.ecc
      if reqWalk x.client then nx s
      else nx (arriveXfer (modGate s d group (fun g => { g with xfers := g.xfers.filter (fun y => y.id != e.id) })) d group x)

/-! ### Translation caches (R303 to R305) -/

/-- A new entry, in place of an entry of the same page; a full cache loses an entry that a free value picks. -/
def tlbAdd (size victim : Nat) (t : List Tlb) (e : Tlb) : List Tlb :=
  let t := t.filter (fun x => !(x.part == e.part && x.vpage == e.vpage && x.bits == e.bits))
  if t.length < size then t ++ [e] else t.eraseIdx (victim % max 1 t.length) ++ [e]

/-- The entry overlaps the range of an invalidation: COUNT 0 is every translation of the partition. -/
def tlbHit (part page count : Nat) (e : Tlb) : Bool :=
  e.part == part && (count == 0
    || (decide (e.vpage * 2 ^ e.bits < (page + count) * 65536) && decide (page * 65536 < (e.vpage + 1) * 2 ^ e.bits)))

/-- The walk that a gate has issued and whose lines have come over the bridge. -/
def walkXfer (s : State) (d : DieId) (group : Nat) (site : Option Nat) (part va : Nat) (write : Bool) : Option Xfer :=
  (getGate (getDie s d) group).xfers.find? (fun x => x.client == .walk site part va write && !xferHeld s d x)

/-- A walk of the partition's tables ends: a success is cached; one that would install an entry in the range of an invalidation in
progress walks again (R305), and one that faults installs nothing. -/
def execPageWalk (d : DieId) (group : Nat) (site : Option Nat) (part va : Nat) (write : Bool) (s : State) : Res :=
  let p := getPart (getDie s d) part
  match walkXfer s d group site part va write with
  | none => nx s
  | some x =>
    let t := modGate s d group (fun g => { g with xfers := g.xfers.filter (fun y => y.id != x.id) })
    match walk s d part va with
    | .error _ => nx t
    | .ok (lv, pte) => match leafPlace s d part lv pte va write with
      | .error _ => nx t
      | .ok _ =>
        let b := levelShift lv
        let e : Tlb := { part := part, vpage := va >>> b, bits := b, pte := pte }
        if p.tlbBusy && tlbHit part p.tlbNow.1 p.tlbNow.2 e then nx s
        else
          let f := drawFree t 11
          let s := modGate f.2 d group (fun g => { g with tlb := tlbAdd 2048 f.1 g.tlb e })
          match site with
          | none => nx s
          | some n =>
            let h := drawFree s 5
            nx (modM h.2 { die := d, site := n } (fun m => { m with tlb := tlbAdd 32 h.1 m.tlb e }))

/-- START of TLB_INV_CTL: begins an invalidation, or waits for the one in progress. -/
def tlbStart (s : State) (agent : Nat) (d : DieId) (part : Nat) : State :=
  if (getPart (getDie s d) part).tlbBusy then modPart s d part (fun p => { p with tlbHeld := p.tlbHeld ++ [agent] })
  else emit (modPart s d part (fun p => { p with tlbBusy := true, tlbNow := (p.tlbVa.toNat, p.tlbCount.toNat) })) (.ack agent)

def execTlbInvalidate (agent : Nat) (d : DieId) (part : Nat) (s : State) : Res :=
  if reachesDie s agent d && decide (part < 16) then nx (tlbStart s agent d part) else nx (emit s (.busError agent))

/-- Entries of a range leave every cache of the partition on the die. -/
def tlbRemove (s : State) (d : DieId) (part page count : Nat) : State :=
  let keep := fun (t : List Tlb) => t.filter (fun e => !tlbHit part page count e)
  let sites := (List.range 272).filter (fun n => ownerCell s { die := d, site := n } == some part)
  let s := sites.foldl (fun s n => modM s { die := d, site := n } (fun m => { m with tlb := keep m.tlb })) s
  (List.range 16).foldl (fun s g => modGate s d g (fun x => { x with tlb := keep x.tlb })) s

/-- The least agent of those whose STARTs wait (R305). -/
def leastAgent : List Nat → Option Nat
  | [] => none
  | a :: r => some (r.foldl min a)

/-- The invalidation ends; the START of the lowest agent that waited is acknowledged and begins. -/
def execTlbInvalidateDone (d : DieId) (part : Nat) (s : State) : Res :=
  let p := getPart (getDie s d) part
  if !p.tlbBusy then nx s
  else
    let s := tlbRemove s d part p.tlbNow.1 p.tlbNow.2
    let s := modPart s d part (fun p => { p with tlbBusy := false, tlbDone := true })
    nx (match leastAgent p.tlbHeld with
      | none => s
      | some a => tlbStart (modPart s d part (fun p => { p with tlbHeld := p.tlbHeld.erase a })) a d part)

/-! ### The die cache (R306, R463) -/

/-- Lost lines that a slice's table of 16 entries can record. -/
def lostRoom (d : Die) (slice : Nat) : Bool := decide ((d.cacheLost.filter (fun l => homeSlice (hpaOff (l * 256)) == slice)).length < 16)

def recLost (s : State) (d : DieId) (line detail : Nat) : State :=
  let part := (regionAt (getDie s d) (hpaOff (line * 256))).bind (fun r => if r.host then none else some r.part.toNat)
  logErr s (some d) { cls := 2, code := 7, part := part, addrKind := 1, addr := line * 256, detail := detail }

/-- A home line leaves its slice: a good one as the least recently used of a full set; one whose cache data cannot be corrected is
refetched where it is clean, and lost where it is dirty; a slice whose table is full writes the line with its uncorrectable data,
whose bytes are free values (assumption 20). -/
def execCacheEvict (d : DieId) (line : Nat) (bad : Bool) (s : State) : Res :=
  let l := hpaOf d (line * 256) / 256
  let x := getDie s d
  let slice := homeSlice (line * 256)
  if !x.cacheLines.contains l then nx s
  else if !bad && cacheVictim x.cacheLines l != some l then nx s
  else
    let s := modDie s d (fun x => { x with
      cacheLines := x.cacheLines.erase l, cacheDirty := x.cacheDirty.filter (fun y => y != l) })
    if !bad then nx s
    else if !x.cacheDirty.contains l then nx (countSram s (some d) false)
    else
      let s := countSram s (some d) true
      if lostRoom x slice then nx (recLost (modDie s d (fun x => { x with cacheLost := addNew x.cacheLost [l] })) d l slice)
      else
        let f := drawFree s 2048
        let s := recLost f.2 d l (slice + 2 ^ 56 * 0xFF)
        nx { s with hbm := tabWrite 0 s.hbm (l * 256) (leBytes 256 f.1) }

/-! ### Memory controllers (R295, R299, R300) -/

/-- The stack of a controller is in use, and its controllers are clocked. -/
def mcClocked (d : Die) (mc : Nat) : Bool := d.clk.enMc.toNat.testBit (mc / 32)
def mcUsed (d : Die) (mc : Nat) : Bool := decide (mc < 320) && d.ilvEn.toNat.testBit (mc / 32)

/-- A sampled patrol read of the channel (R299). -/
def execPatrolRead (d : DieId) (mc off : Nat) (r : EccResult) (s : State) : Res :=
  let x := getDie s d
  let m := getMc x mc
  if m.st ≠ .on ∨ !m.patrolEn ∨ capacity x ≤ off ∨ stackOf x off * 32 + channelOf x off ≠ mc then nx s
  else match r with
    | .good => nx s
    | .corrected => nx (modMc s d mc (fun m => { m with corrected := BitVec.ofNat 16 (satAdd 16 m.corrected.toNat 1) }))
    | .uncorrectable =>
      let hpa := hpaOf d off
      let pcn := ((off / 256) / max 1 (stackCount x)) % 64
      let part := (regionAt x off).bind (fun r => if r.host then none else some r.part.toNat)
      let s := modMc s d mc (fun m => { m with uncorr := BitVec.ofNat 16 (satAdd 16 m.uncorr.toNat 1) })
      let s := { s with hbmBad := addNew s.hbmBad [hpa / 32] }
      nx (logErr s (some d) {
        cls := 2, code := 2, part := part, unitKind := 5, unitIndex := mc, addrKind := 1, addr := hpa
        detail := pcn / 2 + 256 * (pcn % 2) })

def execOdeccPoll (d : DieId) (mc corrected : Nat) (severe : Bool) (s : State) : Res :=
  if (getMc (getDie s d) mc).st = .on then
    nx (modMc s d mc (fun m => { m with odecc := BitVec.ofNat 16 (satAdd 16 m.odecc.toNat corrected), odeccSev := m.odeccSev || severe }))
  else nx s

/-- The stack asks for refresh management. -/
def execRefreshManagementRequest (d : DieId) (mc : Nat) (s : State) : Res :=
  if (getMc (getDie s d) mc).st = .on then nx (modMc s d mc (fun m => { m with rfmSeen := true })) else nx s

/-- The controllers that are in use. -/
def mcsOf (d : Die) : List Nat := (List.range 320).filter (mcUsed d)

/-- A power-mode change to or from Quiet changes the rate of every controller of the die (R300, R382). -/
def execHbmRateChange (d : DieId) (quiet : Bool) (s : State) : Res :=
  let x := getDie s d
  let on := (mcsOf x).filter (fun i => decide ((getMc x i).st = .on))
  if s.hd.clk.changing && (s.hd.clk.modeReq == 2) == quiet && (!quiet || slewed s d) && on.any (fun i => (getMc x i).rate != quiet) then
    nx (on.foldl (fun s i => modMc s d i (fun m => { m with st := .rateChange })) s)
  else nx s

/-- The rate change ends, and what waited for it goes on; stacks of `failed`, by bit, did not retrain. -/
def execHbmRateChangeEnd (d : DieId) (failed : Nat) (s : State) : Res :=
  let x := getDie s d
  if !hbmStopped x then nx s
  else
    let quiet := s.hd.clk.modeReq == 2
    let s := ((List.range 320).filter (fun i => decide ((getMc x i).st = .rateChange))).foldl (fun s i =>
      modMc s d i (fun m => if bit failed (i / 32) then { m with st := .failed } else { m with st := .on, rate := quiet })) s
    let s := ((List.range 10).filter (fun j => bit failed j && decide ((getMc x (32 * j)).st = .rateChange))).foldl (fun s j =>
      logErr s (some d) { cls := 2, code := 3, unitKind := 5, unitIndex := 32 * j, detail := j }) s
    nx (runRings (runRings (serveHeldReqs s d) .cd0) .cd1)

/-- MC_CTL, MC_ST and MC_ECC (Tables 11.3 to 11.5), by offset in the controller's block. -/
def mcRead (m : Mc) (off : Nat) : Nat :=
  match off with
  | 0 => b2n m.patrolEn + 2 ^ 8 * m.patrolH.toNat
  | 8 => (match m.st with
      | .off => 0
      | .training => 1
      | .on => 2
      | .rateChange => 3
      | .failed => 4) + 8 * b2n m.rate + 16 * b2n m.rfmSeen + 32 * b2n m.odeccSev
  | 16 => m.corrected.toNat + 2 ^ 16 * m.odecc.toNat + 2 ^ 32 * m.uncorr.toNat
  | _ => 0

def mcWrite (m : Mc) (off : Nat) (w : RegW) : Mc :=
  match off with
  | 0 =>
    let v := w.over (mcRead m 0)
    { m with patrolEn := bit v 0, patrolH := BitVec.ofNat 8 (fld v 15 8) }
  | 8 => { m with rfmSeen := w.clr 4 m.rfmSeen, odeccSev := w.clr 5 m.odeccSev }
  | _ => m

/-- A broadcast write reaches every controller of the stacks in use that it selects. -/
def mcBroadcast (s : State) (d : DieId) (p : Nat → Bool) (off : Nat) (w : RegW) : State :=
  let x := getDie s d
  ((mcsOf x).filter (fun i => p i && mcClocked x i)).foldl (fun s i => modMc s d i (fun m => mcWrite m off w)) s

def execMcBroadcastWrite (agent : Nat) (t : McTarget) (off size : Nat) (v : W64) (s : State) : Res :=
  let w := regW off size v.toNat
  let o := off / 8 * 8
  let ok := regSized off size && decide (off < 4096)
  match t with
  | .stack d j => answer (ok && decide (j < 10) && reachesDie s agent d) agent s (mcBroadcast s d (fun i => i / 32 == j) o w)
  | .die d => answer (ok && reachesDie s agent d) agent s (mcBroadcast s d (fun _ => true) o w)
  | .module => answer (ok && reachesHost s agent) agent s (mcBroadcast (mcBroadcast s .cd0 (fun _ => true) o w) .cd1 (fun _ => true) o w)

/-! ### Regions (R301, R418) -/

/-- A region register's value. -/
def rgnOf (v : Nat) : Region :=
  { base := BitVec.ofNat 10 (fld v 9 0), limit := BitVec.ofNat 10 (fld v 19 10), part := BitVec.ofNat 4 (fld v 23 20), host := bit v 24, valid := bit v 25 }

def rgnOverlap (a b : Region) : Bool :=
  rgnValid a && rgnValid b && decide (a.base.toNat < b.limit.toNat) && decide (b.base.toNat < a.limit.toNat)

/-- A write of a region register by the security core: one that overlaps is ignored with a record; a HOST region's granules
are no longer clean. -/
def writeRgn (s : State) (d : DieId) (i v : Nat) : State :=
  let r := rgnOf v
  let x := getDie s d
  if (List.range 32).any (fun j => j != i && rgnOverlap r (getRgn x j)) then
    logErr s (some d) { cls := 0x0C, code := 2, unitKind := 0x0B, detail := i }
  else
    let gs := if r.host && rgnValid r then (List.range 480).filter (fun g => decide (r.base.toNat ≤ g) && decide (g < r.limit.toNat)) else []
    modDie s d (fun x => { setRgn x i r with scrubMap := clearGranules x.scrubMap gs })

def execHbmRgnWrite (agent : Nat) (d : DieId) (i : Nat) (v : W32) (s : State) : Res :=
  answer (reachesDie s agent d && decide (i < 32)) agent s (if agent = 0 then writeRgn s d i v.toNat else s)

end Sys2Proof.Machine
end

