-- ==== Sys2Proof/Machine/Layout.lean ====
section
/-! DEFINITION. The layout image: its fields, its checks, and what a change of owner clears (R414 to R418, R428). -/

namespace Sys2Proof.Machine

/-! ### The image (Tables 16.2 and 16.3) -/

/-- `n` bytes of an image as a number. -/
def imF (b : List Byte) (off n : Nat) : Nat := leNat ((b.drop off).take n)

/-- A die section. -/
def parseDie (b : List Byte) (o : Nat) : LayoutDie := {
  cells := imF b o 34, queues := imF b (o + 0x24) 8, slots := imF b (o + 0x2C) 1
  gateCtx := imF b (o + 0x2D) 1, gateGroups := imF b (o + 0x2E) 2
  tdtBase := imF b (o + 0x30) 2, tdtCount := imF b (o + 0x32) 2, egBase := imF b (o + 0x34) 2, egCount := imF b (o + 0x36) 2
  rl := imF b (o + 0x38) 8, ds := imF b (o + 0x40) 8, bar := imF b (o + 0x48) 8, wr := imF b (o + 0x50) 4
  cm := imF b (o + 0x54) 2, fr := imF b (o + 0x56) 2, cp := imF b (o + 0x58) 2, bp := imF b (o + 0x5A) 2
  peerBase := imF b (o + 0x5C) 2, peerCount := imF b (o + 0x5E) 2 }

def parseRec (b : List Byte) (p : Nat) : LayoutRec :=
  { exists_ := bit (imF b (256 * p) 1) 0, die0 := parseDie b (256 * p + 0x10), die1 := parseDie b (256 * p + 0x70) }

/-- Region words and extent words. -/
def imRgn (b : List Byte) (d : DieId) (i : Nat) : Nat := imF b (0x1000 + 0x80 * dieNum d + 4 * i) 4
def imExt (b : List Byte) (i : Nat) : Nat := imF b (0x1100 + 8 * i) 8

/-- The bytes of a die section and of a record. -/
def dieBytes (l : LayoutDie) : List Byte :=
  leBytes 34 l.cells ++ leBytes 2 0 ++ leBytes 8 l.queues ++ leBytes 1 l.slots ++ leBytes 1 l.gateCtx ++ leBytes 2 l.gateGroups
    ++ leBytes 2 l.tdtBase ++ leBytes 2 l.tdtCount ++ leBytes 2 l.egBase ++ leBytes 2 l.egCount
    ++ leBytes 8 l.rl ++ leBytes 8 l.ds ++ leBytes 8 l.bar ++ leBytes 4 l.wr ++ leBytes 2 l.cm ++ leBytes 2 l.fr ++ leBytes 2 l.cp
    ++ leBytes 2 l.bp ++ leBytes 2 l.peerBase ++ leBytes 2 l.peerCount
def recBytes (r : LayoutRec) : List Byte :=
  leBytes 16 (b2n r.exists_) ++ dieBytes r.die0 ++ dieBytes r.die1 ++ List.replicate 48 0

/-- The word of a region register (Table 11.6). -/
def rgnWord (r : Region) : Nat :=
  r.base.toNat + 2 ^ 10 * r.limit.toNat + 2 ^ 20 * r.part.toNat + 2 ^ 24 * b2n r.host + 2 ^ 25 * b2n r.valid

/-- The layout image in force. -/
def imageInForce (s : State) : List Byte :=
  (List.range 16).flatMap (fun p => recBytes (layoutRec s p))
    ++ bothDies.flatMap (fun d => (List.range 32).flatMap (fun i => leBytes 4 (rgnWord (getRgn (getDie s d) i))))
    ++ (List.range 64).flatMap (fun i => leBytes 8 (tabGet 0 s.hd.flash.ext i).toNat)

/-! ### Checks (Table 16.4) -/

/-- Fields of a die section in their ranges, reserved bits zero. -/
def dieFormat (b : List Byte) (o : Nat) : Bool :=
  let l := parseDie b o
  imF b (o + 0x22) 2 == 0 && decide (l.gateCtx ≤ 3) && decide (l.tdtBase ≤ 127) && decide (l.tdtCount ≤ 128)
    && decide (l.egBase ≤ 255) && decide (l.egCount ≤ 256) && decide (l.peerBase ≤ 63) && decide (l.peerCount ≤ 64)

def recFormat (b : List Byte) (p : Nat) : Bool :=
  let o := 256 * p
  decide (imF b o 1 ≤ 1) && imF b (o + 1) 15 == 0 && imF b (o + 0xD0) 48 == 0 && dieFormat b (o + 0x10) && dieFormat b (o + 0x70)
    && (imF b o 1 == 1 || imF b o 256 == 0)

/-- Region and extent words with reserved bits zero. -/
def wordsFormat (b : List Byte) : Bool :=
  bothDies.all (fun d => (List.range 32).all (fun i => fld (imRgn b d i) 31 26 == 0))
    && (List.range 64).all (fun i => fld (imExt b i) 62 62 == 0)

def layoutFormat (b : List Byte) : Bool := (List.range 16).all (recFormat b) && wordsFormat b

/-- Two ranges of a table meet. -/
def rangesMeet (a n b m : Nat) : Bool := decide (0 < n) && decide (0 < m) && decide (a < b + m) && decide (b < a + n)

/-- Two sections share a unit. -/
def diesMeet (a b : LayoutDie) : Bool :=
  [(a.cells, b.cells), (a.queues, b.queues), (a.slots, b.slots), (a.rl, b.rl), (a.ds, b.ds), (a.bar, b.bar), (a.wr, b.wr), (a.cm, b.cm),
    (a.fr, b.fr), (a.cp, b.cp), (a.bp, b.bp)].any (fun x => x.1 &&& x.2 != 0)
    || (a.gateCtx == b.gateCtx && a.gateGroups &&& b.gateGroups != 0)
    || rangesMeet a.tdtBase a.tdtCount b.tdtBase b.tdtCount || rangesMeet a.egBase a.egCount b.egBase b.egCount
    || rangesMeet a.peerBase a.peerCount b.peerBase b.peerCount

def dieInTables (l : LayoutDie) : Bool :=
  decide (l.tdtBase + l.tdtCount ≤ 128) && decide (l.egBase + l.egCount ≤ 256) && decide (l.peerBase + l.peerCount ≤ 64)

/-- Every pair of different numbers below `n` passes. -/
def allPairs (n : Nat) (f : Nat → Nat → Bool) : Bool := (List.range n).all (fun i => (List.range i).all (fun j => f j i))

def layoutConflict (b : List Byte) : Bool :=
  let r := parseRec b
  !((List.range 16).all (fun p => dieInTables (r p).die0 && dieInTables (r p).die1)
    && allPairs 16 (fun p q => !diesMeet (r p).die0 (r q).die0 && !diesMeet (r p).die1 (r q).die1)
    && bothDies.all (fun d => allPairs 32 (fun i j => !rgnOverlap (rgnOf (imRgn b d i)) (rgnOf (imRgn b d j))))
    && allPairs 64 (fun i j => !extOverlap (BitVec.ofNat 64 (imExt b i)) (BitVec.ofNat 64 (imExt b j))))

/-- Section of a record on a die. -/
def recDie (r : LayoutRec) : DieId → LayoutDie
  | .cd0 => r.die0
  | .cd1 => r.die1

def layoutAbsent (s : State) (b : List Byte) : Bool :=
  bothDies.any (fun d =>
    let x := getDie s d
    (List.range 16).any (fun p => (bitsSet 272 (recDie (parseRec b p) d).cells).any (fun n => !siteEnabled x n || sectorFailed x n))
      || (List.range 32).any (fun i =>
        let r := rgnOf (imRgn b d i)
        rgnValid r && decide (capacity x < r.limit.toNat * gib)))

/-- Units of a section that another no longer has. -/
def lostMask (old new : Nat) : Nat := old - (old &&& new)

/-- A range of the old section is no longer wholly in the new one. -/
def rangeLost (a n b m : Nat) : Bool := decide (0 < n) && !(decide (b ≤ a) && decide (a + n ≤ b + m))

/-- The section loses some unit. -/
def dieLoses (o n : LayoutDie) : Bool :=
  [(o.cells, n.cells), (o.queues, n.queues), (o.slots, n.slots), (o.rl, n.rl), (o.ds, n.ds), (o.bar, n.bar), (o.wr, n.wr), (o.cm, n.cm),
    (o.fr, n.fr), (o.cp, n.cp), (o.bp, n.bp)].any (fun x => lostMask x.1 x.2 != 0)
    || (o.gateGroups != 0 && (o.gateCtx != n.gateCtx || lostMask o.gateGroups n.gateGroups != 0))
    || rangeLost o.tdtBase o.tdtCount n.tdtBase n.tdtCount || rangeLost o.egBase o.egCount n.egBase n.egCount
    || rangeLost o.peerBase o.peerCount n.peerBase n.peerCount

/-- Owner of a granule by region values: 0 to 15, 16 for HOST, none. -/
def granuleOwner (rs : Nat → Region) (g : Nat) : Option Nat :=
  ((List.range 32).find? (fun i => rgnValid (rs i) && decide ((rs i).base.toNat ≤ g) && decide (g < (rs i).limit.toNat))).map
    (fun i => if (rs i).host then 16 else (rs i).part.toNat)

def oldOwner (s : State) (d : DieId) (g : Nat) : Option Nat := granuleOwner (getRgn (getDie s d)) g
def newOwner (b : List Byte) (d : DieId) (g : Nat) : Option Nat := granuleOwner (fun i => rgnOf (imRgn b d i)) g

/-- A partition loses a granule. -/
def granuleLost (s : State) (b : List Byte) (p : Nat) : Bool :=
  bothDies.any (fun d => (List.range 480).any (fun g => oldOwner s d g == some p && newOwner b d g != some p))

/-- The extent that a value gives a partition. -/
def extOf (v : W64) (p : Nat) : Option (Nat × Nat) :=
  if extValid v && fld v.toNat 61 58 == p then some (fld v.toNat 28 0, fld v.toNat 57 29) else none

/-- A unit of the partition's extents is in none of its new ones: an end of an old extent, or of a new one inside it, is uncovered. -/
def extentLost (s : State) (b : List Byte) (p : Nat) : Bool :=
  let new := (List.range 64).filterMap (fun i => extOf (BitVec.ofNat 64 (imExt b i)) p)
  let inNew := fun (u : Nat) => new.any (fun e => decide (e.1 ≤ u) && decide (u < e.2))
  (List.range 64).any (fun i => match extOf (tabGet 0 s.hd.flash.ext i) p with
    | none => false
    | some (lo, hi) => !inNew lo || new.any (fun e => decide (lo < e.2) && decide (e.2 < hi) && !inNew e.2))

/-- Partition 0 gives up units of a section only while they are idle (R415). -/
def idleLoss (s : State) (d : DieId) (o n : LayoutDie) : Bool :=
  let x := getDie s d
  let named := fun (k : Nat) (place : Nat) => (List.range 8).any (fun t =>
    let y := getSlot x t
    ownerSlot s d t == some 0 && (decide (y.st = .loaded) || decide (y.st = .entering) || decide (y.st = .active) || decide (y.st = .leaving))
      && (findStation y.bill k place).isSome)
  (bitsSet 272 (lostMask o.cells n.cells)).all (fun i => decide ((getCell s { die := d, site := i }).c.fn.st = .off))
    && (bitsSet 64 (lostMask o.queues n.queues)).all (fun q => decide ((getQueue x q).fn.st = .off))
    && (bitsSet 16 (lostMask o.cp n.cp)).all (fun i => decide ((getCp x i).st = .off))
    && (bitsSet 8 (lostMask o.slots n.slots)).all (fun t => decide ((getSlot x t).st = .empty)
      || (decide ((getSlot x t).st = .loaded) && !(getPart x 0).held.any (fun h => h.target == some t)))
    && (bitsSet 16 (if o.gateCtx = n.gateCtx then lostMask o.gateGroups n.gateGroups else o.gateGroups)).all (fun g => !named 3 (4 * g + o.gateCtx))
    && [(5, o.rl, n.rl), (4, o.ds, n.ds), (11, o.bar, n.bar), (7, o.wr, n.wr), (6, o.cm, n.cm), (8, o.fr, n.fr), (10, o.bp, n.bp)].all
      (fun m => (bitsSet 64 (lostMask m.2.1 m.2.2)).all (fun i => !named m.1 i))
    && (!rangeLost o.tdtBase o.tdtCount n.tdtBase n.tdtCount || x.tdt.all (fun e => !eValid e.2 || ownerTdt s d e.1 != some 0
      || (decide (n.tdtBase * 1024 ≤ e.1) && decide (e.1 < (n.tdtBase + n.tdtCount) * 1024))))
    && (!rangeLost o.egBase o.egCount n.egBase n.egCount || x.epochs.all (fun e => e.2.commit.isNone || ownerEpoch s d e.1 != some 0
      || (decide (n.egBase ≤ e.1) && decide (e.1 < n.egBase + n.egCount))))
    && (!rangeLost o.peerBase o.peerCount n.peerBase n.peerCount || x.peers.all (fun e => !e.2.valid || ownerPeer s d e.1 != some 0
      || (decide (n.peerBase * 64 ≤ e.1) && decide (e.1 < (n.peerBase + n.peerCount) * 64))))

/-- A region word that is, or becomes, the partition's changes. -/
def regionsChange (s : State) (b : List Byte) (p : Nat) : Bool :=
  let of_ := fun (r : Region) => rgnValid r && !r.host && r.part.toNat == p
  bothDies.any (fun d => (List.range 32).any (fun i =>
    let o := getRgn (getDie s d) i
    let n := rgnOf (imRgn b d i)
    (of_ o || of_ n) && decide (o ≠ n)))

/-- Check 4 for one partition. -/
def recBusy (s : State) (b : List Byte) (p : Nat) : Bool :=
  let o := layoutRec s p
  let n := parseRec b p
  let loses := dieLoses o.die0 n.die0 || dieLoses o.die1 n.die1 || granuleLost s b p || extentLost s b p
  if p = 0 then !n.exists_ || !idleLoss s .cd0 o.die0 n.die0 || !idleLoss s .cd1 o.die1 n.die1
  else
    let x := getSec s p
    (o.exists_ && (loses || !n.exists_) && decide (x.st ≠ .clean) && decide (x.st ≠ .absent))
      || (x.conf && (decide (o ≠ n) || regionsChange s b p))

/-- Check 5: a granule that a partition or a HOST region gains is not clean. -/
def layoutDirty (s : State) (b : List Byte) : Bool :=
  bothDies.any (fun d => (List.range 480).any (fun g =>
    (newOwner b d g).isSome && newOwner b d g != oldOwner s d g && !bit (getDie s d).scrubMap g
      && !(decide (g < 4) && s.hd.boot.bootDie == decide (d = .cd1))))

/-- The first check of Table 16.4 that fails; 0 where all pass. -/
def layoutStatus (s : State) (b : List Byte) : Nat :=
  if !layoutFormat b then 3
  else if layoutConflict b then 4
  else if layoutAbsent s b then 5
  else if (List.range 16).any (recBusy s b) then 6
  else if layoutDirty s b then 7
  else 0

/-! ### A change of owner (R428, Table 16.19) -/

/-- Counters of a set are zero, a held view of them too, and its control register is kept. -/
def zeroSet (c : CntSet) : CntSet := { c with counters := [], view := [] }

def zeroSets (s : State) (d : DieId) (f : Nat → Bool) : State :=
  modDie s d (fun x => { x with obs := { x.obs with sets := x.obs.sets.foldl (fun t e =>
    tabSet {} t e.1 (if f e.1 then zeroSet e.2 else e.2)) [] } })

/-- Sets of a cell. -/
def cellSets (n k : Nat) : Bool := decide (k < 10000) && k / 16 == n

def clearCell (s : State) (d : DieId) (n : Nat) : State :=
  let c : CellLoc := { die := d, site := n }
  let s := modM (initCell s c) c (fun m => { m with
    store := [], ftab := {}, dtab := {}, mask := [], tlb := [], iregion := [], imageAt := [], region := none })
  zeroSets s d (fun k => cellSets n k || k == setStationSet 1 n)

/-- The translations of a partition leave a gate's cache. -/
def dropTlb (s : State) (d : DieId) (g p : Nat) : State := modGate s d g (fun x => { x with tlb := x.tlb.filter (fun t => t.part != p) })

/-- A descriptor with all fields zero but GEN. -/
def clearEntry (s : State) (d : DieId) (i : Nat) : State :=
  modDie s d (fun x => { x with tdt := tabSet 0 x.tdt i (eGen (tabGet 0 x.tdt i) * 2 ^ 488) })

/-- Whether a unit of a partition on a die changes hands: `f` tells whether a section holds it. -/
abbrev Gone := (LayoutDie → Bool) → Bool

/-- The state of a partition's units on a die that `gone` names is cleared. -/
def clearUnits (s : State) (d : DieId) (p : Nat) (gone : Gone) : State :=
  let s := (List.range 272).foldl (fun s n => if gone (fun l => l.cells.testBit n) then clearCell s d n else s) s
  let s := (List.range 64).foldl (fun s q => if gone (fun l => l.queues.testBit q) then zeroSets s d (fun k => k == setQueueSet q || k == setStationSet 2 q) else s) s
  let s := (List.range 8).foldl (fun s t => if gone (fun l => l.slots.testBit t) then modSlot s d t (fun _ => {}) else s) s
  let s := (List.range 64).foldl (fun s i =>
    if gone (fun l => l.gateGroups.testBit (i / 4) && l.gateCtx == i % 4) then zeroSets (dropTlb s d (i / 4) p) d (fun k => k == setStationSet 3 i)
    else s) s
  let s := ((getDie s d).tdt.map Prod.fst).foldl (fun s i =>
    if gone (fun l => decide (l.tdtBase * 1024 ≤ i) && decide (i < (l.tdtBase + l.tdtCount) * 1024)) then clearEntry s d i else s) s
  let s := (List.range 256).foldl (fun s g =>
    if gone (fun l => decide (l.egBase ≤ g) && decide (g < l.egBase + l.egCount)) then modEpoch s d g (fun _ => {}) else s) s
  let s := (List.range 64).foldl (fun s i => if gone (fun l => l.rl.testBit i) then modLink s d i (fun _ => {}) else s) s
  [(5, LayoutDie.rl), (4, LayoutDie.ds), (11, LayoutDie.bar), (7, LayoutDie.wr), (6, LayoutDie.cm), (8, LayoutDie.fr), (9, LayoutDie.cp),
    (10, LayoutDie.bp)].foldl (fun s m => (List.range 64).foldl (fun s i =>
      if gone (fun l => (m.2 l).testBit i) then
        zeroSets s d (fun k => k == setStationSet m.1 i || (m.1 == 9 && k == setChain i))
      else s) s) s

/-! ### Installing (R416) -/

/-- Slots that a partition loses while a Bill runs in them are closed under ABORT first (R219). -/
def closeLost (s : State) (d : DieId) (p : Nat) (gone : Gone) : State :=
  match (getPart (getDie s d) p).active with
  | some t => if gone (fun l => l.slots.testBit t) then closeFloor s d p else s
  | none => s

/-- PART of the peer entries that the image assigns. -/
def setPeerParts (s : State) (b : List Byte) (d : DieId) : State :=
  (List.range 16).foldl (fun s p =>
    let l := recDie (parseRec b p) d
    (List.range (64 * l.peerCount)).foldl (fun s i => modPeer s d (64 * l.peerBase + i) (fun x => { x with part := BitVec.ofNat 4 p })) s) s

/-- Granules that stop being clean when the image takes effect: those of HOST regions and of ACTIVE partitions, so that what
partition 0 gives up is not clean (R415, R418). -/
def uncleaned (s : State) (b : List Byte) (d : DieId) : List Nat :=
  (List.range 480).filter (fun g => match newOwner b d g with
    | some p => p == 16 || decide ((getSec s p).st = .active)
    | none => oldOwner s d g == some 0)

/-- The image is written on both dies: what changes hands is cleared, and a partition that comes into being is CLEAN. -/
def installLayout (s : State) (b : List Byte) : State :=
  let dirty := fun d => uncleaned s b d
  let s := (List.range 16).foldl (fun s p => bothDies.foldl (fun s d =>
    let o := layoutDie s p d
    let n := recDie (parseRec b p) d
    let gone : Gone := fun f => f o != f n
    clearUnits (closeLost s d p gone) d p gone) s) s
  let s := (List.range 16).foldl (fun s p =>
    let was := (layoutRec s p).exists_
    let now := (parseRec b p).exists_
    if p = 0 ∨ was = now then s
    else modSec s p (fun x => if now then (if x.st = .scrubbing then x else { st := .clean, resetting := x.resetting, diesReset := x.diesReset }) else {})) s
  let s := modHsec s (fun c => { c with layout := (List.range 16).foldl (fun t p => tabSet {} t p (parseRec b p)) [] })
  let s := bothDies.foldl (fun s d =>
    let rgns := (List.range 32).foldl (fun t i => tabSet {} t i (rgnOf (imRgn b d i))) []
    setPeerParts (modDie s d (fun x => { x with rgns := rgns, scrubMap := clearGranules x.scrubMap (dirty d) })) b d) s
  modFlash s (fun f => { f with ext := (List.range 64).foldl (fun t i => tabSet 0 t i (BitVec.ofNat 64 (imExt b i))) [] })

end Sys2Proof.Machine
end

