-- ==== Sys2Proof/Machine/Security.lean ====
section
/-! DEFINITION. The security core's services: layout, scrub, confidential mode, reports, firmware, keys, debug and calibration
(R412, R416, R420 to R436). -/

namespace Sys2Proof.Machine

/-! ### Channels (R420) -/

def getChan (s : State) (ch : Nat) : SecChan := if ch = 0 then s.hd.sec.ch0 else s.hd.sec.ch1
def modChan (s : State) (ch : Nat) (f : SecChan → SecChan) : State :=
  modHsec s (fun c => if ch = 0 then { c with ch0 := f c.ch0 } else { c with ch1 := f c.ch1 })

/-- A request completes with a status and a RESULT. -/
def finishSec (s : State) (ch status result : Nat) : State :=
  modChan s ch (fun c => { c with
    busy := false, done := true, op := 0, block := none, status := BitVec.ofNat 8 status, result := BitVec.ofNat 32 result })

/-- The services of a channel: 0x01 to 0x09 but ATTEST on channel 0, ATTEST alone on channel 1. -/
def opOf (ch op : Nat) : Bool := if ch = 0 then decide (1 ≤ op) && decide (op ≤ 9) && op != 4 else op == 4

/-- A write of SEC_CMD, or a management command with its own argument block. -/
def startService (s : State) (ch op : Nat) (block : Option (List Byte)) : State :=
  if (getChan s ch).busy then modChan s ch (fun c => { c with rejected := true })
  else
    let s := modChan s ch (fun c => { c with busy := true, op := op, block := block, asked := block.map (fun b => (op, b)), report := [] })
    if opOf ch op then s else finishSec s ch 1 0

/-- The 128 bytes of the argument block. -/
def argBlock (s : State) (ch : Nat) : HostAcc × State :=
  match (getChan s ch).block with
  | some b => (.ok ((b ++ List.replicate 128 0).take 128), s)
  | none => hostRead s ((getChan s ch).arg.toNat * 64) 128

/-- The argument block lies in HBM whose rate is changing: the request waits (R300). -/
def argHeld (s : State) (ch : Nat) : Bool := (getChan s ch).block.isNone && hostHeld s ((getChan s ch).arg.toNat * 64) 128

/-- Runs a channel's request of an OP on its argument block; one that cannot be read is a BAD_REQUEST. -/
def secRun (s : State) (ch op : Nat) (f : State → List Byte → State) : State :=
  if !(getChan s ch).busy || (getChan s ch).op != op || !decide (ch < 2) || argHeld s ch then s
  else match argBlock s ch with
    | (.ok b, s1) => f s1 b
    | (_, s1) => finishSec s1 ch 1 0

/-- Bytes in host memory that a service reads; unreadable ones make it a BAD_REQUEST. -/
def withHost (s : State) (ch pa n : Nat) (f : State → List Byte → State) : State :=
  if hostHeld s pa n then s
  else match hostRead s pa n with
  | (.ok b, s1) => f s1 b
  | (_, s1) => finishSec s1 ch 1 0

/-! ### LAYOUT_SET (R416) -/

def execLayoutSet (ch : Nat) (s : State) : Res :=
  nx (secRun s ch 1 (fun s b => withHost s ch (argF b 0 8) 4864 (fun s im =>
    let st := layoutStatus s im
    finishSec (if st = 0 then installLayout s im else s) ch st 0)))

/-! ### SCRUB (R427, R430) -/

/-- Granules of a partition on a die, or those in no VALID region. -/
def scrubGranules (s : State) (d : DieId) (p : Option Nat) : List Nat :=
  match p with
  | some p => regionGranules (getDie s d) p
  | none => (List.range (capacity (getDie s d) / gib)).filter (fun g => (oldOwner s d g).isNone)

/-- Step 5: every unit of the partition's extents is trimmed. -/
def trimExtents (s : State) (p : Nat) : State :=
  (List.range 64).foldl (fun s i => match extOf (tabGet 0 s.hd.flash.ext i) p with
    | none => s
    | some (lo, hi) => (List.range (hi - lo)).foldl (fun s u => changeEntry s (lo + u) 0) s) s

/-- The scrub ends once every granule has been zero-written. -/
def endScrub (s : State) : State :=
  match s.hd.sec.scrub with
  | none => s
  | some c =>
    if !c.left0.isEmpty || !c.left1.isEmpty then s
    else
      let s := modHsec s (fun h => { h with scrub := none })
      let s := match c.part with
        | none => s
        | some p => modSec (if c.trim then trimExtents s p else s) p (fun x => { st := .clean, resetting := x.resetting, diesReset := x.diesReset })
      runHeld (finishSec s 0 0 0)

/-- Every entry of the partition's peer range returns to its reset values. -/
def resetPeers (s : State) (d : DieId) (p : Nat) : State :=
  ((getDie s d).peers.map Prod.fst).foldl (fun s n => if ownerPeer s d n = some p then modPeer (discardPeer s d n) d n (fun _ => {}) else s) s

/-- A granule is zero-written, and is clean. -/
def zeroGranule (s : State) (d : DieId) (g : Nat) : State := modDie (zeroRange s d g 1) d (fun x => { x with scrubMap := setFld x.scrubMap g g 1 })

/-- Steps 1 to 3 of a partition's scrub. -/
def beginScrub (s : State) (p : Nat) : State :=
  let s := partReset (modSec s p (fun x => { x with st := .scrubbing })) p false
  bothDies.foldl (fun s d =>
    let o := layoutDie s p d
    let s := clearUnits (resetPeers s d p) d p (fun f => f o)
    (List.range 16).foldl (fun s g => dropTlb s d g p) s) s

def scrubWith (s : State) (ch : Nat) (b : List Byte) : State :=
  let mode := argF b 0 1
  let p := argF b 1 1
  let flags := argF b 2 1
  if s.hd.sec.scrub.isSome then s
  else if 1 < mode ∨ 1 < flags ∨ (mode = 0 ∧ (p = 0 ∨ 15 < p)) then finishSec s ch 1 0
  else if mode = 0 ∧ (getSec s p).st = .absent then finishSec s ch 1 0
  else
    let s := if mode = 0 then beginScrub s p else s
    let who := if mode = 0 then some p else none
    endScrub (modHsec s (fun h => { h with scrub := some {
      part := who, trim := bit flags 0 && mode == 0, left0 := scrubGranules s .cd0 who, left1 := scrubGranules s .cd1 who } }))

def execScrub (ch : Nat) (s : State) : Res := nx (secRun s ch 2 (fun s b => scrubWith s ch b))

/-- The Sparge finishes zero-writing a granule of the scrub in progress. -/
def execSpargeZeroWrite (d : DieId) (granule : Nat) (s : State) : Res :=
  match s.hd.sec.scrub with
  | none => nx s
  | some c =>
    let left := match d with
      | .cd0 => c.left0
      | .cd1 => c.left1
    if !left.contains granule || hbmStopped (getDie s d) then nx s
    else
      let s := modHsec (zeroGranule s d granule) (fun h => { h with scrub := some (match d with
        | .cd0 => { c with left0 := c.left0.erase granule }
        | .cd1 => { c with left1 := c.left1.erase granule }) })
      nx (endScrub s)

/-! ### CONF_SET (R431) -/

/-- PT_ROOT (Table 11.9). -/
def setPtRoot (s : State) (d : DieId) (p v : Nat) : State :=
  modPart s d p (fun x => { x with ptEn := bit v 0, ptRoot := BitVec.ofNat 28 (fld v 39 12) })

/-- A range of HPAs lies within a partition's regions. -/
def ownsRange (s : State) (p hpa n : Nat) : Bool :=
  decide (hpa + n ≤ 2 ^ 40) && decide (hpaDie hpa = hpaDie (hpa + n - 1))
    && ((List.range ((hpaOff hpa + n - 1) / gib - hpaOff hpa / gib + 1)).all (fun i =>
      oldOwner s (hpaDie hpa) (hpaOff hpa / gib + i) == some p))

def confWith (s : State) (ch : Nat) (b : List Byte) : State :=
  let p := argF b 0 1
  let len := argF b 0x10 8
  let dst := argF b 0x18 8
  if 15 < p ∨ len % 4096 ≠ 0 ∨ !ownsRange s p dst len then finishSec s ch 1 0
  else if (getSec s p).st ≠ .clean then finishSec s ch 2 0
  else withHost s ch (argF b 8 8) len (fun s im =>
    let s := storeHbm s dst im
    let s := setPtRoot (setPtRoot s .cd0 p (argF b 0x20 8)) .cd1 p (argF b 0x28 8)
    finishSec (modSec s p (fun x => { x with conf := true, refusedOnce := false, ptMeas := some (digest512 im, dst, len) })) ch 0 0)

def execConfSet (ch : Nat) (s : State) : Res := nx (secRun s ch 3 (fun s b => confWith s ch b))

/-! ### Firmware bundles (R433 to R436) -/

def compTypes (b : List Byte) : List Nat := (List.range (nComp b)).map (fun i => compF b i 0 1)

def bundleFormat (b : List Byte) : Bool :=
  let n := argF b 8 4
  argF b 0 4 == 0x57464A4D && argF b 4 2 == 1 && (nComp b == 3 || nComp b == 4) && n == b.length && n % 4096 == 0 && decide (n ≤ 2 ^ 28)
    && argF b 0xC 4 == 0 && argF b 0x51 7 == 0 && argF b 0x2D8 168 == 0 && argF b 0x3F2 14 == 0 && decide (argF b 0x10 8 ≤ 64)
    && (List.range 8).all (fun i => compF b i 1 3 == 0 && compF b i 12 4 == 0 && (decide (i < nComp b) || compF b i 0 80 == 0))
    && (compTypes b).all (fun t => decide (1 ≤ t) && decide (t ≤ 4)) && decide (compTypes b).Nodup
    && [1, 2, 4].all (fun t => (compTypes b).contains t)
    && (List.range (nComp b)).all (fun i =>
      compF b i 4 4 % 4096 == 0 && decide (0x1000 ≤ compF b i 4 4) && decide (compF b i 4 4 + compF b i 8 4 ≤ n))

/-- The checks of FW_STAGE in order: the first that fails, 0 where all pass. -/
def bundleStatus (s : State) (b : List Byte) : Nat :=
  if !bundleFormat b then 8
  else if (keySlot s (bundleKey b)).isNone then 9
  else if !bundleSigned b then 0xA
  else if argF b 0x10 8 < s.hd.ident.fwSvn then 0xB
  else if !(List.range (nComp b)).all (fun i =>
      digest512 ((b.drop (compF b i 4 4)).take (compF b i 8 4)) == compF b i 16 64) then 8
  else 0

/-- Both selectors are written, NF00 first. -/
def writeSelectors (s : State) (seq active staged : Nat) : State :=
  let body := leBytes 4 0x4C45534D ++ leBytes 4 seq ++ leBytes 1 active ++ leBytes 1 staged ++ List.replicate 46 0
  writeBoot s 0 (body ++ leBytes 8 (crc64 (leBytes 8 s.hd.ident.serial.toNat ++ body)))

/-- SEQ of the selector that booted. -/
def selectorSeq (s : State) : Nat := if selectorOk s (b2n s.hd.boot.copy) then bootNum (bootCopy s (b2n s.hd.boot.copy)) 4 4 else 0

def stageWith (s : State) (ch : Nat) (b : List Byte) : State :=
  withHost s ch (argF b 0 8) (argF b 8 4) (fun s im =>
    let st := bundleStatus s im
    if st ≠ 0 then finishSec s ch st 0
    else
      let a := (selected s).1
      finishSec (writeSelectors (writeBoot s (bundleBase (1 - a)) im) (selectorSeq s) a (1 - a)) ch 0 0)

def execFwStage (r : SecReq) (s : State) : Res := nx (secRun s r.ch 5 (fun s b => stageWith (readBoot s r.failed 0 64) r.ch b))

def discardWith (s : State) (ch : Nat) : State := finishSec (writeSelectors s (selectorSeq s) (selected s).1 0xFF) ch 0 0

def execFwDiscard (r : SecReq) (s : State) : Res := nx (secRun s r.ch 7 (fun s _ => discardWith (readBoot s r.failed 0 64) r.ch))

/-- TYPE, SIZE and DIGEST of every component but DM_FW. -/
def otherComps (b : List Byte) : List (Nat × Nat × Nat) :=
  ((List.range (min 8 (nComp b))).map (fun i => (compF b i 0 1, compF b i 8 4, compF b i 16 64))).filter (fun c => c.1 != 2)

/-- The staged bundle differs from the active one only in DM_FW. -/
def liveApply (s : State) (a st : Nat) : Bool :=
  let x := otherComps (bundleHead s a)
  let y := otherComps (bundleHead s st)
  x.all y.contains && y.all x.contains

/-- An apply window closes: the sector checks of its die go on from now. -/
def resumeChecks (s : State) : State :=
  if s.hd.sec.applying = 0 then s
  else modDie s (dieOfNum (s.hd.sec.applying - 1)) sectorsAnswered

/-- FW_APPLY: live in three steps, an apply window on CD0, then on CD1, then the selectors; else by a warm reset. -/
def applyWith (s : State) (ch : Nat) : State :=
  let (a, st) := selected s
  if st = 0xFF then finishSec s ch 0xC 0
  else if !liveApply s a st then warmReset (writeSelectors s ((selectorSeq s + 1) % 2 ^ 32) st 0xFF) 2
  else if s.hd.sec.applying < 2 then modHsec (resumeChecks s) (fun c => { c with applying := c.applying + 1 })
  else finishSec (writeSelectors (modHsec (resumeChecks s) (fun c => { c with applying := 0 })) ((selectorSeq s + 1) % 2 ^ 32) st 0xFF) ch 0 0

def execFwApply (r : SecReq) (s : State) : Res := nx (secRun s r.ch 6 (fun s _ => applyWith (readBoot s r.failed 0 64) r.ch))

/-! ### Keys and debug (R422, R432) -/

/-- DEBUG_NONCE takes a fresh value. -/
def freshNonce (s : State) : State :=
  let f := drawFree s 64
  modHsec f.2 (fun c => { c with nonce := BitVec.ofNat 64 f.1 })

/-- A token or request names this module and this boot, and is signed under a slot that is not revoked. -/
def tokenSlot (s : State) (t : List Byte) (ctx : String) : Option Nat :=
  let key := (t.drop 0x18).take 57
  if argF t 0 8 ≠ s.hd.ident.serial.toNat ∨ argF t 8 8 ≠ s.hd.sec.nonce.toNat then none
  else match keySlot s key with
    | none => none
    | some k => if edVerify key (ascii ctx) (t.take 0x58) ((t.drop 0x58).take 114) then some k else none

/-- A bundle of the boot region was signed under a slot. -/
def bundleUsesSlot (s : State) (slot k : Nat) : Bool :=
  digest512 (bundleKey (bundleHead s slot)) == (tabGet 0 s.hd.ident.keyDigest k).toNat

/-- No reason of R422 refuses the revocation of a slot. -/
def mayRevoke (s : State) (signer k : Nat) : Bool :=
  let sel := selected s
  (tabGet 0 s.hd.ident.keyDigest signer) != (tabGet 0 s.hd.ident.keyDigest k) && (bitsSet 4 (15 - (s.hd.ident.keyRevoked.toNat ||| 2 ^ k))).length != 0
    && !bundleUsesSlot s sel.1 k && (sel.2 == 0xFF || !bundleUsesSlot s sel.2 k)

def revokeWith (s : State) (ch : Nat) (b : List Byte) : State :=
  withHost s ch (argF b 0 8) 208 (fun s t =>
    let k := argF t 0x10 2
    match tokenSlot s t "HOLTUTH-REVOKE" with
    | none => finishSec s ch 0xD 0
    | some signer =>
      if 3 < k then finishSec s ch 1 0
      else if !mayRevoke s signer k then finishSec s ch 0xD 0
      else if bit s.hd.ident.keyRevoked.toNat k then finishSec s ch 0 0
      else
        let s := { s with hd := { s.hd with ident := { s.hd.ident with keyRevoked := s.hd.ident.keyRevoked ||| BitVec.ofNat 4 (2 ^ k) } } }
        finishSec (freshNonce s) ch 0 0)

def execKeyRevoke (ch : Nat) (s : State) : Res := nx (secRun s ch 8 (fun s b => revokeWith s ch b))

def debugWith (s : State) (ch : Nat) (b : List Byte) : State :=
  withHost s ch (argF b 0 8) 208 (fun s t =>
    if s.hd.ident.debugDisable || (tokenSlot s t "HOLTUTH-DEBUG").isNone then finishSec s ch 0xE 0
    else finishSec (freshNonce (modHsec s (fun c => { c with debugScope := c.debugScope ||| BitVec.ofNat 3 (argF t 0x10 2) }))) ch 0 0)

def execDebugAuth (ch : Nat) (s : State) : Res := nx (secRun s ch 9 (fun s b => debugWith s ch b))

/-! ### Reports (R424 to R426) -/

/-- The identity's private key (R423). -/
def identityKey (s : State) : List Byte := shake256 57 (leBytes 32 s.hd.ident.uds.toNat ++ ascii "HOLTUTH-MJ20-IDENTITY")

/-- PART_SEC_ST (Table 16.7). -/
def partSecWord (s : State) (p : Nat) : Nat :=
  let x := getSec s p
  (match x.st with
    | .absent => 0
    | .clean => 1
    | .active => 2
    | .scrubbing => 3) + 4 * b2n x.conf + 8 * b2n (isResetting s p) + 16 * b2n x.ovf0 + 32 * b2n x.ovf1

/-- FUSE_ST (Table 16.14). -/
def fuseStWord (s : State) : Nat :=
  s.hd.ident.keyRevoked.toNat + 16 * b2n s.hd.ident.debugDisable + 64 * (min 64 s.hd.ident.fwSvn)

/-- An entry of 96 bytes (Table 16.16). -/
def entryBytes (type die sel index a b digest : Nat) : List Byte :=
  leBytes 1 type ++ leBytes 1 die ++ leBytes 1 sel ++ leBytes 1 0 ++ leBytes 4 index ++ leBytes 8 a ++ leBytes 8 b ++ leBytes 64 digest
    ++ leBytes 8 0

/-- Digest of a partition's record with its regions and extents. -/
def partLayoutDigest (s : State) (p : Nat) : Nat :=
  digest512 (recBytes (layoutRec s p)
    ++ bothDies.flatMap (fun d => (List.range 32).flatMap (fun i =>
      let r := getRgn (getDie s d) i
      if rgnValid r && !r.host && r.part.toNat == p then leBytes 4 (rgnWord r) else []))
    ++ (List.range 64).flatMap (fun i =>
      let v := tabGet 0 s.hd.flash.ext i
      if (extOf v p).isSome then leBytes 8 v.toNat else []))

/-- BILL, IMAGE and WEIGHT entries of a partition on a die. -/
def dieEntries (s : State) (p : Nat) (d : DieId) : List (List Byte) :=
  let slots := (List.range 8).filter (fun t =>
    let y := getSlot (getDie s d) t
    ownerSlot s d t == some p && decide (y.st ≠ .empty) && decide (y.st ≠ .loading))
  let x := getSec s p
  let meas := match d with
    | .cd0 => x.meas0
    | .cd1 => x.meas1
  slots.map (fun t =>
    let y := getSlot (getDie s d) t
    entryBytes 1 (dieNum d) t 0 (bId y.bill) (bLength y.bill) y.meas)
  ++ slots.flatMap (fun t =>
    let y := getSlot (getDie s d) t
    (List.range (nImages y.bill)).map (fun i => entryBytes 2 (dieNum d) t i 0 (imLen y.bill i) (tabGet 0 y.imgMeas i)))
  ++ meas.map (fun m => entryBytes 3 (dieNum d) m.vers m.index m.doff m.len m.digest)

/-- The die's apply window is open, and the partition has units on it. -/
def inWindow (s : State) (p : Nat) (d : DieId) : Bool := s.hd.sec.applying == dieNum d + 1 && holdsUnits s p d

/-- STATE of a partition's report (Table 16.18). -/
def reportState (s : State) (p : Nat) : Nat :=
  let x := getSec s p
  if decide (x.st = .scrubbing) || isResetting s p then 3
  else if inWindow s p .cd0 || inWindow s p .cd1 then 2
  else if (selected s).2 ≠ 0xFF then 1
  else 0

/-- Entries of types 1 to 3 of a die are left out. -/
def omitted (s : State) (p : Nat) (d : DieId) : Bool := reportState s p == 3 || inWindow s p d

def partEntries (s : State) (p : Nat) : List (List Byte) :=
  let x := getSec s p
  [entryBytes 5 0xFF 0 0 (partSecWord s p) 0 (partLayoutDigest s p)]
  ++ (match x.ptMeas with
    | some (dg, dst, len) => [entryBytes 4 0xFF 0 0 dst len dg]
    | none => [])
  ++ bothDies.flatMap (fun d => if omitted s p d then [] else dieEntries s p d)

/-- COMPONENT entries of a bundle slot. -/
def compEntries (s : State) (slot which : Nat) : List (List Byte) :=
  let b := bundleHead s slot
  (List.range (min 8 (nComp b))).map (fun i => entryBytes 0x11 0xFF (compF b i 0 1) which (argF b 0x10 8) (compF b i 8 4) (compF b i 16 64))

def platformEntries (s : State) : List (List Byte) :=
  let sel := selected s
  [entryBytes 0x10 0xFF 0 0 0 0 (leNat (edPublic (identityKey s)))]
  ++ compEntries s sel.1 0 ++ (if sel.2 = 0xFF then [] else compEntries s sel.2 1)
  ++ (List.range 4).map (fun k => entryBytes 0x12 0xFF k 0 (b2n (bit s.hd.ident.keyRevoked.toNat k)) 0 (tabGet 0 s.hd.ident.keyDigest k).toNat)
  ++ [entryBytes 0x13 0xFF 0 0 (fuseStWord s) s.hd.ident.serial.toNat 0,
      entryBytes 0x14 0xFF 0 0 s.hd.sec.debugScope.toNat (b2n s.hd.ident.debugDisable) 0,
      entryBytes 0x15 0xFF 0 0 0 0 (digest512 (imageInForce s))]
  ++ (List.range 16).map (fun p => entryBytes 0x16 0xFF p 0 (partSecWord s p) 0 0)

/-- Digest of the bundle in a slot. -/
def bundleDigest (s : State) (slot : Nat) : Nat := digest512 (bundleAt s slot 0 0x380)

/-- The signed report (R425). -/
def report (s : State) (kind p nonce : Nat) : List Byte :=
  let es := if kind = 1 then partEntries s p else platformEntries s
  let x := getSec s p
  let sel := selected s
  let st := if kind = 1 then reportState s p else if s.hd.sec.applying ≠ 0 then 2 else if sel.2 ≠ 0xFF then 1 else 0
  let flags := if kind = 1 then
      b2n x.conf + 4 * b2n x.ovf0 + 8 * b2n x.ovf1 + 16 * b2n (omitted s p .cd0) + 32 * b2n (omitted s p .cd1)
    else 0
  let flags := flags + 2 * b2n (s.hd.sec.debugScope != 0)
  let len := 384 + 96 * es.length
  let body := leBytes 4 0x54414A4D ++ leBytes 2 1 ++ leBytes 1 kind ++ leBytes 1 st ++ leBytes 1 (if kind = 1 then p else 0) ++ leBytes 1 flags
    ++ leBytes 2 s.hd.boot.count.toNat ++ leBytes 4 len ++ leBytes 64 nonce ++ leBytes 8 s.hd.time.tb ++ leBytes 8 s.hd.ident.serial.toNat
    ++ leBytes 64 (bundleDigest s sel.1) ++ leBytes 64 (if sel.2 = 0xFF then 0 else bundleDigest s sel.2)
    ++ leBytes 4 es.length ++ leBytes 28 0 ++ es.flatten
  body ++ edSign (identityKey s) (ascii "HOLTUTH-ATTEST") body ++ List.replicate 14 0

def attestWith (s : State) (ch : Nat) (b : List Byte) : State :=
  let kind := argF b 0 1
  let p := argF b 1 1
  if kind = 0 ∨ 2 < kind ∨ 15 < p then finishSec s ch 1 0
  else
    let r := report s kind p (argF b 0x40 64)
    if (getChan s ch).block.isSome then finishSec (modChan s ch (fun c => { c with report := r })) ch 0 r.length
    else if argF b 0x10 8 < r.length then finishSec s ch 0xF r.length
    else if hostHeld s (argF b 8 8) r.length then s
    else match hostWrite s (argF b 8 8) r with
      | (.ok _, s1) => finishSec s1 ch 0 r.length
      | (_, s1) => finishSec s1 ch 1 0

def execAttest (ch : Nat) (s : State) : Res := nx (secRun s ch 4 (fun s b => attestWith s ch b))

/-! ### Management requests (R420) -/

/-- A management ATTEST or FW_UPDATE on a channel: the request starts its service, and the same request, once the service has ended,
is answered with STATUS, the length of the report and a piece of at most 48 bytes of it at an offset. None while the answer is BUSY.
DESIGN CHOICE (assumption 45): a request that has read its result to the end is forgotten. -/
def mgmtService (s : State) (ch op : Nat) (b : List Byte) (off : Nat) : Option (List Byte) × State :=
  let c := getChan s ch
  if c.busy || c.asked != some (op, b) then (none, if c.busy && c.asked == some (op, b) then s else startService s ch op (some b))
  else
    let s := if c.report.length ≤ off + 48 then modChan s ch (fun c => { c with asked := none, report := [] }) else s
    (some (leBytes 1 c.status.toNat ++ leBytes 4 c.report.length ++ (c.report.drop off).take 48), s)

/-! ### CAL_CTL.COMMIT (R412) -/

/-- The staged set is read and checked; one that passes goes to both copies. A read that a change of data rate holds leaves it waiting. -/
def runCommit (s : State) : State :=
  let pa := s.hd.boot.calSrc.toNat * 4096
  let failed := fun (s : State) (r : Nat) => modBoot s (fun b => { b with calBusy := false, calPend := false, calResult := BitVec.ofNat 3 r })
  if hostHeld s pa 0x20 then s
  else match hostRead s pa 0x20 with
  | (.ok h, s1) =>
    let n := max 0x20 (min 0x10000 (argF h 8 4))
    if hostHeld s pa n then s
    else match hostRead s1 pa n with
    | (.ok set, s2) =>
      let r := calCheck s.hd.ident.serial.toNat set
      if r ≠ 0 then failed s2 r else modBoot (writeBoot s2 calBase set) (fun b => { b with calPend := false, calResult := 0 })
    | (_, s2) => failed s2 1
  | (_, s1) => failed s1 1

/-- COMMIT, which is ignored while BUSY. -/
def calCommit (s : State) : State :=
  if s.hd.boot.calBusy then s else runCommit (modBoot s (fun b => { b with calBusy := true, calPend := true }))

/-- A COMMIT that waits goes on. -/
def resumeCommit (s : State) : State := if s.hd.boot.calPend then runCommit s else s

def execCalCommit (agent : Nat) (s : State) : Res := hostReg s agent (if mgmtAgent agent then calCommit s else s)

end Sys2Proof.Machine
end

