-- ==== Sys2Proof/Machine/DieRegs.lean ====
section
/-! DEFINITION. A compute-die register window (Tables 19.2, 19.14): what each slot reads as, what a read clears and what a write
does. -/

namespace Sys2Proof.Machine

/-! ### Queues (Tables 8.13 to 8.21), also the flash aperture's registers (R331) -/

/-- QSEQ, QRING and QIRQ. -/
def qseqWord (x : Queue) : Nat := x.accSeq.toNat + 2 ^ 32 * x.startSeq.toNat
def qringWord (x : Queue) : Nat := x.logN.toNat + 2 ^ 12 * x.ringBase.toNat
def qirqWord (x : Queue) : Nat := 4 * x.irqAddr.toNat + 2 ^ 48 * x.irqEiid.toNat

def qringWrite (x : Queue) (w : RegW) : Queue :=
  let v := w.over (qringWord x)
  { x with logN := BitVec.ofNat 4 (fld v 3 0), ringBase := BitVec.ofNat 36 (fld v 47 12) }
def qirqWrite (x : Queue) (w : RegW) : Queue :=
  let v := w.over (qirqWord x)
  { x with irqAddr := BitVec.ofNat 46 (fld v 47 2), irqEiid := BitVec.ofNat 11 (fld v 58 48) }

/-- QUEUE_ST (Table 8.14). -/
def queueStWord (s : State) (d : DieId) (q : Nat) : Nat :=
  let x := getQueue (getDie s d) q
  let o := ownerQueue s d q
  queueStByte x false + 2 ^ 8 * (x.fn.status % 256) + 2 ^ 16 * o.getD 0 + 2 ^ 20 * b2n o.isSome

/-- The registers of a queue and its counter set, by slot. -/
def queueReg_ (s : State) (d : DieId) (q i : Nat) : Nat :=
  let x := getQueue (getDie s d) q
  match i with
  | 0 => b2n x.fn.en + 2 * b2n x.irqEn
  | 1 => queueStWord s d q
  | 2 => x.free
  | 3 => qseqWord x
  | 4 => x.dropped.toNat
  | 5 => qringWord x
  | 6 => qirqWord x
  | 7 => 0
  | _ => cntReg (getSet (getDie s d) (setQueueSet q)) ((ownerQueue s d q).any (confidential s)) 5 (i - 8)

def queueRegWrite (s : State) (d : DieId) (q i : Nat) (w : RegW) : State :=
  match i with
  | 0 => if w.low then writeQueueCtl s d q (w.one 0) (w.one 1) else s
  | 1 => headerAfter s d q (modQueue s d q (fun x => { x with actIgnored := w.clr 6 x.actIgnored }))
  | 5 => modQueue s d q (fun x => qringWrite x w)
  | 6 => modQueue s d q (fun x => qirqWrite x w)
  | 7 => if w.low then queueAct s d q (fld (w.over 0) 1 0) else s
  | _ => if 8 ≤ i then modSet s d (setQueueSet q) (fun c => cntWrite c 5 (i - 8) w) else s

/-! ### Stations -/

/-- The running station of an instance. -/
def runningAt (s : State) (d : DieId) (kind place : Nat) : Option StAt :=
  (List.range 8).findSome? (fun slot => match runningBill (getDie s d) slot with
    | some b => (findStation b kind place).map (fun st => { d := d, slot := slot, bill := b, st := st })
    | none => none)

/-- BAR_ST (Table 10.10). -/
def barWord (s : State) (d : DieId) (place : Nat) : Nat :=
  match runningAt s d 11 place with
  | none => 0
  | some a =>
    let x := stGet s a 0
    let gating := gatingRoutes a.bill a.st 0
    let tokens := !gating.isEmpty && gating.all (fun r => (routeHead s a r).isSome)
    x.ended % 2 ^ 32 + 2 ^ 32 * b2n x.lastArg0 + 2 ^ 33 * b2n (tokens && voteDue s a && x.votes.isEmpty)

/-- RL_CTL, RL_ST and RL_CNT (Tables 10.4 to 10.6). -/
def linkReg (k : Link) (i : Nat) : Nat :=
  match i with
  | 0 => k.tmo.toNat
  | 1 => k.places.length + 2 ^ 5 * b2n k.headValid + 2 ^ 16 * k.head
  | 2 => k.stale.toNat + 2 ^ 16 * k.misrouted.toNat + 2 ^ 32 * k.faulted.toNat + 2 ^ 48 * k.discarded.toNat
  | _ => 0

/-- The counters that a station kind has (Tables 17.6 and 17.7). -/
def kindCounter (kind n : Nat) : Bool :=
  decide (n < 6) || match kind with
    | 3 => decide (n ≤ 10)
    | 5 => n == 6
    | 8 => n == 6 || n == 8
    | 10 => n == 6
    | _ => false

/-- A station's slots: CNT_CTL and counters 0 to 10, zero where its kind has none (R446); from 0x80 the registers of its kind. -/
def stationReg (s : State) (d : DieId) (kind place i : Nat) : Nat :=
  if placesOf kind ≤ place then 0
  else if i < 12 then
    if i != 0 && !kindCounter kind (i - 1) then 0
    else cntReg (getSet (getDie s d) (setStationSet kind place)) ((setOwner s d (setStationSet kind place)).any (confidential s)) 11 i
  else if i < 16 then 0
  else if kind = 5 then linkReg (getLink (getDie s d) place) (i - 16)
  else if kind = 11 ∧ i = 16 then barWord s d place
  else 0

def stationRegWrite (s : State) (d : DieId) (kind place i : Nat) (w : RegW) : State :=
  if placesOf kind ≤ place then s
  else if i < 12 then modSet s d (setStationSet kind place) (fun c => cntWrite c 11 i w)
  else if kind = 5 ∧ i = 16 ∧ w.low then writeRl s d place (w.over 0)
  else s

/-! ### Partitions, bill slots and epoch groups -/

/-- PART_FLOOR_ST (Table 7.15). -/
def partFloorWord (p : PartDie) : Nat :=
  p.active.getD 0 + 2 ^ 3 * b2n p.active.isSome + (match p.held with
    | none => 0
    | some h => 2 ^ 4 * h.target.getD 0 + 2 ^ 7 + 2 ^ 8 * b2n h.target.isNone + 2 ^ 9 * b2n h.abort)
  + 2 ^ 10 * ((p.sw.map Switch.phase).getD 0)

/-- PART_STEP_ST (Table 9.6). -/
def partStepWord (s : State) (d : DieId) (n : Nat) : Nat :=
  let p := getPart (getDie s d) n
  b2n p.stepNf + 2 * b2n ((getDie s d).epochs.any (fun e => e.2.commit.isSome && ownerEpoch s d e.1 == some n)) + 4 * (p.lastVerdict % 4)
    + 2 ^ 16 * (p.nfSite % 2 ^ 9) + 2 ^ 25 * (p.nfCtx % 4)

/-- CELL_IRQ (Table 6.21), and in its layout ELOG_IRQ (Table 18.7). -/
def irqWord (en : Bool) (addr : BitVec 46) (eiid : BitVec 11) : Nat := b2n en + 4 * addr.toNat + 2 ^ 48 * eiid.toNat

/-- The registers of a partition on a die, by slot. -/
def partReg (s : State) (d : DieId) (n i : Nat) : Nat :=
  let p := getPart (getDie s d) n
  match i with
  | 0 => partFloorWord p
  | 1 => partStepWord s d n
  | 2 => p.barTmo.toNat
  | 3 => p.nfTime.toNat
  | 4 => b2n p.ptEn + 2 ^ 12 * p.ptRoot.toNat
  | 5 => 2 ^ 16 * p.tlbVa.toNat + 2 ^ 48 * p.tlbCount.toNat
  | 6 => 2 * b2n p.tlbBusy + 4 * b2n p.tlbDone
  | 7 => irqWord p.irqEn p.irqAddr p.irqEiid
  | _ => if 8 ≤ i ∧ i < 13 then fld p.evt (64 * (i - 8) + 63) (64 * (i - 8)) else 0

/-- A write; false while its acknowledgement waits (R305). PT_ROOT of a confidential partition ignores writes (Table 16.21). -/
def partRegWrite (s : State) (agent : Nat) (d : DieId) (n i : Nat) (w : RegW) : State × Bool :=
  let p := getPart (getDie s d) n
  let v := w.over (partReg s d n i)
  match i with
  | 2 => (modPart s d n (fun p => { p with barTmo := BitVec.ofNat 16 v }), true)
  | 4 => (if confidential s n then s else setPtRoot s d n v, true)
  | 5 => (modPart s d n (fun p => { p with tlbVa := BitVec.ofNat 32 (fld v 47 16), tlbCount := BitVec.ofNat 16 (fld v 63 48) }), true)
  | 6 =>
    let s := modPart s d n (fun p => { p with tlbDone := w.clr 2 p.tlbDone })
    if w.one 0 then (tlbStart s agent d n, false) else (s, true)
  | 7 => (modPart s d n (fun p => { p with
      irqEn := bit v 0, irqAddr := BitVec.ofNat 46 (fld v 47 2), irqEiid := BitVec.ofNat 11 (fld v 58 48) }), true)
  | _ =>
    if 8 ≤ i ∧ i < 13 then
      let lo := 64 * (i - 8)
      (modPart s d n (fun _ => { p with evt := setFld p.evt (lo + 63) lo (fld p.evt (lo + 63) lo - (fld p.evt (lo + 63) lo &&& (w.val &&& w.mask))) }), true)
    else (s, true)

/-- The registers of a bill slot (Tables 7.10 to 7.13), by slot. -/
def bslotReg (s : State) (d : DieId) (n i : Nat) : Nat :=
  let x := getSlot (getDie s d) n
  match i with
  | 0 => (match x.st with
      | .empty => 0
      | .loading => 1
      | .loaded => 2
      | .entering => 3
      | .active => 4
      | .leaving => 5) + 8 * b2n (bit (bFlags x.bill) 0) + 16 * (ownerSlot s d n).getD 0 + 2 ^ 8 * (x.lastStatus % 256)
  | 1 => bLength x.bill
  | 2 => bId x.bill
  | _ => if i < 11 then fld x.meas (64 * (i - 3) + 63) (64 * (i - 3)) else 0

/-- EPOCH_ST (Table 9.4). -/
def epochWord (s : State) (d : DieId) (g : Nat) : Nat :=
  let e := getEpoch (getDie s d) g
  let o := ownerEpoch s d g
  e.ver.toNat + 2 ^ 32 * b2n e.commit.isSome + 2 ^ 33 * b2n o.isSome + 2 ^ 34 * o.getD 0

/-! ### Error logs (R459, R460) -/

/-- RD_SEQ above WR_SEQ, or more than 1,024 below it, is ignored. -/
def writeRdSeq (s : State) (w : Option DieId) (v : W32) : State :=
  let e := getLog s w
  if (e.wr - v).toNat ≤ 1024 then setLog s w { e with rd := v } else s

/-- ELOG_ST, ELOG_LOST, ELOG_IRQ and SRAM_ECC. -/
def elogReg (e : Elog) (i : Nat) : Nat :=
  match i with
  | 0 => e.wr.toNat + 2 ^ 32 * e.rd.toNat
  | 1 => e.lost.toNat
  | 2 => irqWord e.irqEn e.irqAddr e.irqEiid
  | 3 => e.sramCorr.toNat + 2 ^ 32 * e.sramUncorr.toNat
  | _ => 0

def elogClear (e : Elog) (i : Nat) (w : RegW) : Elog :=
  match i with
  | 1 => if w.low then { e with lost := 0 } else e
  | 3 =>
    let e := if w.low then { e with sramCorr := 0 } else e
    if bit w.mask 32 then { e with sramUncorr := 0 } else e
  | _ => e

def elogWrite (s : State) (l : Option DieId) (i : Nat) (w : RegW) : State :=
  let e := getLog s l
  let v := w.over (elogReg e i)
  match i with
  | 0 => if bit w.mask 32 then writeRdSeq s l (BitVec.ofNat 32 (fld v 63 32)) else s
  | 2 => setLog s l { e with irqEn := bit v 0, irqAddr := BitVec.ofNat 46 (fld v 47 2), irqEiid := BitVec.ofNat 11 (fld v 58 48) }
  | _ => s

/-- The 64 bits of ELOG_WIN at a slot of its 8,192. -/
def elogWin (e : Elog) (i : Nat) : Nat := fld (tabGet 0 e.recs (i / 8)) (64 * (i % 8) + 63) (64 * (i % 8))

/-! ### The die block (Table 19.14) -/

/-- FUSEMAP_ST (Table 19.10). -/
def fusemapWord (x : Die) (g : Nat) : Nat :=
  (siteMask x g).toNat + 2 ^ 32 * ((List.range 17).foldl (fun n i =>
    let site := g * 17 + i
    n + 2 ^ i * b2n (siteEnabled x site && !sitePresent x site)) 0)

def ilvWord (x : Die) : Nat := x.ilvEn.toNat + 2 ^ 10 * stackCount x + 2 ^ 14 * b2n x.ilvValid

def clkEnCdWord (c : DieClk) : Nat := c.enMc.toNat + 2 ^ 10 * c.enUcie.toNat + 2 ^ 14 * c.enCp.toNat + 2 ^ 18 * c.enDm.toNat

def thermWord (maxT : BitVec 8) (sensor : BitVec 4) (throttle limit : Bool) : Nat :=
  maxT.toNat + 2 ^ 8 * sensor.toNat + 2 ^ 12 * b2n throttle + 2 ^ 13 * b2n limit

/-- The clock and observation registers, by slot from 0x1000. -/
def clkReg (x : Die) (i : Nat) : Nat :=
  let c := x.clk
  match i with
  | 0 => clkEnCdWord c
  | 1 => c.rateCap.toNat
  | 2 => govStWord c
  | 3 => thermWord c.maxT c.maxSensor c.throttle c.limit
  | 4 => c.tb % 2 ^ 64
  | 5 => 2 * b2n c.measDone + 16 * c.measPort.toNat
  | 6 | 7 | 8 => (tabGet 0 c.meas (i - 6)).toNat
  | 9 => x.obs.snapTime.toNat
  | 10 => 2 * b2n x.obs.snapArmed + 4 * b2n x.obs.snapDone
  | _ => 0

def clkRegWrite (s : State) (d : DieId) (i : Nat) (w : RegW) : State :=
  let x := getDie s d
  let v := w.over (clkReg x i)
  match i with
  | 0 => modDclk s d (fun c => { c with
      enMc := BitVec.ofNat 10 (fld v 9 0), enUcie := BitVec.ofNat 4 (fld v 13 10), enCp := BitVec.ofNat 4 (fld v 17 14)
      enDm := BitVec.ofNat 3 (fld v 20 18) })
  | 1 => modDclk s d (fun c => { c with rateCap := BitVec.ofNat 12 v })
  | 3 => modDclk s d (fun c => { c with limit := w.clr 13 c.limit })
  | 5 =>
    let s := modDclk s d (fun c => { c with measPort := BitVec.ofNat 4 (fld v 7 4) })
    if w.one 0 then startMeas s d else s
  | 9 => modDie s d (fun x => { x with obs := { x.obs with snapTime := BitVec.ofNat 64 v } })
  | 10 =>
    let s := modDie s d (fun x => { x with obs := { x.obs with snapDone := w.clr 2 x.obs.snapDone } })
    if w.one 0 then armSnap s d else s
  | _ => s

/-- UCIE_ST (Table 13.4) and BRG_SEG_ST (Table 13.7). -/
def ucieWord (u : Ucie) : Nat :=
  u.st.toNat + 4 * u.txRep.toNat + 2 ^ 5 * u.rxRep.toNat + 2 ^ 8 * u.servedBy.toNat + 2 ^ 16 * u.retries.toNat
def segWord (g : Seg) : Nat :=
  (match g.st with
    | .down => 0
    | .up => 1
    | .failed => 2) + 4 * g.subst.toNat + 2 ^ 16 * g.retries.toNat

/-- CP_FN (Table 15.11). -/
def cpFnWord (f : Func) : Nat := b2n f.en + 2 * fstateCode f.st + 8 * b2n f.pend + 2 ^ 8 * (f.status % 256)

/-- The link registers, by slot from 0x3000. -/
def linksReg (x : Die) (i : Nat) : Nat :=
  let c := x.chain
  if i < 4 then ucieWord (getUcie x i)
  else if i < 20 then segWord (getSeg x (i - 4))
  else if i < 24 then b2n (bit c.cfgMode.toNat (i - 20)) + 2 * b2n (bit c.cfgIface.toNat (i - 20))
  else if i < 40 then (tabGet 0 c.mac (i - 24)).toNat
  else if i = 40 then c.id.toNat
  else if i = 41 then c.etype.toNat
  else if i = 42 then c.cvsel.toNat + 2 ^ 8 * c.rto.toNat
  else if i < 59 then (tabGet 0 c.markDst (i - 43)).toNat
  else if i < 75 then cpFnWord (getCp x (i - 59))
  else 0

/-- The UCIe module or the chain-port quadrant whose block holds the slot has its clock (R374; assumption 41). -/
def linksOpen (c : DieClk) (i : Nat) : Bool :=
  if i < 4 then bit c.enUcie.toNat i
  else if 20 ≤ i ∧ i < 24 then bit c.enCp.toNat (i - 20)
  else if 24 ≤ i ∧ i < 40 then bit c.enCp.toNat ((i - 24) / 4)
  else if 43 ≤ i ∧ i < 59 then bit c.enCp.toNat ((i - 43) / 4)
  else if 59 ≤ i ∧ i < 75 then bit c.enCp.toNat ((i - 59) / 4)
  else true

def linksClear (s : State) (d : DieId) (i : Nat) (w : RegW) : State :=
  if !w.low then s
  else if i < 4 then modDie s d (fun x => setUcie x i { getUcie x i with retries := 0 })
  else if i < 20 then modSeg s d (i - 4) (fun g => { g with retries := 0 })
  else s

def modChain (s : State) (d : DieId) (f : ChainRegs → ChainRegs) : State := modDie s d (fun x => { x with chain := f x.chain })

def linksWrite (s : State) (d : DieId) (i : Nat) (w : RegW) : State :=
  let v := w.over (linksReg (getDie s d) i)
  if 20 ≤ i ∧ i < 24 then modChain s d (fun c => { c with
    cfgMode := BitVec.ofNat 4 (setFld c.cfgMode.toNat (i - 20) (i - 20) v), cfgIface := BitVec.ofNat 4 (setFld c.cfgIface.toNat (i - 20) (i - 20) (v / 2)) })
  else if 24 ≤ i ∧ i < 40 then modChain s d (fun c => { c with mac := tabSet 0 c.mac (i - 24) (BitVec.ofNat 48 v) })
  else if i = 40 then modChain s d (fun c => { c with id := BitVec.ofNat 32 v })
  else if i = 41 then modChain s d (fun c => { c with etype := BitVec.ofNat 16 v })
  else if i = 42 then modChain s d (fun c => { c with cvsel := BitVec.ofNat 2 v, rto := BitVec.ofNat 16 (fld v 23 8) })
  else if 43 ≤ i ∧ i < 59 then modChain s d (fun c => { c with markDst := tabSet 0 c.markDst (i - 43) (BitVec.ofNat 48 v) })
  else if 59 ≤ i ∧ i < 75 ∧ w.low then writeCpEn s d (i - 59) (w.one 0)
  else s

/-- The trace registers (Tables 17.11 to 17.17), by slot from 0x5000. -/
def traceReg (t : Trace) (i : Nat) : Nat :=
  match i with
  | 0 => trcCtlWord t
  | 1 => t.log2sz.toNat + 2 ^ 16 * t.base.toNat
  | 2 => t.pre.toNat + 2 ^ 32 * t.post.toNat
  | 3 => t.tkind.toNat + 2 ^ 8 * t.tclass.toNat + 2 ^ 16 * t.tindex.toNat + 2 ^ 32 * b2n t.onError
  | 4 => t.idx.toNat + 2 ^ 27 * b2n t.wrapped + 2 ^ 28 * t.st.toNat + 2 ^ 32 * t.trigIdx.toNat
  | 5 => t.lost.toNat
  | _ => 0

def traceRegWrite (s : State) (d : DieId) (i : Nat) (w : RegW) : State :=
  let v := w.over (traceReg (getTrace s d) i)
  match i with
  | 0 => writeTrcCtl s d w
  | 1 => modTrace s d (fun t => { t with log2sz := BitVec.ofNat 5 v, base := BitVec.ofNat 24 (fld v 39 16) })
  | 2 => modTrace s d (fun t => { t with pre := BitVec.ofNat 27 (fld v 26 0), post := BitVec.ofNat 27 (fld v 58 32) })
  | 3 => modTrace s d (fun t => trigWrite t v (getDie s d).elog.wr)
  | 6 => traceMark s d (w.over 0)
  | _ => s

/-- What the slot at an offset of the die block holds. -/
def blockWord (s : State) (d : DieId) (off : Nat) : Nat :=
  let x := getDie s d
  let i := off / 8
  if off < 0x80 then fusemapWord x i
  else if off = 0x80 then x.fuse.failed.toNat
  else if off < 0xC8 then fld (fuseDigest s d) (64 * (i - 17) + 63) (64 * (i - 17))
  else if off = 0xC8 then ilvWord x
  else if off < 0x1000 then 0
  else if off < 0x2000 then clkReg x (i - 0x200)
  else if off < 0x2100 then rgnWord (getRgn x (i - 0x400))
  else if off < 0x2178 then fld x.scrubMap (32 * (i - 0x420) + 31) (32 * (i - 0x420))
  else if off < 0x3000 then 0
  else if off < 0x3800 then linksReg x (i - 0x600)
  else if off < 0x4000 then
    let port := (off - 0x3800) / 0x80
    cntReg (getSet x (setChain port)) ((setOwner s d (setChain port)).any (confidential s)) 8 (off % 0x80 / 8)
  else if off < 0x5000 then elogReg x.elog (i - 0x800)
  else if off < 0x6000 then traceReg x.obs.trace (i - 0xA00)
  else if off < 0x10000 then 0
  else if off < 0x11000 then partReg s d ((off - 0x10000) / 0x100) (off % 0x100 / 8)
  else if off < 0x20000 then 0
  else if off < 0x20800 then bslotReg s d ((off - 0x20000) / 0x100) (off % 0x100 / 8)
  else if off < 0x30000 then 0
  else if off < 0x30800 then epochWord s d (i - 0x6000)
  else if off < 0x40000 then 0
  else if off < 0x50000 then elogWin x.elog (i - 0x8000)
  else if off < 0x100000 then 0
  else if off < 0x120000 then
    let p := getPeer x ((off - 0x100000) / 0x20)
    match off % 0x20 / 8 with
    | 0 => peerCfgWord p
    | 1 => p.farId.toNat + 2 ^ 32 * (if p.failed then 2 else if peerUp x ((off - 0x100000) / 0x20) then 1 else 0)
    | 2 => p.txNext.toNat + 2 ^ 32 * p.rxExpect.toNat
    | _ => 0
  else 0

/-- The block that holds the slot has its clock. -/
def blockOpen (x : Die) (off : Nat) : Bool :=
  if 0x3000 ≤ off ∧ off < 0x3800 then linksOpen x.clk ((off - 0x3000) / 8)
  else if 0x3800 ≤ off ∧ off < 0x4000 then bit x.clk.enCp.toNat ((off - 0x3800) / 0x200)
  else true

def blockClear (s : State) (d : DieId) (off : Nat) (w : RegW) : State :=
  if 0x3000 ≤ off ∧ off < 0x3800 then linksClear s d ((off - 0x3000) / 8) w
  else if 0x4000 ≤ off ∧ off < 0x4020 then modDie s d (fun x => { x with elog := elogClear x.elog ((off - 0x4000) / 8) w })
  else if off = 0x5028 ∧ w.low then modTrace s d (fun t => { t with lost := 0 })
  else s

def blockWrite (s : State) (agent : Nat) (d : DieId) (off : Nat) (w : RegW) : State × Bool :=
  let now := fun (t : State) => (t, true)
  let i := off / 8
  if off < 0x1000 then now s
  else if off < 0x2000 then now (clkRegWrite s d (i - 0x200) w)
  else if off < 0x2100 then
    now (if agent = 0 ∧ w.low then writeRgn s d (i - 0x400) (w.over 0) else s)
  else if off < 0x3000 then now s
  else if off < 0x3800 then now (linksWrite s d (i - 0x600) w)
  else if off < 0x4000 then now (modSet s d (setChain ((off - 0x3800) / 0x80)) (fun c => cntWrite c 8 (off % 0x80 / 8) w))
  else if off < 0x5000 then now (elogWrite s (some d) (i - 0x800) w)
  else if off < 0x6000 then now (traceRegWrite s d (i - 0xA00) w)
  else if off < 0x10000 then now s
  else if off < 0x11000 then partRegWrite s agent d ((off - 0x10000) / 0x100) (off % 0x100 / 8) w
  else if off < 0x100000 then now s
  else if off < 0x120000 then
    let n := (off - 0x100000) / 0x20
    match off % 0x20 / 8 with
    | 0 => now (writePeerCfg s d n w)
    | 1 => now (if w.low then writePeerId s d n w else s)
    | _ => now s
  else now s

/-! ### The window (Table 19.2) -/

/-- What an offset of the window names. -/
inductive WinAt where
  | block (off : Nat)
  | aperture (q off : Nat)
  | queue (q off : Nat)
  | group (g off : Nat)
  | station (kind place off : Nat)
  | mc (i off : Nat)
  | mcStack (j off : Nat)
  | mcDie (off : Nat)
  | cell (site off : Nat)
  | cells (sector : Bool) (mask off : Nat)
  | none
  deriving DecidableEq, Repr

def winAt (off : Nat) : WinAt :=
  if off < 0x1000000 then .block off
  else if off < 0x1040000 then .aperture ((off - 0x1000000) / 0x1000) (off % 0x1000)
  else if off < 0x1044000 then .queue ((off - 0x1040000) / 0x100) (off % 0x100)
  else if off < 0x2000000 then .none
  else if off < 0x2100000 then .group ((off - 0x2000000) / 0x10000) (off % 0x10000)
  else if off < 0x2200000 then .none
  else if off < 0x2380000 then .station ((off - 0x2200000) / 0x20000) (off % 0x20000 / 0x100) (off % 0x100)
  else if off < 0x8000000 then .none
  else if off < 0x8140000 then .mc ((off - 0x8000000) / 0x1000) (off % 0x1000)
  else if off < 0x8200000 then .none
  else if off < 0x820A000 then .mcStack ((off - 0x8200000) / 0x1000) (off % 0x1000)
  else if off < 0x8210000 then .none
  else if off < 0x8211000 then .mcDie (off % 0x1000)
  else if off < 0x10000000 then .none
  else if off < 0x11100000 then .cell ((off - 0x10000000) / 0x10000) (off % 0x10000)
  else if off < 0x100000000 then .none
  else if off < 0x200000000 then .cells false (off / 0x10000 % 0x10000) (off % 0x10000)
  else if off < 0x300000000 then .cells true (off / 0x10000 % 0x10000) (off % 0x10000)
  else .none

/-- The access finds a register block that answers: it exists, it has its clock, and its site is present (R374, R466, R473). -/
def winOpen (s : State) (d : DieId) (w : WinAt) : Bool :=
  let x := getDie s d
  match w with
  | .block off => blockOpen x off
  | .mc i _ => mcClocked x i
  | .cell site _ => sitePresent x site
  | .none => false
  | _ => true

/-- The sites that a mask aperture selects: present sites of the selected groups or sectors (R17, R477). -/
def maskSites (x : Die) (sector : Bool) (mask : Nat) : List Nat :=
  (List.range 272).filter (fun n => sitePresent x n && bit mask (if sector then sectorOf n else groupOf n))

/-- A write to every selected site; held effects carry the broadcast's number, so that one acknowledgement follows the last. -/
def maskWrite (s : State) (agent : Nat) (d : DieId) (sector : Bool) (mask off : Nat) (w : RegW) : State × Bool :=
  let tag := agent + 256 * (s.fresh + 1)
  let r := (maskSites (getDie s d) sector mask).foldl (fun a n =>
    let b := cellWrite a.1 tag { die := d, site := n } off w
    (b.1, a.2 && b.2)) (s, true)
  ({ r.1 with fresh := s.fresh + 1 }, r.2)

/-- The slot's 64 bits; broadcast apertures and command memory read as zero (R299, R345, R477). -/
def winWord (s : State) (d : DieId) (w : WinAt) : Nat :=
  let x := getDie s d
  match w with
  | .block off => blockWord s d (off / 8 * 8)
  | .queue q off => queueReg_ s d q (off / 8)
  | .group g off => if off < 8 then (getGate x g).memThr.toNat + 2 ^ 12 * (getGate x g).peerThr.toNat else 0
  | .station kind place off => stationReg s d kind place (off / 8)
  | .mc i off => mcRead (getMc x i) (off / 8 * 8)
  | .cell site off => cellWord s { die := d, site := site } (off / 8 * 8)
  | _ => 0

/-- A read clears the RC fields that it covers. -/
def winClear (s : State) (d : DieId) (w : WinAt) (r : RegW) : State :=
  match w with
  | .block off => blockClear s d (off / 8 * 8) r
  | .queue q off => if off / 8 = 4 ∧ r.low then modQueue s d q (fun x => { x with dropped := 0 }) else s
  | .station kind place off =>
    if kind = 5 ∧ place < 64 ∧ off / 8 = 18 then modLink s d place (fun k =>
      let k := if r.low then { k with stale := 0, misrouted := 0 } else k
      if bit r.mask 32 then { k with faulted := 0, discarded := 0 } else k)
    else s
  | .mc i off =>
    if off / 8 = 2 then modMc s d i (fun m =>
      let m := if r.low then { m with corrected := 0, odecc := 0 } else m
      if bit r.mask 32 then { m with uncorr := 0 } else m)
    else s
  | .cell site off => cellClear s { die := d, site := site } (off / 8 * 8) r
  | _ => s

/-- A write; false while its acknowledgement waits. `data` are the bytes of the access, which a queue aperture judges (R232). -/
def winWrite (s : State) (agent : Nat) (d : DieId) (w : WinAt) (r : RegW) (data : List Byte) : State × Bool :=
  match w with
  | .block off => blockWrite s agent d (off / 8 * 8) r
  | .aperture q off => (judgeWrite s d q off data, true)
  | .queue q off => (queueRegWrite s d q (off / 8) r, true)
  | .group g off =>
    if off < 4 ∧ r.low then
      let v := r.over 0
      (modGate s d g (fun x => { x with memThr := BitVec.ofNat 12 v, peerThr := BitVec.ofNat 16 (fld v 27 12) }), true)
    else (s, true)
  | .station kind place off => (stationRegWrite s d kind place (off / 8) r, true)
  | .mc i off => (modMc s d i (fun m => mcWrite m (off / 8 * 8) r), true)
  | .mcStack j off => (mcBroadcast s d (fun i => i / 32 == j) (off / 8 * 8) r, true)
  | .mcDie off => (mcBroadcast s d (fun _ => true) (off / 8 * 8) r, true)
  | .cell site off => cellWrite s agent { die := d, site := site } (off / 8 * 8) r
  | .cells sector mask off => maskWrite s agent d sector mask (off / 8 * 8) r
  | .none => (s, true)

/-- A register write through a mask aperture. -/
def execBroadcastWrite (agent : Nat) (d : DieId) (sector : Bool) (mask off size : Nat) (v : W64) (s : State) : Res :=
  if reachesDie s agent d && regSized off size && decide (off < 0x10000) && decide (mask < 0x10000) then
    let r := maskWrite s agent d sector mask (off / 8 * 8) (regW off size v.toNat)
    nx (if r.2 then emit r.1 (.ack agent) else r.1)
  else nx (emit s (.busError agent))

def execRdSeqWrite (agent : Nat) (log : Option DieId) (v : W32) (s : State) : Res :=
  answer (match log with
    | some d => reachesDie s agent d
    | none => reachesHost s agent) agent s (writeRdSeq s log v)

end Sys2Proof.Machine
end

