-- ==== Sys2Proof/Machine/HostRegs.lean ====
section
/-! DEFINITION. The host-die register block (Table 19.13): what each slot reads as, what a read clears and what a write does. -/

namespace Sys2Proof.Machine

/-! ### Identification and boot -/

/-- The registers at 0x0000: MOD_IDENT, MOD_SERIAL, PCIE_IDS, FUSE_ST, PF_WIN (Tables 19.6 to 19.9, 16.14). -/
def identReg (s : State) (i : Nat) : Nat :=
  let x := s.hd.ident
  match i with
  | 0 => x.grade.toNat + 2 ^ 8 * x.hdRev.toNat + 2 ^ 12 * x.cd0Rev.toNat + 2 ^ 16 * x.cd1Rev.toNat
  | 1 => x.serial.toNat
  | 2 => x.vendorId.toNat + 2 ^ 16 * 0x4D20 + 2 ^ 32 * 0x4D21 + 2 ^ 48 * x.hdRev.toNat
  | 3 => fuseStWord s
  | 4 => 2 ^ 16 * x.pfWin.toNat
  | _ => 0

/-- BOOT_ST (Table 15.2). -/
def bootStWord (b : HdBoot) : Nat :=
  b.stage.toNat + 2 ^ 4 * b.reason.toNat + 2 ^ 8 * b2n b.copy + 2 ^ 9 * b2n b.calBad + 2 ^ 10 * b2n b.bootDie + 2 ^ 11 * b.cause.toNat
    + 2 ^ 16 * b.degraded.toNat + 2 ^ 32 * b.count.toNat

/-- The registers at 0x1000: BOOT_ST, MOD_RST, PART_RST, CAL_CTL (Tables 15.2, 15.12, 15.13, 15.17). -/
def bootReg (b : HdBoot) (i : Nat) : Nat :=
  match i with
  | 0 => bootStWord b
  | 1 => 8 * b2n b.busyCd0 + 16 * b2n b.busyCd1 + 32 * b2n b.refused
  | 2 => b.prPart.toNat + 2 ^ 5 * b2n b.prBusy + 2 ^ 6 * b2n b.prDone
  | 3 => b2n b.calSave + 4 * b2n b.calBusy + 8 * b2n b.calDone + 16 * b.calResult.toNat + 2 ^ 12 * b.calSrc.toNat
  | _ => 0

/-- MOD_RST: a warm reset absorbs the die resets requested with it (R407). -/
def modRstWrite (s : State) (w : RegW) : State :=
  let s := modBoot s (fun b => { b with refused := w.clr 5 b.refused })
  if !resetServed s then s
  else if w.one 0 then warmReset s 1
  else
    let s := if w.one 1 then requestDieReset s .cd0 else s
    if w.one 2 then requestDieReset s .cd1 else s

/-- Writes at 0x1000, with the management partition's rights only. -/
def bootRegWrite (s : State) (i : Nat) (w : RegW) : State :=
  let v := w.over (bootReg s.hd.boot i)
  match i with
  | 1 => modRstWrite s w
  | 2 =>
    let s := modBoot s (fun b => { b with prPart := BitVec.ofNat 4 v, prDone := w.clr 6 b.prDone })
    if w.one 4 then startPartRst s s.hd.boot.prPart.toNat else s
  | 3 =>
    let s := modBoot s (fun b => { b with calSave := bit v 0, calDone := w.clr 3 b.calDone, calSrc := BitVec.ofNat 36 (fld v 47 12) })
    if w.one 1 then calCommit s else s
  | _ => s

/-! ### Security -/

/-- SEC_ST (Table 16.11). -/
def secStWord (c : SecChan) : Nat :=
  b2n c.busy + 2 * b2n c.done + 4 * b2n c.rejected + 2 ^ 8 * c.status.toNat + 2 ^ 32 * c.result.toNat

/-- The registers at 0x2000; DEBUG_NONCE reads as zero without the management partition's rights (R432; assumption 42). -/
def secReg (s : State) (agent i : Nat) : Nat :=
  if i < 6 then
    let c := getChan s (i / 3)
    match i % 3 with
    | 0 => 2 ^ 6 * c.arg.toNat
    | 1 => 0
    | _ => secStWord c
  else if i < 22 then partSecWord s (i - 6)
  else if i = 22 ∧ mgmtAgent agent then s.hd.sec.nonce.toNat
  else 0

def secRegWrite (s : State) (i : Nat) (w : RegW) : State :=
  let ch := i / 3
  if 6 ≤ i then s
  else match i % 3 with
    | 0 => modChan s ch (fun c => { c with arg := BitVec.ofNat 42 (fld (w.over (2 ^ 6 * c.arg.toNat)) 47 6) })
    | 1 => if w.low then startService s ch (fld (w.over 0) 7 0) none else s
    | _ => modChan s ch (fun c => { c with done := w.clr 1 c.done, rejected := w.clr 2 c.rejected })

/-! ### Clocks, power and time -/

/-- TB_SYNC (Table 14.18). -/
def tbSyncWord (t : HdTime) : Nat :=
  t.mode.toNat + 4 * b2n t.ref10m + 8 * b2n t.die + 2 ^ 4 * t.port.toNat + 2 ^ 8 * t.peer.toNat + 2 ^ 20 * t.delay.toNat

def clkEnHdWord (c : HdClk) : Nat := c.enHd.toNat

/-- The registers at 0x3000. -/
def hostClkReg (s : State) (i : Nat) : Nat :=
  let c := s.hd.clk
  match i with
  | 1 => c.src.toNat + 4 * b2n c.xtalGood + 8 * b2n c.xtalLost + 16 * b2n (!c.ramps.isEmpty)
  | 2 => clkEnHdWord c
  | 3 => b2n c.trimEn + 2 * c.trimRef.toNat + 2 ^ 4 * c.trimCode.toNat
  | 4 => b2n c.locked + 2 * b2n c.refLost + 2 ^ 16 * c.trimErr.toNat
  | 5 => c.modeCtl.toNat
  | 6 => pwrStWord c
  | 7 => thermWord c.maxT c.maxSensor c.throttle c.limit
  | 8 => s.hd.time.tb % 2 ^ 64
  | 9 => tbSyncWord s.hd.time
  | 10 => s.hd.time.ppsTod.toNat
  | 11 => tbStWord s.hd.time
  | _ => 0

/-- TB_SYNC: the first reference after a write of MODE steps the timebase, and the counts of R388 begin again (assumption 43). -/
def writeTbSync (t : HdTime) (w : RegW) : HdTime :=
  let v := w.over (tbSyncWord t)
  let t := { t with
    mode := BitVec.ofNat 2 v, ref10m := bit v 2, die := bit v 3, port := BitVec.ofNat 4 (fld v 7 4), peer := BitVec.ofNat 12 (fld v 19 8)
    delay := BitVec.ofNat 16 (fld v 35 20) }
  if w.low then { t with first := true, good := 0, bad := 0, lastRef := t.tb } else t

/-- Whether Y1 passes its test is outside the module: a register write of XTAL_RETRY takes a free value (assumption 20). -/
def retryFree (s : State) : State :=
  let r := drawFree s 1
  xtalRetry r.2 (r.1 == 1)

def hostClkWrite (s : State) (agent i : Nat) (w : RegW) : State :=
  let v := w.over (hostClkReg s i)
  match i with
  | 0 => if w.one 0 then retryFree s else s
  | 1 => modClk s (fun c => { c with xtalLost := w.clr 3 c.xtalLost })
  | 2 =>
    let v := if resetServed s then v else setFld v 23 0 (fld s.hd.clk.enHd.toNat 23 0)
    modClk s (fun c => { c with enHd := BitVec.ofNat 28 v })
  | 3 => modClk s (fun c => { c with trimEn := bit v 0, trimRef := BitVec.ofNat 2 (v / 2), trimCode := BitVec.ofNat 12 (fld v 15 4) })
  | 4 => modClk s (fun c => { c with refLost := w.clr 1 c.refLost })
  | 5 => if mgmtAgent agent ∧ w.low then writePwrCtl s v else s
  | 7 => modClk s (fun c => { c with limit := w.clr 13 c.limit })
  | 9 => modTime s (fun t => writeTbSync t w)
  | 10 => modTime s (fun t => { t with ppsTod := BitVec.ofNat 64 v })
  | 11 => modTime s (fun t => { t with stepped := w.clr 2 t.stepped })
  | _ => s

/-! ### The flash store -/

/-- FL_HEALTH (Table 12.10). -/
def healthWord (f : HdFlash) : Nat :=
  f.health.toNat + 2 ^ 4 * f.failedPkg.toNat + 2 ^ 20 * f.spareMin.toNat + 2 ^ 32 * f.peMax.toNat

/-- The registers at 0x4000. -/
def flashRegWord (f : HdFlash) (i : Nat) : Nat :=
  match i with
  | 0 => b2n f.fn.en + 2 * b2n f.irqEn + 2 ^ 8 * f.lateThr.toNat
  | 1 => fstateCode f.fn.st + 4 * b2n f.mapReady + 2 ^ 8 * (f.fn.status % 256)
  | 2 => 2 ^ 12 * f.mapBase.toNat
  | 3 => healthWord f
  | 4 => qseqWord f.q
  | 5 => f.q.free
  | 6 => f.q.dropped.toNat
  | 7 => qringWord f.q
  | 8 => qirqWord f.q
  | 9 => queueStByte { f.q with fn := f.fn } true
  | 10 => 0
  | _ => if i < 75 then (tabGet 0 f.ext (i - 11)).toNat else 0

def flashRegWrite (s : State) (agent i : Nat) (w : RegW) : State :=
  let v := w.over (flashRegWord s.hd.flash i)
  match i with
  | 0 => if w.low then writeFlCtl s v else s
  | 2 => modFlash s (fun f => { f with mapBase := BitVec.ofNat 28 (fld v 39 12) })
  | 7 => modFlash s (fun f => { f with q := qringWrite f.q w })
  | 8 => modFlash s (fun f => { f with q := qirqWrite f.q w })
  | 9 => headerAfter s .cd0 flQ (modFlash s (fun f => { f with q := { f.q with actIgnored := w.clr 6 f.q.actIgnored } }))
  | 10 => if w.low then queueAct s .cd0 flQ (fld (w.over 0) 1 0) else s
  | _ => if 11 ≤ i ∧ i < 75 ∧ agent = 0 then writeExt s (i - 11) (BitVec.ofNat 64 v) else s

/-! ### The block -/

/-- The flash store's registers need its clock (R374). -/
def hostOpen (s : State) (off : Nat) : Bool :=
  if (0x4000 ≤ off ∧ off < 0x5000) ∨ (0x10000 ≤ off ∧ off < 0x11000) then s.hd.clk.enHd.toNat.testBit 24 else true

/-- What the slot at an offset of the block holds, to an agent; command memory and broadcast apertures read as zero. -/
def hostWord (s : State) (agent off : Nat) : Nat :=
  let i := off / 8
  if off < 0x1000 then identReg s i
  else if off < 0x2000 then bootReg s.hd.boot (i - 0x200)
  else if off < 0x3000 then secReg s agent (i - 0x400)
  else if off < 0x4000 then hostClkReg s (i - 0x600)
  else if off < 0x5000 then flashRegWord s.hd.flash (i - 0x800)
  else if off < 0x20000 then 0
  else if off < 0x21000 then elogReg s.hd.elog (i - 0x4000)
  else if off < 0x30000 then 0
  else if off < 0x40000 then elogWin s.hd.elog (i - 0x6000)
  else 0

def hostClear (s : State) (off : Nat) (w : RegW) : State :=
  if off / 8 * 8 = 0x4030 ∧ w.low then modFlash s (fun f => { f with q := { f.q with dropped := 0 } })
  else if 0x20000 ≤ off ∧ off < 0x21000 then setLog s none (elogClear s.hd.elog ((off - 0x20000) / 8) w)
  else s

/-- A write; the registers at 0x1000 and 0x2000 take writes only with the management partition's rights. -/
def hostWrite_ (s : State) (agent off : Nat) (w : RegW) (data : List Byte) : State :=
  let i := off / 8
  if off < 0x1000 then
    if i = 4 then { s with hd := { s.hd with ident := { s.hd.ident with
      pfWin := BitVec.ofNat 32 (fld (w.over (identReg s 4)) 47 16) } } } else s
  else if off < 0x2000 then if mgmtAgent agent then bootRegWrite s (i - 0x200) w else s
  else if off < 0x3000 then if mgmtAgent agent then secRegWrite s (i - 0x400) w else s
  else if off < 0x4000 then hostClkWrite s agent (i - 0x600) w
  else if off < 0x5000 then flashRegWrite s agent (i - 0x800) w
  else if off < 0x10000 then s
  else if off < 0x11000 then judgeWrite s .cd0 flQ (off - 0x10000) data
  else if off < 0x20000 then s
  else if off < 0x21000 then elogWrite s none (i - 0x4000) w
  else if off < 0x40000 then s
  else if off < 0x41000 then mcBroadcast (mcBroadcast s .cd0 (fun _ => true) (off % 0x1000 / 8 * 8) w) .cd1 (fun _ => true) (off % 0x1000 / 8 * 8) w
  else s

end Sys2Proof.Machine
end

