-- ==== Sys2Proof/Machine/Regs.lean ====
section
/-! DEFINITION. The map of registers and memory as each agent sees it, and register accesses through it (R469 to R481). -/

namespace Sys2Proof.Machine

/-! ### The host physical map (Table 19.1) -/

/-- What an address leads to. -/
inductive Target where
  | hbm (hpa : Nat)
  | host (off : Nat)
  | imsic (off : Nat)
  | win (d : DieId) (off : Nat)
  /-- The mask aperture of a die-manager core, at an offset of the cell block, and its DM_BCAST register (R479). -/
  | dmCells (d : DieId) (core off : Nat)
  | dmBcast (d : DieId) (core off : Nat)
  /-- Memory private to die-manager firmware, or the PCIe memory window of the root role: outside the spec. -/
  | outside
  | none
  deriving DecidableEq, Repr

def hostBase : Nat := 0x010000000000
def imsicBase : Nat := 0x010100000000
def winBase : DieId → Nat
  | .cd0 => 0x020000000000
  | .cd1 => 0x020400000000
def winSize : Nat := 0x400000000

/-- A host physical address; `root` is the role with PCIE_ROLE 0. -/
def hostTarget (root : Bool) (pa : Nat) : Target :=
  if pa < 0x010000000000 then .hbm pa
  else if pa < hostBase + 0x1000000 then .host (pa - hostBase)
  else if pa < imsicBase then .none
  else if pa < imsicBase + 0x180000 then .imsic (pa - imsicBase)
  else if pa < winBase .cd0 then .none
  else if pa < winBase .cd0 + winSize then .win .cd0 (pa - winBase .cd0)
  else if pa < winBase .cd1 + winSize then .win .cd1 (pa - winBase .cd1)
  else if pa < 0x040000000000 then .none
  else if pa < 0x080000000000 ∧ root then .outside
  else .none

/-- BAR0 of the physical function: the host-die block, then the window at PF_WIN, onto compute-die windows only (R480). -/
def pfTarget (s : State) (addr : Nat) : Target :=
  if addr < 0x1000000 then .host addr
  else if addr < 0x4000000 then
    match hostTarget false (s.hd.ident.pfWin.toNat * 65536 + (addr - 0x1000000)) with
    | .win d off => .win d off
    | _ => .none
  else .none

/-- BAR0 of a virtual function: apertures and registers of its partition's queues (R366, R480). -/
def vfTarget (s : State) (p addr : Nat) : Target :=
  let d := dieOfNum (addr / 0x80000)
  let off := 0x1000000 + addr % 0x80000
  if 0x100000 ≤ addr ∨ !vfServed s p then .none
  else match winAt off with
    | .aperture q _ => if ownerQueue s d q = some p then .win d off else .none
    | .queue q _ => if ownerQueue s d q = some p then .win d off else .none
    | _ => .none

/-- Die-local addresses of a die-manager core (R479). -/
def dmTarget (d : DieId) (core addr : Nat) : Target :=
  if addr < 0x20000000 then .win d addr
  else if addr < 0x20010000 then .dmCells d core (addr % 0x10000)
  else if addr < 0x20010008 then .dmBcast d core (addr % 8)
  else if 0x80000000 ≤ addr ∧ addr < 0x100000000 then .outside
  else .none

/-- What an address means to an agent (R476, R479, R480): JTAG and reserved numbers reach nothing. -/
def target (s : State) (a addr : Nat) : Target :=
  if !agentRuns s a then .none
  else if 0x50 ≤ a ∧ a < 0x58 then dmTarget (dieOfNum ((a - 0x50) / 4)) (a % 4) addr
  else match vfOf a with
    | some p => if s.hd.power.role then vfTarget s p addr else .none
    | none =>
      if a = 0x20 ∧ s.hd.power.role then pfTarget s addr
      else if hostAgent a then hostTarget (!s.hd.power.role) addr
      else .none

/-- The agent's side of the access reaches the die: die managers their own, the others over UCIe (R374, R405). -/
def reachesWin (s : State) (a : Nat) (d : DieId) : Bool := if dmAgent d a then (getDie s d).clk.running else hostReaches s d

/-! ### IMSIC interrupt files -/

/-- A 32-bit write of seteipnum_le at the start of an interrupt file's page makes an identity pending (PRESUMED from the RISC-V
Advanced Interrupt Architecture, assumption 44). -/
def imsicWrite (s : State) (off size v : Nat) : State :=
  let pa := imsicBase + off
  if off % 4096 = 0 ∧ size = 4 then
    if s.imsic.contains (pa, v % 2 ^ 32) then s else { s with imsic := (pa, v % 2 ^ 32) :: s.imsic }
  else s

/-! ### Reads and writes of 4 or 8 bytes -/

/-- What a register access gives its agent. -/
inductive RegR where
  /-- The value read, or a write that is acknowledged. -/
  | ok (v : Nat)
  /-- An access that waits, with its answer. -/
  | wait
  | bus
  | uncorr
  deriving DecidableEq, Repr

/-- The cell, and the offset in its block, where accesses wait that a read must follow (R17, R472). -/
def waitingCell (s : State) (d : DieId) (w : WinAt) : Option (CellLoc × Nat) :=
  match w with
  | .cell site off => if cellHeld s { die := d, site := site } then some ({ die := d, site := site }, off) else none
  | _ => none

/-- CLK_EN_CD, whose reads never return a bus error (R374). -/
def clkEnAt (off : Nat) : Bool := off / 8 == 0x200

/-- A read at what an address leads to; RC fields that it covers are cleared (R9). -/
def readAt (s : State) (a : Nat) (t : Target) (size : Nat) : RegR × State :=
  match t with
  | .host off =>
    if regSized off size && s.hd.power.hostRails && hostOpen s off then
      (.ok (regPart off size (hostWord s a off)), hostClear s off (regW off size 0))
    else (.bus, s)
  | .win d off =>
    if regSized off size && clkEnAt off && hostAgent a then (.ok (regPart off size (winWord s d (winAt off))), s)
    else if regSized off size && reachesWin s a d && winOpen s d (winAt off) then
      match waitingCell s d (winAt off) with
      | some (c, i) => (.wait, holdAccess s c { agent := a, write := false, off := i, size := size })
      | none => (.ok (regPart off size (winWord s d (winAt off))), winClear s d (winAt off) (regW off size 0))
    else (.bus, s)
  | .dmCells d _ off => if regSized off size && reachesWin s a d then (.ok 0, s) else (.bus, s)
  | .dmBcast d core off =>
    if regSized off size && reachesWin s a d then (.ok (regPart off size (tabGet 0 (getDie s d).dmBcast core).toNat), s) else (.bus, s)
  | .imsic off => if regSized off size && s.hd.power.hostRails then (.ok 0, s) else (.bus, s)
  | .hbm hpa =>
    match hostRead s hpa size with
    | (.ok bs, s1) => (.ok (leNat bs), s1)
    | (.bus, s1) => (.bus, s1)
    | (.uncorr, s1) => (.uncorr, s1)
  | .outside =>
    let r := drawFree s (8 * size)
    (.ok r.1, r.2)
  | .none => (.bus, s)

/-- A write at what an address leads to. -/
def writeAt (s : State) (a : Nat) (t : Target) (size v : Nat) : RegR × State :=
  let bytes := leBytes size v
  let done := fun (r : State × Bool) => (if r.2 then RegR.ok 0 else .wait, r.1)
  match t with
  | .host off =>
    if regSized off size && s.hd.power.hostRails && hostOpen s off then (.ok 0, hostWrite_ s a off (regW off size v) bytes) else (.bus, s)
  | .win d off =>
    if regSized off size && reachesWin s a d && winOpen s d (winAt off) then done (winWrite s a d (winAt off) (regW off size v) bytes)
    else (.bus, s)
  | .dmCells d core off =>
    if regSized off size && reachesWin s a d then
      let m := (tabGet 0 (getDie s d).dmBcast core).toNat
      done (maskWrite s a d (bit m 16) (m % 65536) (off / 8 * 8) (regW off size v))
    else (.bus, s)
  | .dmBcast d core off =>
    if regSized off size && reachesWin s a d then
      let w := (regW off size v).over (tabGet 0 (getDie s d).dmBcast core).toNat;
      (.ok 0, modDie s d (fun x => { x with dmBcast := tabSet 0 x.dmBcast core (BitVec.ofNat 17 w) }))
    else (.bus, s)
  | .imsic off => if regSized off size && s.hd.power.hostRails then (.ok 0, imsicWrite s off size v) else (.bus, s)
  | .hbm hpa =>
    match hostWrite s hpa bytes with
    | (.ok _, s1) => (.ok 0, s1)
    | (.bus, s1) => (.bus, s1)
    | (.uncorr, s1) => (.uncorr, s1)
  | .outside => (.ok 0, s)
  | .none => (.bus, s)

/-- An access of another size than 4 or 8 bytes is a bus error (R472). -/
def regRead (s : State) (a addr size : Nat) : RegR × State :=
  if size = 4 ∨ size = 8 then readAt s a (target s a addr) size else (.bus, s)
def regWrite (s : State) (a addr size v : Nat) : RegR × State :=
  if size = 4 ∨ size = 8 then writeAt s a (target s a addr) size v else (.bus, s)

/-! ### Command memory (R345) -/

/-- A queue aperture or FL_CMD at a host physical address: its queue, or 64 for FL_CMD, and the offset in it. -/
def commandMem (pa : Nat) : Option (DieId × Nat × Nat) :=
  match hostTarget false pa with
  | .host off => if 0x10000 ≤ off ∧ off < 0x11000 then some (.cd0, flQ, off - 0x10000) else none
  | .win d off => match winAt off with
    | .aperture q o => some (d, q, o)
    | _ => none
  | _ => none

/-- The buffer's bytes reach the aperture as one write. -/
def sendGather (s : State) (core pa : Nat) (bs : List Byte) : State :=
  let a := core + 1
  match commandMem pa with
  | none => s
  | some (d, q, off) =>
    if (if q = flQ then reachesFlash s a else reachesDie s a d) then judgeWrite s d q off bs else emit s (.busError a)

def getGather (s : State) (core : Nat) : Gather := tabGet {} s.hd.link.gather core
def setGather (s : State) (core : Nat) (g : Gather) : State :=
  { s with hd := { s.hd with link := { s.hd.link with gather := tabSet {} s.hd.link.gather core g } } }

/-- The bytes written into a buffer, lowest first. -/
def gatherBytes (g : Gather) : List Byte := ((leBytes 64 g.data).zipIdx.filter (fun p => bit g.mask p.2)).map Prod.fst

/-- The buffer is sent as it stands, and emptied. -/
def flushGather (s : State) (core : Nat) : State :=
  let g := getGather s core
  match g.block with
  | none => s
  | some b => sendGather (setGather s core {}) core (b + ((bitsSet 64 g.mask).headD 0)) (gatherBytes g)

/-- One byte of a store; the 64th byte sends the block as a CMD_WR. -/
def gatherByte (s : State) (core pa : Nat) (v : Byte) : State :=
  let blk := pa / 64 * 64
  let s := if (getGather s core).block.any (fun b => b != blk) then flushGather s core else s
  let g := getGather s core
  let i := pa % 64
  let g' : Gather := { block := some blk, mask := setFld g.mask i i 1, data := setFld g.data (8 * i + 7) (8 * i) v.toNat }
  if g'.mask = 2 ^ 64 - 1 then sendGather (setGather s core {}) core blk (leBytes 64 g'.data) else setGather s core g'

/-- A store of bytes by an application core. -/
def gatherStore (s : State) (core addr : Nat) (bs : List Byte) : State :=
  (bs.zipIdx).foldl (fun s p => gatherByte s core (addr + p.2) p.1) s

def execCommandMemoryStore (core : Nat) (st : CoreStore) (s : State) : Res :=
  if !coreRuns s core then nx s
  else match st with
    | .fence => nx (flushGather s core)
    | .store addr bs =>
      if bs.isEmpty || !((List.range bs.length).all (fun i => (commandMem (addr + i)).isSome)) then nx (emit s (.busError (core + 1)))
      else nx (gatherStore s core addr bs)

/-- The dies whose HBM an access reaches through the host window. -/
def targetDies : Target → List DieId
  | .hbm hpa => [hpaDie hpa]
  | _ => []

/-! ### The three register commands -/

/-- The answer to a read. -/
def answerRead (a : Nat) (r : RegR × State) : State :=
  match r.1 with
  | .ok v => emit r.2 (.readData a (BitVec.ofNat 64 v))
  | .wait => r.2
  | .bus => emit r.2 (.busError a)
  | .uncorr => emit r.2 (.uncorr a)

/-- The answer to a write. -/
def answerWrite (a : Nat) (r : RegR × State) : State :=
  match r.1 with
  | .ok _ => emit r.2 (.ack a)
  | .wait => r.2
  | .bus => emit r.2 (.busError a)
  | .uncorr => emit r.2 (.uncorr a)

/-- A load by an application core that lies wholly in command memory: zeros, of whatever size (R345). -/
def commandLoad (agent addr size : Nat) : Bool :=
  decide (1 ≤ agent) && decide (agent ≤ 0x18) && decide (0 < size) && (List.range size).all (fun i => (commandMem (addr + i)).isSome)

/-- A read of a register; it clears the RC fields that it returns, and any other read has no effect (R9, R473). -/
def execReadClear (agent addr size : Nat) (s : State) : Res :=
  if commandLoad agent addr size then
    nx (emit s (if size ≤ 8 then .readData agent 0 else .memData agent (List.replicate size 0)))
  else nx (holdAt s (targetDies (target s agent addr)) (.readClear agent addr size) (answerRead agent (regRead s agent addr size)))

/-- A write of a register under its access codes (R9); an application core's store to command memory fills its buffer. -/
def execRegisterWrite (agent addr size : Nat) (v : W64) (s : State) : Res :=
  if decide (1 ≤ agent) && decide (agent ≤ 0x18) && (commandMem addr).isSome && regSized addr size then
    nx (if coreRuns s (agent - 1) then gatherStore s (agent - 1) addr (leBytes size v.toNat) else s)
  else nx (holdAt s (targetDies (target s agent addr)) (.registerWrite agent addr size v) (answerWrite agent (regWrite s agent addr size v.toNat)))

end Sys2Proof.Machine
end

