-- ==== Sys2Proof/Machine/HostLinks.lean ====
section
/-! DEFINITION. UCIe transactions, PCIe accesses, the management bus and the TAPs (R343, R366 to R369, R384, R398, R413, R489). -/

namespace Sys2Proof.Machine

/-! ### UCIe (R343, Tables 13.2, 13.3) -/

/-- A transfer of 1 to 256 bytes within one 256-byte line. -/
def inLine (addr len : Nat) : Bool := decide (1 ≤ len) && decide (addr % 256 + len ≤ 256)

/-- A completion leaves a die. -/
def complete (s : State) (d : DieId) (tag status : Nat) (data : List Byte) : State := emit s (.cpl (dieNum d) tag status data)

/-- The queue aperture of a die at an address. -/
def apertureAt (d : DieId) (addr : Nat) : Option (Nat × Nat) :=
  match commandMem addr with
  | some (e, q, off) => if e = d ∧ q ≠ flQ then some (q, off) else none
  | none => none

/-- A read of HBM of the die, whose check symbols show what the read says; it waits while the die's controllers change their rate
(R300). -/
def readMem (s : State) (d : DieId) (agent tag addr : Nat) (rd : MemRead) : State :=
  holdAt s [d] (.memRd d agent tag addr rd) (match hostRead (eccUnits s (units32 addr rd.len) rd.ecc) addr rd.len with
    | (.ok bs, s1) => complete s1 d tag 0 bs
    | (.bus, s1) => complete s1 d tag 1 []
    | (.uncorr, s1) => complete s1 d tag 2 [])

/-- A read of memory. A read of a queue aperture returns zeros (R232); what is neither that nor HBM of the die is a bus error. -/
def execMemRd (d : DieId) (agent tag addr : Nat) (rd : MemRead) (s : State) : Res :=
  if !inLine addr rd.len then nx s
  else match apertureAt d addr with
    | some (q, _) =>
      if reachesQueue s agent d q then nx (complete s d tag 0 (List.replicate rd.len 0)) else nx (complete s d tag 1 [])
    | none =>
      if 2 ^ 40 ≤ addr ∨ hpaDie addr ≠ d ∨ !hostAgent agent || !hostOk s addr rd.len then nx (complete s d tag 1 [])
      else nx (readMem s d agent tag addr rd)

/-- A posted write: into HBM of the die, or into an aperture, where one of 64 bytes that is aligned is one command (R232). -/
def execMemWr (d : DieId) (agent addr : Nat) (data : List Byte) (s : State) : Res :=
  if !inLine addr data.length then nx s
  else match apertureAt d addr with
    | some (q, off) => if reachesQueue s agent d q then nx (judgeWrite s d q off data) else nx s
    | none => if 2 ^ 40 ≤ addr ∨ hpaDie addr ≠ d ∨ !hostAgent agent then nx s
      else nx (holdAt s [d] (.memWr d agent addr data) (hostWrite s addr data).2)

/-- A posted command write of 64 bytes. -/
def execCmdWr (d : DieId) (agent addr : Nat) (data : List Byte) (s : State) : Res :=
  match apertureAt d addr with
  | some (q, off) => if reachesQueue s agent d q then nx (judgeWrite s d q off data) else nx s
  | none => nx s

/-- The window of a die at a header's address, which is in the host physical map whatever the agent. -/
def dieTarget (s : State) (d : DieId) (agent addr : Nat) : Target :=
  match hostTarget false addr with
  | .win e off =>
    if e ≠ d then .none
    else match vfOf agent with
      | none => if hostAgent agent then .win d off else .none
      | some p => match winAt off with
        | .aperture q _ => if vfServed s p && ownerQueue s d q = some p then .win d off else .none
        | .queue q _ => if vfServed s p && ownerQueue s d q = some p then .win d off else .none
        | _ => .none
  | _ => .none

/-- STATUS of a completion. -/
def cplStatus : RegR → Nat
  | .ok _ => 0
  | .wait => 0
  | .bus => 1
  | .uncorr => 2

/-- The accesses that wait at cells of the die since `s` carry the tag of their transaction. -/
def tagHeld (s t : State) (d : DieId) (tag : Nat) : State :=
  (List.range 272).foldl (fun t n =>
    let c : CellLoc := { die := d, site := n }
    let k := (getCell s c).m.access.length
    if (getCell t c).m.access.length ≤ k then t
    else modM t c (fun m => { m with access := m.access.take k ++ (m.access.drop k).map (fun a => { a with tag := some tag }) })) t

/-- A register read; one that waits behind others completes when it is served. -/
def execRegRd (d : DieId) (agent tag addr size : Nat) (s : State) : Res :=
  let r := if size = 4 ∨ size = 8 then readAt s agent (dieTarget s d agent addr) size else (.bus, s)
  nx (if r.1 = .wait then tagHeld s r.2 d tag else complete r.2 d tag (cplStatus r.1) (match r.1 with
    | .ok v => leBytes size v
    | _ => []))

/-- A register write; one whose effect is held completes when it is applied. -/
def execRegWr (d : DieId) (agent tag addr size : Nat) (v : W64) (s : State) : Res :=
  let r := if size = 4 ∨ size = 8 then writeAt s agent (dieTarget s d agent addr) size v.toNat else (.bus, s)
  nx (if r.1 = .wait then tagHeld s r.2 d tag else complete r.2 d tag (cplStatus r.1) [])

/-- A completion is handed to the agent that its tag pairs it with. -/
def execCpl (d : DieId) (tag status : Nat) (data : List Byte) (s : State) : Res := nx (complete s d tag status data)

/-- A message interrupt write from a compute die to the IMSIC. -/
def execMsgIrq (d : DieId) (addr eiid : Nat) (s : State) : Res := if hostReaches s d then nx (sendIrq s addr eiid) else nx s

/-! ### PCIe (R366, R489) -/

/-- The endpoint's port is up for its virtual function: the partition exists and is not being scrubbed (R366, R427). -/
def vfEnabled (s : State) (vf : Nat) : Bool :=
  s.hd.power.role && pcieRuns s && decide (vf < 16) && vfServed s vf

/-- The controller's record of a BAR2 access that meets an uncorrectable access (R296). -/
def vfUncorr (s : State) (vf va n k : Nat) (write : Bool) : State :=
  match uncorrAt s .cd0 [] vf va n write with
  | some h => if k = kUncorr then recHostUncorr s (some vf) h 1 write else s
  | none => s

/-- BAR2: partition virtual addresses below 64 GiB, through PT_ROOT of CD0; a fault is Completer Abort. -/
def execBar2Access (vf va : Nat) (acc : Bar2) (s : State) : Res :=
  let a := 0x21 + vf
  let n := match acc with
    | .read rd => rd.len
    | .write data => data.length
  let wait := fun (t : State) => { t with held := t.held ++ [(none, .bar2 vf va acc)] }
  if !vfEnabled s vf || !hostReaches s .cd0 || decide (2 ^ 36 < va + n) then nx (emit s (.busError a))
  else match acc with
    | .read rd => nx (holdAt s (rangeDies s .cd0 [] vf va n false) (.bar2 vf va acc) (
      let us := rangeUnits s .cd0 [] vf va n
      let s1 := touchUnits (eccUnits s us rd.ecc) us
      match readVA s1 .cd0 [] vf va n with
      | .ok bs => emit (dropAnswers s1 .cd0) (.memData a bs)
      | .fault k => emit (dropAnswers (vfUncorr s1 vf va n k false) .cd0) (.busError a)
      | .ask r => wait (askPeers s .cd0 vf r)))
    | .write data => nx (holdAt s (rangeDies s .cd0 [] vf va n true) (.bar2 vf va acc) (match writeVA s .cd0 [] vf va data with
      | .ok s1 => activatePart (dropAnswers s1 .cd0) vf
      | .fault k => emit (dropAnswers (vfUncorr s vf va n k true) .cd0) (.busError a)
      | .ask r => wait (askPeers s .cd0 vf r)))

def modHlink (s : State) (f : HdLink → HdLink) : State := { s with hd := { s.hd with link := f s.hd.link } }

/-- The PCIe link trains, or is down. -/
def pcieTrained (l : HdLink) (on : Bool) (width speed : Nat) : HdLink :=
  { l with pcieTraining := on, pcieWidth := if on then width else 0, pcieSpeed := if on then speed else 0 }

/-- PERST_N: an input of the endpoint, where the port trains while it is high; an output of the root port, which the module
holds low until the PCIe controller runs (R489). The training gives the link's width and speed (R23). -/
def execPerstN (p : PcieReset) (s : State) : Res :=
  let go := s.hd.power.hostRails && s.hd.clk.enHd.toNat.testBit 25
  if s.hd.power.role then
    nx (modHlink (modPower s (fun x => { x with perstN := p.level })) (fun l => pcieTrained l (p.level && go) p.width p.speed))
  else if p.level == go then
    nx (emit (modHlink (modPower s (fun x => { x with perstN := p.level })) (fun l => pcieTrained l p.level p.width p.speed)) (.pin "PERST_N" p.level))
  else nx s

/-! ### Management requests (R367, R368, R397; statuses as assumption 45 numbers them) -/

def ifNum : MgmtIf → Nat
  | .smbus => 0
  | .vdm => 1

/-- The agent number of register accesses over the interface (Table 19.4). -/
def ifAgent (f : MgmtIf) : Nat := 0x38 + ifNum f

def mgOk : Nat := 0
def mgUnsupported : Nat := 1
def mgBusy : Nat := 2
def mgNoService : Nat := 3
def mgBusError : Nat := 4

/-- The answer to a message, to its requester: the flags byte carries the status, and its CRC-16 covers the Holtuth header and the body
(R364, R367; assumption 45). -/
def respond_ (s : State) (m : MgmtMsg) (code status : Nat) (body : List Byte) : State :=
  emit s (.mgmt (ifNum m.iface) code status body
    (mgmtCheck m.src m.tag (Config.holtuthHeader ++ leBytes 1 code ++ leBytes 1 status ++ body)))

/-- The interface carries requests: the host die has power, and for VDM the PCIe controller its clock. -/
def mgmtUp (s : State) (f : MgmtIf) : Bool :=
  s.hd.power.hostRails && match f with
    | .smbus => true
    | .vdm => s.hd.clk.enHd.toNat.testBit 25

/-- The CRC-16 that a message of a command carries when it came through whole (R364, R367). -/
def msgCheck (s : State) (m : MgmtMsg) (code : Nat) (body : List Byte) : Nat :=
  mgmtCheck s.hd.link.eid.toNat m.tag (Config.holtuthHeader ++ leBytes 1 code ++ leBytes 1 m.flags ++ body)

/-- A request has come in whole; a message that fails its check is dropped (R367). -/
def mgmtIn (s : State) (m : MgmtMsg) (code : Nat) (body : List Byte) : Bool := mgmtUp s m.iface && m.check == msgCheck s m code body

/-- A request that the security core serves from stage SEC_FW on; in NO_SERVICE only where `always` says so (R397). -/
def serve (s : State) (m : MgmtMsg) (code : Nat) (body : List Byte) (always : Bool) (act : State → State) : State :=
  let b := s.hd.boot
  if !mgmtIn s m code body || decide (b.stage.toNat < 3) then s
  else if b.stage = 0xF then
    if b.reason = 1 then s else if always then act s else respond_ s m code mgNoService []
  else act s

/-- The body of GET_STATUS (Table 15.6). -/
def statusBody (s : State) : List Byte :=
  let floor := (List.range 16).foldl (fun n p => n + 2 ^ p * b2n ((getPart s.cd0 p).active.isSome || (getPart s.cd1 p).active.isSome)) 0
  leBytes 8 (bootStWord s.hd.boot) ++ leBytes 2 floor ++ leBytes 2 0 ++ leBytes 4 (healthWord s.hd.flash) ++ leBytes 8 s.hd.time.tb

/-- GET_STATUS answers in every stage, from the boot ROM too (R398). -/
def execGetStatus (m : MgmtMsg) (s : State) : Res := if mgmtIn s m 1 [] then nx (respond_ s m 1 mgOk (statusBody s)) else nx s

/-- The answer of REG_READ and REG_WRITE (R474, R481). -/
def regAnswer (m : MgmtMsg) (code : Nat) (body : Nat → List Byte) (r : RegR × State) : State :=
  match r.1 with
  | .ok v => respond_ r.2 m code mgOk (body v)
  | .wait => respond_ r.2 m code mgBusy []
  | _ => respond_ r.2 m code mgBusError []

def execRegRead (m : MgmtMsg) (addr : Nat) (s : State) : Res :=
  nx (serve s m 2 (leBytes 8 addr) (addr == hostBase + 0x1000)
    (fun s => holdAt s (targetDies (target s (ifAgent m.iface) addr)) (.regRead m addr)
      (regAnswer m 2 (leBytes 8) (regRead s (ifAgent m.iface) addr 8))))

def execRegWrite (m : MgmtMsg) (addr : Nat) (v : W64) (s : State) : Res :=
  nx (serve s m 3 (leBytes 8 addr ++ leBytes 8 v.toNat) false
    (fun s => holdAt s (targetDies (target s (ifAgent m.iface) addr)) (.regWrite m addr v)
      (regAnswer m 3 (fun _ => []) (regWrite s (ifAgent m.iface) addr 8 v.toNat))))

/-- TELEMETRY returns the block as last refreshed (R384). -/
def execTelemetry (m : MgmtMsg) (s : State) : Res :=
  nx (serve s m 4 [] true (fun s => respond_ s m 4 mgOk (tabRead 0 s.hd.clk.telemetry 0 64)))

/-- A security service over the management bus: BUSY until its result is there. -/
def serveSecure (s : State) (m : MgmtMsg) (code ch op : Nat) (b : List Byte) (off : Nat) : State :=
  match mgmtService s ch op b off with
  | (some r, t) => respond_ t m code mgOk r
  | (none, t) => respond_ t m code mgBusy []

/-- FW_UPDATE: a firmware service on channel 0 (R420). -/
def execFwUpdate (m : MgmtMsg) (arg : Nat) (r : FwReq) (s : State) : Res :=
  nx (serve s m 6 (leBytes 128 arg ++ leBytes 1 r.op ++ leBytes 4 r.off) false (fun s => serveSecure s m 6 0 r.op (leBytes 128 arg) r.off))

/-- LENGTH of the set and up to 48 bytes of it, in every stage (R413). -/
def execCalExport (m : MgmtMsg) (off : Nat) (r : CalRead) (s : State) : Res :=
  if mgmtIn s m 7 (leBytes 4 off) then
    let s := readBoot s r.failed calBase 0x10000
    let set := (calSelected s).getD []
    nx (respond_ s m 7 mgOk (leBytes 4 set.length ++ (set.drop off).take (min r.len 48)))
  else nx s

/-- A command code that has no row of its own: 0x05 is ATTEST, whose body is the argument block and OFFSET (R420), and those outside
Table 13.19 are UNSUPPORTED. -/
def execUnsupportedCommand (m : MgmtMsg) (c : UnknownCmd) (s : State) : Res :=
  if c.code = 5 then
    nx (if c.body.length = 132 then
      serve s m 5 c.body false (fun s => serveSecure s m 5 1 4 (c.body.take 128) (leNat (c.body.drop 128)))
    else s)
  else if 1 ≤ c.code ∧ c.code ≤ 7 then nx s
  else nx (serve s m c.code c.body false (fun s => respond_ s m c.code mgUnsupported []))

/-- Set Endpoint ID of MCTP (R367). -/
def execSetEndpointId (eid : Nat) (s : State) : Res :=
  if s.hd.power.hostRails then nx (modHlink s (fun l => { l with eid := BitVec.ofNat 8 eid })) else nx s

/-! ### TAPs (R369) -/

/-- The TAP of HD (0), CD0 (1) or CD1 (2) runs: TRST_N is high and its die has power. -/
def tapUp (s : State) (tap : Nat) : Bool :=
  decide (tap < 3) && s.hd.power.trstN && if tap = 0 then s.hd.power.hostRails else s.hd.power.computeRails

/-- The instruction register takes a code. -/
def setIr (s : State) (tap code : Nat) : State := modHlink s (fun l => { l with ir := tabSet 1 l.ir tap (BitVec.ofNat 8 code) })

/-- The identification register (Table 13.20). -/
def idcodeOf (s : State) (tap : Nat) : Nat :=
  let x := s.hd.ident
  let rev := match tap with
    | 0 => x.hdRev
    | 1 => x.cd0Rev
    | _ => x.cd1Rev
  1 + 2 * (Config.jedecCode % 2 ^ 11) + 2 ^ 12 * (if tap = 0 then 0x4D48 else 0x4D43) + 2 ^ 28 * rev.toNat

def execIdcode (tap : Nat) (s : State) : Res := if tapUp s tap then nx (emit (setIr s tap 1) (.tap tap (idcodeOf s tap))) else nx s

/-- The boundary cells are those of J_MGT, on the host die's TAP: they sample its pins and take new values. -/
def execSamplePreload (tap pins preload : Nat) (s : State) : Res :=
  if !tapUp s tap then nx s
  else if tap = 0 then
    nx (emit (modHlink (setIr s tap 2) (fun l => { l with boundary := BitVec.ofNat 8 pins, boundaryOut := BitVec.ofNat 8 preload }))
      (.tap tap (pins % 256)))
  else nx (setIr s tap 2)

/-- The preloaded values drive the J_MGT signals. -/
def driveCells (s : State) (tap code : Nat) : State :=
  let s := setIr s tap code
  if tap = 0 then emit s (.tap tap s.hd.link.boundaryOut.toNat) else s

def execExtest (tap : Nat) (s : State) : Res := if tapUp s tap then nx (driveCells s tap 3) else nx s
def execClamp (tap : Nat) (s : State) : Res := if tapUp s tap then nx (driveCells s tap 4) else nx s
def execHighz (tap : Nat) (s : State) : Res := if tapUp s tap then nx (setIr s tap 5) else nx s

/-- Codes 0xFF and all that Table 13.20 does not list. -/
def isBypass (code : Nat) : Bool := decide (code < 256) && !(decide (1 ≤ code) && decide (code ≤ 5)) && !(decide (0x10 ≤ code) && decide (code ≤ 0x1F))

def execBypass (tap code : Nat) (s : State) : Res := if tapUp s tap && isBypass code then nx (setIr s tap code) else nx s

/-- The TAP is that of a compute die that holds units of a confidential partition. -/
def tapConfidential (s : State) (tap : Nat) : Bool :=
  tap != 0 && (List.range 16).any (fun p => confidential s p && holdsUnits s p (dieOfNum (tap - 1)))

/-- Holtuth debug acts as BYPASS unless a token's scope names the TAP (R369), and on a confidential partition's units in any case
(R431; assumption 64); what it does else the spec does not say. -/
def execHoltuthDebug (tap code : Nat) (s : State) : Res :=
  if !tapUp s tap || decide (code < 0x10) || decide (0x1F < code) then nx s
  else if s.hd.sec.debugScope.toNat.testBit tap && !tapConfidential s tap then .refused .debugUnspecified
  else nx (setIr s tap code)

/-- TRST_N is asserted, or the TAPs are reset with TRST_N high: each selects IDCODE. -/
def execTapReset (trst : Bool) (s : State) : Res :=
  nx (modHlink (modPower s (fun p => { p with trstN := !trst })) (fun l => { l with ir := [] }))

end Sys2Proof.Machine
end

