-- ==== Sys2Proof/Machine/Taps.lean ====
section
/-! DEFINITION. The Taps of a die: which record a source has to emit now, with its DATA, and which records reach the trace unit
(R442, R443, R447, R448). -/

namespace Sys2Proof.Machine

/-! ### Stall reasons (R442, R443, Table 17.5) -/

/-- The reasons that a beat of an engine may carry now: its task takes no step under a duty or behind a change of rate, behind a
spill or a read of one of its tiles, or for want of an operand. -/
def engineStalls (s : State) (c : CellLoc) (eng : Nat) : List Nat :=
  let x := getCell s c
  match curTask x eng with
  | some (_, t, _) =>
    let duty := if dutyNow (getDie s c.die).clk < 15 then [7] else []
    if t.needSpill then 3 :: duty
    else if !stepping t then []
    else if operandsHeld x (getEngine x.m eng) t then duty
    else if hbmStopped (getDie s c.die) then [7] else 0 :: duty
  | none => if x.m.ops.any (fun o => wantsRead x o (2 * eng) || wantsRead x o (2 * eng + 1)) then [3] else []

/-- The reason for which a stream holds its instruction. -/
def streamHold : Wait → Option Nat
  | .none => none
  | .queueEmpty => some 1
  | .memoryLate => some 4
  | _ => some 2

/-! ### DATA of the records (Table 17.9) -/

/-- TASK_BEGIN and TASK_END of the task that an engine runs: OPA byte offset, AN, context and K; at its end the steps taken. -/
def taskData (s : State) (c : CellLoc) (eng : Nat) (atEnd : Bool) : Option Nat :=
  let x := getCell s c
  (curTask x eng).bind (fun p =>
    let o := p.1
    let t := p.2.1
    if atEnd && decide (t.step < t.k) then none
    else
      let an := ((o.inst.bind (getChain x.c)).map Chain.an).getD 0
      some (o.pc % 2 ^ 32 + 2 ^ 32 * an + 2 ^ 35 * ctxOf o.stream + 2 ^ 64 * t.k + (if atEnd then 2 ^ 96 * t.step else 0)))

/-- MB_BEGIN and MB_END of a station or of a cell context: the last micro-batch that has begun, or has ended. -/
def mbData (s : State) (d : DieId) (kind place ctx : Nat) (atEnd : Bool) : Option Nat :=
  (stationAt s d kind place).bind (fun a =>
    let x := stGet s a ctx
    if decide (if kind = 1 then 3 ≤ ctx else ctx ≠ 0) || decide (x.begun = 0) || decide (x.begun = x.ended) != atEnd then none
    else some (x.seq.toNat + 2 ^ 32 * x.arg.toNat))

/-- CMD_START of a started command, and CMD_DONE of one that completes. -/
def cmdData (s : State) (d : DieId) (q cseq : Nat) (atEnd : Bool) : Option Nat :=
  (findStarted (getQueue (getDie s d) q) cseq).bind (fun c =>
    if atEnd then (completion s d q c).map (fun r => c.cseq % 2 ^ 32 + 2 ^ 32 * r.1 + 2 ^ 64 * (r.2 % 2 ^ 32))
    else some (c.cseq % 2 ^ 32 + 2 ^ 32 * cmdOp c.word + 2 ^ 64 * cmdTag c.word))

/-- BUCKET_CLOSE of a bucket whose result is on its outputs. -/
def bucketData (s : State) (d : DieId) (place tag : Nat) : Option Nat :=
  ((getLink (getDie s d) place).places.find? (fun p => p.tag == tag && p.emitted)).map (fun p =>
    p.tag % 2 ^ 12 + 2 ^ 12 * fld p.hdr 30 27 + 2 ^ 32 * ((timeOf s (some d) - p.opened) % 2 ^ 32))

/-- LATE of a gate's transfer that has been outstanding longer than its threshold: tier, and partition virtual address. -/
def lateData (s : State) (d : DieId) (group id : Nat) : Option Nat :=
  let g := getGate (getDie s d) group
  (g.xfers.find? (fun x => x.id == id)).bind (fun x => (xferRange s d x).bind (fun r =>
    let tier := match translate s d (gateCaches s d group) r.1 r.2.1 false with
      | .ok (.here h) => if hpaDie h = d then 0 else 1
      | .ok (.peer _ _) => 2
      | .error _ => 0
    let thr := if tier = 0 then g.memThr.toNat else g.peerThr.toNat
    if x.since + thr < timeOf s (some d) then some (tier + 2 ^ 16 * (r.2.1 % 2 ^ 48)) else none))

/-- LATE of a unit that a flash reader has asked for. -/
def lateUnit (s : State) (d : DieId) (place unit : Nat) : Option Nat :=
  (stationAt s d 8 place).bind (fun a =>
    if (stGet s a 0).units.any (fun u => u.1 == unit && u.2.1 == 0) then some (3 + 2 ^ 16 * (65536 * unit % 2 ^ 48)) else none)

/-- STREAM_STOP of a stream that has left RUNNING: STATE, EXC or KIND, and PC. -/
def stopData (s : State) (l : StreamLoc) : Option Nat :=
  let t := getStream s l
  if t.st = .exception then some (streamStateCode t.st + 8 * t.exc + 2 ^ 32 * t.excPc.toNat)
  else if t.st = .faulted ∨ t.st = .stopped then some (streamStateCode t.st + 8 * t.sflt.kind + 2 ^ 32 * t.pc.toNat)
  else none

/-- DATA of the record that a source has to emit now; none where it has none. `which` names a context, a command, a bucket, a transfer or
a unit of the source, and for a stall the reason and the beats of the run (assumption 65). -/
def tapData (s : State) (d : DieId) (r : TapRec) : Option Nat :=
  let c : CellLoc := { die := d, site := r.index }
  let l : StreamLoc := { die := d, site := r.index, stream := 2 * fld r.sub 1 0 + b2n (bit r.sub 2) }
  let stall := fld r.data 2 0 + 2 ^ 32 * fld r.data 63 32
  match r.cls, r.kind with
  | 1, 0x01 => taskData s c r.sub false
  | 1, 0x02 => taskData s c r.sub true
  | 1, 0x03 => if (engineStalls s c r.sub).contains (fld r.data 2 0) then some stall else none
  | 2, 0x03 => if streamHold (getStream s l).wait == some (fld r.data 2 0) then some stall else none
  | 2, 0x0A => stopData s l
  | 3, 0x04 => mbData s d r.sub r.index r.data false
  | 3, 0x05 => mbData s d r.sub r.index r.data true
  | 3, 0x08 => if r.sub = 5 then bucketData s d r.index r.data else none
  | 3, 0x09 => if r.sub = 3 then lateData s d (r.index / 4) r.data else if r.sub = 8 then lateUnit s d r.index r.data else none
  | 4, 0x06 => cmdData s d r.index r.data false
  | 4, 0x07 => cmdData s d r.index r.data true
  | 5, 0x0B => (getPart (getDie s d) r.part).sw.map (fun w => w.phase % 8 + 2 ^ 4 * (w.sel.target.getD 7 % 8))
  | 5, 0x0C =>
    let g := r.index
    (ownerEpoch s d g).map (fun p => g % 2 ^ 8 + 2 ^ 8 * ((getPart (getDie s d) p).lastVerdict % 4) + 2 ^ 32 * verOf s d g)
  | 5, 0x0D => some (govStWord (getDie s d).clk % 2 ^ 32)
  | 5, 0x0E => some (fld (tbStWord s.hd.time) 2 0 + 2 ^ 32 * s.hd.time.offset.toNat + 2 ^ 64 * s.hd.time.step.toNat)
  | _, _ => none

/-! ### Which records reach the unit (R448) -/

/-- SUB names an engine, a stream or a station kind; a die-wide source has none (Table 17.8). -/
def tapSub (r : TapRec) : Bool :=
  match r.cls with
  | 1 => decide (r.sub < 4)
  | 2 => decide (r.sub < 8) && decide (r.sub % 4 < 3)
  | 3 => decide (1 ≤ r.sub) && decide (r.sub ≤ 11)
  | _ => true

/-- The partition and the group of a record's source; a die-wide source lies in no group. -/
def recSource (s : State) (d : DieId) (r : TapRec) : Option Nat × Option Nat :=
  match r.cls with
  | 1 | 2 => (ownerCell s { die := d, site := r.index }, some (groupOf r.index))
  | 3 => ((kindOfCode r.sub).bind (fun k => ownerInst s d k r.index), some (nodeOf r.sub r.index))
  | 4 => (ownerQueue s d r.index, none)
  | _ => (if r.kind = 0x0B then some r.part else if r.kind = 0x0C then ownerEpoch s d r.index else none, none)

/-- SRC_INDEX and SUB as a record carries them: a queue has no SUB, and a die-wide source has neither (assumption 65). -/
def recPlace (r : TapRec) : Nat × Nat := if r.cls ≤ 3 then (r.index, r.sub) else if r.cls = 4 then (r.index, 0) else (0, 0)

/-- The three conditions of R448; no Tap on a confidential partition's units emits, its epoch groups and its Floor among them. -/
def tapEmits (s : State) (d : DieId) (r : TapRec) : Bool :=
  let t := getTrace s d
  let src := recSource s d r
  tapSub r && bit t.kinds.toNat r.kind && src.2.all (fun g => bit t.groups.toNat g) && !src.1.any (confidential s)
    && (decide (5 ≤ r.cls) || t.part == 0 || src.1 == some t.part.toNat)

/-- A Tap emits the record that its source has; one that it cannot hold is lost. -/
def execTapRecord (d : DieId) (r : TapRec) (s : State) : Res :=
  match tapData s d r with
  | none => nx s
  | some data =>
    if !(getDie s d).clk.running || !tapEmits s d r then nx s
    else
      let p := recPlace r
      let s := if trigMatch (getTrace s d) r.kind r.cls p.1 then addCause s d 1 else s
      if r.lost && (getTrace s d).st != 0 then nx (loseRec s d)
      else nx (traceRec s d r.kind r.cls p.1 p.2 ((recSource s d r).1.getD 0) data)

end Sys2Proof.Machine
end

