-- ==== Sys2Proof/Machine/Dispatch.lean ====
section
/-! DEFINITION. The meaning of every command: one arm per row of the table of operations and events. -/

namespace Sys2Proof.Machine

/-- The effect of a command on everything but the queue of waiting commands. -/
def exec (i : Instr) (s : State) : Host.Outcome State Fault Refusal :=
  match i with
  | .nop l => Sys2Proof.Machine.execNop l s
  | .halt l => Sys2Proof.Machine.execHalt l s
  | .haltComplete l => Sys2Proof.Machine.execHaltComplete l s
  | .fence l => Sys2Proof.Machine.execFence l s
  | .semacq l => Sys2Proof.Machine.execSemacq l s
  | .semrel l => Sys2Proof.Machine.execSemrel l s
  | .semrelApply c op => Sys2Proof.Machine.execSemrelApply c op s
  | .loop l => Sys2Proof.Machine.execLoop l s
  | .loopi l => Sys2Proof.Machine.execLoopi l s
  | .tcfg l => Sys2Proof.Machine.execTcfg l s
  | .tcfgApply c op => Sys2Proof.Machine.execTcfgApply c op s
  | .scrr l => Sys2Proof.Machine.execScrr l s
  | .scrw l => Sys2Proof.Machine.execScrw l s
  | .add l => Sys2Proof.Machine.execAdd l s
  | .sub l => Sys2Proof.Machine.execSub l s
  | .and l => Sys2Proof.Machine.execAnd l s
  | .or l => Sys2Proof.Machine.execOr l s
  | .xor l => Sys2Proof.Machine.execXor l s
  | .sll l => Sys2Proof.Machine.execSll l s
  | .srl l => Sys2Proof.Machine.execSrl l s
  | .sra l => Sys2Proof.Machine.execSra l s
  | .mul l => Sys2Proof.Machine.execMul l s
  | .slt l => Sys2Proof.Machine.execSlt l s
  | .sltu l => Sys2Proof.Machine.execSltu l s
  | .li l => Sys2Proof.Machine.execLi l s
  | .lih l => Sys2Proof.Machine.execLih l s
  | .beq l => Sys2Proof.Machine.execBeq l s
  | .bne l => Sys2Proof.Machine.execBne l s
  | .blt l => Sys2Proof.Machine.execBlt l s
  | .bge l => Sys2Proof.Machine.execBge l s
  | .bltu l => Sys2Proof.Machine.execBltu l s
  | .bgeu l => Sys2Proof.Machine.execBgeu l s
  | .jal l => Sys2Proof.Machine.execJal l s
  | .jr l => Sys2Proof.Machine.execJr l s
  | .tfetch l => Sys2Proof.Machine.execTfetch l s
  | .tfetchRowCommit c op => Sys2Proof.Machine.execTfetchRowCommit c op s
  | .tstore l => Sys2Proof.Machine.execTstore l s
  | .tstoreRowAccept c op => Sys2Proof.Machine.execTstoreRowAccept c op s
  | .transferFault c op => Sys2Proof.Machine.execTransferFault c op s
  | .tld l => Sys2Proof.Machine.execTld l s
  | .tst l => Sys2Proof.Machine.execTst l s
  | .xfetch l => Sys2Proof.Machine.execXfetch l s
  | .xfetchFault c op => Sys2Proof.Machine.execXfetchFault c op s
  | .caskld l => Sys2Proof.Machine.execCaskld l s
  | .caskst l => Sys2Proof.Machine.execCaskst l s
  | .dqpush l => Sys2Proof.Machine.execDqpush l s
  | .dqpop l => Sys2Proof.Machine.execDqpop l s
  | .waitv l => Sys2Proof.Machine.execWaitv l s
  | .opa l => Sys2Proof.Machine.execOpa l s
  | .accOpen l => Sys2Proof.Machine.execAccOpen l s
  | .accClose l => Sys2Proof.Machine.execAccClose l s
  | .drain l => Sys2Proof.Machine.execDrain l s
  | .ewCvt l => Sys2Proof.Machine.execEwCvt l s
  | .ewAdd l => Sys2Proof.Machine.execEwAdd l s
  | .ewSub l => Sys2Proof.Machine.execEwSub l s
  | .ewMul l => Sys2Proof.Machine.execEwMul l s
  | .ewFma l => Sys2Proof.Machine.execEwFma l s
  | .ewMax l => Sys2Proof.Machine.execEwMax l s
  | .ewMin l => Sys2Proof.Machine.execEwMin l s
  | .ewAbs l => Sys2Proof.Machine.execEwAbs l s
  | .ewNeg l => Sys2Proof.Machine.execEwNeg l s
  | .ewClamp l => Sys2Proof.Machine.execEwClamp l s
  | .ewSel l => Sys2Proof.Machine.execEwSel l s
  | .ewAxpby l => Sys2Proof.Machine.execEwAxpby l s
  | .ewDiv l => Sys2Proof.Machine.execEwDiv l s
  | .ewSqrt l => Sys2Proof.Machine.execEwSqrt l s
  | .ewRsqrt l => Sys2Proof.Machine.execEwRsqrt l s
  | .ewRecip l => Sys2Proof.Machine.execEwRecip l s
  | .ewExp l => Sys2Proof.Machine.execEwExp l s
  | .ewLog l => Sys2Proof.Machine.execEwLog l s
  | .ewFn l => Sys2Proof.Machine.execEwFn l s
  | .ewDfn l => Sys2Proof.Machine.execEwDfn l s
  | .ewRsum l => Sys2Proof.Machine.execEwRsum l s
  | .ewRsumsq l => Sys2Proof.Machine.execEwRsumsq l s
  | .ewRmax l => Sys2Proof.Machine.execEwRmax l s
  | .ewCsum l => Sys2Proof.Machine.execEwCsum l s
  | .red l => Sys2Proof.Machine.execRed l s
  | .spill l => Sys2Proof.Machine.execSpill l s
  | .resume l => Sys2Proof.Machine.execResume l s
  | .taskPlacement c op => Sys2Proof.Machine.execTaskPlacement c op s
  | .taskReady c op => Sys2Proof.Machine.execTaskReady c op s
  | .taskChoice c eng => Sys2Proof.Machine.execTaskChoice c eng s
  | .slotEntry c eng sideB => Sys2Proof.Machine.execSlotEntry c eng sideB s
  | .rankOneStep c eng => Sys2Proof.Machine.execRankOneStep c eng s
  | .spillPoint c eng => Sys2Proof.Machine.execSpillPoint c eng s
  | .lastSlice c eng => Sys2Proof.Machine.execLastSlice c eng s
  | .drainRead c op => Sys2Proof.Machine.execDrainRead c op s
  | .drainResultWrite c op => Sys2Proof.Machine.execDrainResultWrite c op s
  | .groupFetch c eng sideB perr => Sys2Proof.Machine.execGroupFetch c eng sideB perr s
  | .parityRetryWrite c eng sideB => Sys2Proof.Machine.execParityRetryWrite c eng sideB s
  | .streamStart agent l => Sys2Proof.Machine.execStreamStart agent l s
  | .streamRetry agent l => Sys2Proof.Machine.execStreamRetry agent l s
  | .streamSkip agent l => Sys2Proof.Machine.execStreamSkip agent l s
  | .streamStop agent l => Sys2Proof.Machine.execStreamStop agent l s
  | .streamResume agent l => Sys2Proof.Machine.execStreamResume agent l s
  | .sfltResume agent l => Sys2Proof.Machine.execSfltResume agent l s
  | .sfltCancel agent l => Sys2Proof.Machine.execSfltCancel agent l s
  | .streamPcWrite agent l v => Sys2Proof.Machine.execStreamPcWrite agent l v s
  | .srStateWrite agent l v => Sys2Proof.Machine.execSrStateWrite agent l v s
  | .schedCtlWrite agent c v => Sys2Proof.Machine.execSchedCtlWrite agent c v s
  | .engCtlWrite agent c v => Sys2Proof.Machine.execEngCtlWrite agent c v s
  | .dtabWrite agent c deriv idx v => Sys2Proof.Machine.execDtabWrite agent c deriv idx v s
  | .grantStart d group r => Sys2Proof.Machine.execGrantStart d group r s
  | .grantEnd d group => Sys2Proof.Machine.execGrantEnd d group s
  | .minGapExpiry c => Sys2Proof.Machine.execMinGapExpiry c s
  | .maskLineFill l => Sys2Proof.Machine.execMaskLineFill l s
  | .sectorCheck d sec answers => Sys2Proof.Machine.execSectorCheck d sec answers s
  | .sectorFailed d sec => Sys2Proof.Machine.execSectorFailed d sec s
  | .broadcastWrite agent d sector mask off size v => Sys2Proof.Machine.execBroadcastWrite agent d sector mask off size v s
  | .lineSend d slot route => Sys2Proof.Machine.execLineSend d slot route s
  | .itemPresent d slot route => Sys2Proof.Machine.execItemPresent d slot route s
  | .creditReturn d slot route => Sys2Proof.Machine.execCreditReturn d slot route s
  | .microBatchBegin d slot station ctx => Sys2Proof.Machine.execMicroBatchBegin d slot station ctx s
  | .microBatchEnd d slot station ctx => Sys2Proof.Machine.execMicroBatchEnd d slot station ctx s
  | .routeRelease d slot route => Sys2Proof.Machine.execRouteRelease d slot route s
  | .drainStageItem d slot station => Sys2Proof.Machine.execDrainStageItem d slot station s
  | .billLoadBegin d => Sys2Proof.Machine.execBillLoadBegin d s
  | .billLoadComplete d => Sys2Proof.Machine.execBillLoadComplete d s
  | .switchQuiescence d part => Sys2Proof.Machine.execSwitchQuiescence d part s
  | .switchClose d part => Sys2Proof.Machine.execSwitchClose d part s
  | .switchReset d part => Sys2Proof.Machine.execSwitchReset d part s
  | .switchConfigure d part => Sys2Proof.Machine.execSwitchConfigure d part s
  | .switchTables d part => Sys2Proof.Machine.execSwitchTables d part s
  | .switchOpen d part => Sys2Proof.Machine.execSwitchOpen d part s
  | .heldSelectStart d part => Sys2Proof.Machine.execHeldSelectStart d part s
  | .commandWrite agent d q off data => Sys2Proof.Machine.execCommandWrite agent d q off data s
  | .commandStart d q => Sys2Proof.Machine.execCommandStart d q s
  | .commandComplete d q cseq => Sys2Proof.Machine.execCommandComplete d q cseq s
  | .run d q cseq => Sys2Proof.Machine.execRun d q cseq s
  | .billLoad d q cseq => Sys2Proof.Machine.execBillLoad d q cseq s
  | .billUnload d q cseq => Sys2Proof.Machine.execBillUnload d q cseq s
  | .billSelect d q cseq => Sys2Proof.Machine.execBillSelect d q cseq s
  | .descCreate d q cseq => Sys2Proof.Machine.execDescCreate d q cseq s
  | .descUpdate d q cseq => Sys2Proof.Machine.execDescUpdate d q cseq s
  | .descFree d q cseq => Sys2Proof.Machine.execDescFree d q cseq s
  | .copy d q cseq => Sys2Proof.Machine.execCopy d q cseq s
  | .stepCommit d q cseq => Sys2Proof.Machine.execStepCommit d q cseq s
  | .stepAbandon d q cseq => Sys2Proof.Machine.execStepAbandon d q cseq s
  | .stepSettleEnd d eg => Sys2Proof.Machine.execStepSettleEnd d eg s
  | .barrierVerdict d eg => Sys2Proof.Machine.execBarrierVerdict d eg s
  | .barrierTimeout d eg => Sys2Proof.Machine.execBarrierTimeout d eg s
  | .versionWait d q cseq => Sys2Proof.Machine.execVersionWait d q cseq s
  | .streamCtl d q cseq => Sys2Proof.Machine.execStreamCtl d q cseq s
  | .queueResume agent d q => Sys2Proof.Machine.execQueueResume agent d q s
  | .queueFlush agent d q => Sys2Proof.Machine.execQueueFlush agent d q s
  | .queueEnable agent d q en irqEn => Sys2Proof.Machine.execQueueEnable agent d q en irqEn s
  | .cellEnable agent c en => Sys2Proof.Machine.execCellEnable agent c en s
  | .cellInit agent c => Sys2Proof.Machine.execCellInit agent c s
  | .cpFnEnable agent d port en => Sys2Proof.Machine.execCpFnEnable agent d port en s
  | .flEnable agent v => Sys2Proof.Machine.execFlEnable agent v s
  | .functionStartEnd f => Sys2Proof.Machine.execFunctionStartEnd f s
  | .functionDrainEnd f => Sys2Proof.Machine.execFunctionDrainEnd f s
  | .redItemJudge d slot route => Sys2Proof.Machine.execRedItemJudge d slot route s
  | .redFold d slot station => Sys2Proof.Machine.execRedFold d slot station s
  | .redEmit d slot station tag => Sys2Proof.Machine.execRedEmit d slot station tag s
  | .bucketTimeout d place tag => Sys2Proof.Machine.execBucketTimeout d place tag s
  | .rlCtlWrite agent d place v => Sys2Proof.Machine.execRlCtlWrite agent d place v s
  | .relayItem d slot station => Sys2Proof.Machine.execRelayItem d slot station s
  | .gateTransfer d group client => Sys2Proof.Machine.execGateTransfer d group client s
  | .gateTransferComplete d group x => Sys2Proof.Machine.execGateTransferComplete d group x s
  | .pageWalk d group site part va write => Sys2Proof.Machine.execPageWalk d group site part va write s
  | .tlbInvalidate agent d part => Sys2Proof.Machine.execTlbInvalidate agent d part s
  | .tlbInvalidateDone d part => Sys2Proof.Machine.execTlbInvalidateDone d part s
  | .scheduleDelivery d slot station => Sys2Proof.Machine.execScheduleDelivery d slot station s
  | .cacheEvict d line bad => Sys2Proof.Machine.execCacheEvict d line bad s
  | .patrolRead d mc off r => Sys2Proof.Machine.execPatrolRead d mc off r s
  | .odeccPoll d mc corrected severe => Sys2Proof.Machine.execOdeccPoll d mc corrected severe s
  | .hbmRateChange d quiet => Sys2Proof.Machine.execHbmRateChange d quiet s
  | .hbmRateChangeEnd d failed => Sys2Proof.Machine.execHbmRateChangeEnd d failed s
  | .mcBroadcastWrite agent t off size v => Sys2Proof.Machine.execMcBroadcastWrite agent t off size v s
  | .hbmRgnWrite agent d k v => Sys2Proof.Machine.execHbmRgnWrite agent d k v s
  | .moverBlock d slot station => Sys2Proof.Machine.execMoverBlock d slot station s
  | .flashUnitRead unit decodes => Sys2Proof.Machine.execFlashUnitRead unit decodes s
  | .readRetry unit decodes => Sys2Proof.Machine.execReadRetry unit decodes s
  | .flashProgram cseq place ok => Sys2Proof.Machine.execFlashProgram cseq place ok s
  | .flashMove unit p => Sys2Proof.Machine.execFlashMove unit p s
  | .flashScan weak => Sys2Proof.Machine.execFlashScan weak s
  | .mapReady => Sys2Proof.Machine.execMapReady s
  | .flashHealthChange stops first last => Sys2Proof.Machine.execFlashHealthChange stops first last s
  | .flCommandWrite agent off data => Sys2Proof.Machine.execFlCommandWrite agent off data s
  | .flRead cseq => Sys2Proof.Machine.execFlRead cseq s
  | .flWrite cseq => Sys2Proof.Machine.execFlWrite cseq s
  | .flTrim cseq => Sys2Proof.Machine.execFlTrim cseq s
  | .flFlush cseq => Sys2Proof.Machine.execFlFlush cseq s
  | .flQueueResume agent => Sys2Proof.Machine.execFlQueueResume agent s
  | .flQueueFlush agent => Sys2Proof.Machine.execFlQueueFlush agent s
  | .flExtWrite agent k v => Sys2Proof.Machine.execFlExtWrite agent k v s
  | .programSuspend pkg nand => Sys2Proof.Machine.execProgramSuspend pkg nand s
  | .commandMemoryStore core st => Sys2Proof.Machine.execCommandMemoryStore core st s
  | .memRd d agent tag addr rd => Sys2Proof.Machine.execMemRd d agent tag addr rd s
  | .memWr d agent addr data => Sys2Proof.Machine.execMemWr d agent addr data s
  | .cmdWr d agent addr data => Sys2Proof.Machine.execCmdWr d agent addr data s
  | .regRd d agent tag addr size => Sys2Proof.Machine.execRegRd d agent tag addr size s
  | .regWr d agent tag addr size v => Sys2Proof.Machine.execRegWr d agent tag addr size v s
  | .cpl d tag status data => Sys2Proof.Machine.execCpl d tag status data s
  | .msgIrq d addr eiid => Sys2Proof.Machine.execMsgIrq d addr eiid s
  | .flashReq d slot station unit => Sys2Proof.Machine.execFlashReq d slot station unit s
  | .flashDlv d slot station => Sys2Proof.Machine.execFlashDlv d slot station s
  | .ucieReservedType d module type => Sys2Proof.Machine.execUcieReservedType d module type s
  | .ucieTraining d module state tx rx => Sys2Proof.Machine.execUcieTraining d module state tx rx s
  | .bridgeLine d seg vc src data => Sys2Proof.Machine.execBridgeLine d seg vc src data s
  | .ackOk d seg => Sys2Proof.Machine.execAckOk d seg s
  | .ackRetry d seg => Sys2Proof.Machine.execAckRetry d seg s
  | .bridgeAckTimeout d seg => Sys2Proof.Machine.execBridgeAckTimeout d seg s
  | .bridgeRetrain up => Sys2Proof.Machine.execBridgeRetrain up s
  | .item d port f => Sys2Proof.Machine.execItem d port f s
  | .token d port f => Sys2Proof.Machine.execToken d port f s
  | .credit d port f => Sys2Proof.Machine.execCredit d port f s
  | .ack d port f => Sys2Proof.Machine.execAck d port f s
  | .nack d port f => Sys2Proof.Machine.execNack d port f s
  | .mark d port f => Sys2Proof.Machine.execMark d port f s
  | .memReq d port f => Sys2Proof.Machine.execMemReq d port f s
  | .memRsp d port f => Sys2Proof.Machine.execMemRsp d port f s
  | .rtoTimeout d peer => Sys2Proof.Machine.execRtoTimeout d peer s
  | .standaloneAck d peer => Sys2Proof.Machine.execStandaloneAck d peer s
  | .creditPeriodic d peer => Sys2Proof.Machine.execCreditPeriodic d peer s
  | .markSend d port => Sys2Proof.Machine.execMarkSend d port s
  | .peerCfgWrite agent d n v => Sys2Proof.Machine.execPeerCfgWrite agent d n v s
  | .bar2Access vf va acc => Sys2Proof.Machine.execBar2Access vf va acc s
  | .perstN p => Sys2Proof.Machine.execPerstN p s
  | .getStatus m => Sys2Proof.Machine.execGetStatus m s
  | .regRead m addr => Sys2Proof.Machine.execRegRead m addr s
  | .regWrite m addr v => Sys2Proof.Machine.execRegWrite m addr v s
  | .telemetry m => Sys2Proof.Machine.execTelemetry m s
  | .fwUpdate m arg op => Sys2Proof.Machine.execFwUpdate m arg op s
  | .calExport m off len => Sys2Proof.Machine.execCalExport m off len s
  | .idcode tap => Sys2Proof.Machine.execIdcode tap s
  | .samplePreload tap pins preload => Sys2Proof.Machine.execSamplePreload tap pins preload s
  | .extest tap => Sys2Proof.Machine.execExtest tap s
  | .clamp tap => Sys2Proof.Machine.execClamp tap s
  | .highz tap => Sys2Proof.Machine.execHighz tap s
  | .holtuthDebug tap code => Sys2Proof.Machine.execHoltuthDebug tap code s
  | .bypass tap code => Sys2Proof.Machine.execBypass tap code s
  | .layoutSet ch => Sys2Proof.Machine.execLayoutSet ch s
  | .scrub ch => Sys2Proof.Machine.execScrub ch s
  | .spargeZeroWrite d granule => Sys2Proof.Machine.execSpargeZeroWrite d granule s
  | .confSet ch => Sys2Proof.Machine.execConfSet ch s
  | .attest ch => Sys2Proof.Machine.execAttest ch s
  | .fwStage r => Sys2Proof.Machine.execFwStage r s
  | .fwApply r => Sys2Proof.Machine.execFwApply r s
  | .fwDiscard r => Sys2Proof.Machine.execFwDiscard r s
  | .keyRevoke ch => Sys2Proof.Machine.execKeyRevoke ch s
  | .debugAuth ch => Sys2Proof.Machine.execDebugAuth ch s
  | .calCommit agent => Sys2Proof.Machine.execCalCommit agent s
  | .xtalGood => Sys2Proof.Machine.execXtalGood s
  | .noXtal => Sys2Proof.Machine.execNoXtal s
  | .xtalLost => Sys2Proof.Machine.execXtalLost s
  | .xtalRetry agent passes => Sys2Proof.Machine.execXtalRetry agent passes s
  | .clockRampStep island => Sys2Proof.Machine.execClockRampStep island s
  | .trimWindow count => Sys2Proof.Machine.execTrimWindow count s
  | .governorTick d rate => Sys2Proof.Machine.execGovernorTick d rate s
  | .dutyTick d power => Sys2Proof.Machine.execDutyTick d power s
  | .pwrCtlWrite agent v => Sys2Proof.Machine.execPwrCtlWrite agent v s
  | .powerModeChangeEnd => Sys2Proof.Machine.execPowerModeChangeEnd s
  | .thermalSample where_ sensors stackTs => Sys2Proof.Machine.execThermalSample where_ sensors stackTs s
  | .thermalTrip => Sys2Proof.Machine.execThermalTrip s
  | .telemetryRefresh block => Sys2Proof.Machine.execTelemetryRefresh block s
  | .timebaseFollow d diverged => Sys2Proof.Machine.execTimebaseFollow d diverged s
  | .ppsEdge error => Sys2Proof.Machine.execPpsEdge error s
  | .tbHoldover => Sys2Proof.Machine.execTbHoldover s
  | .tbMeasStart agent d port => Sys2Proof.Machine.execTbMeasStart agent d port s
  | .modEnRise role addr => Sys2Proof.Machine.execModEnRise role addr s
  | .pwr48Threshold => Sys2Proof.Machine.execPwr48Threshold s
  | .firmwareVerify copy0 copy1 => Sys2Proof.Machine.execFirmwareVerify copy0 copy1 s
  | .secFwStart r => Sys2Proof.Machine.execSecFwStart r s
  | .linkTraining r => Sys2Proof.Machine.execLinkTraining r s
  | .serviceFloorTest r => Sys2Proof.Machine.execServiceFloorTest r s
  | .hostStart => Sys2Proof.Machine.execHostStart s
  | .modEnFall => Sys2Proof.Machine.execModEnFall s
  | .undervoltage => Sys2Proof.Machine.execUndervoltage s
  | .overvoltage => Sys2Proof.Machine.execOvervoltage s
  | .regulatorFault => Sys2Proof.Machine.execRegulatorFault s
  | .partRst agent part => Sys2Proof.Machine.execPartRst agent part s
  | .dieReset agent d => Sys2Proof.Machine.execDieReset agent d s
  | .warmReset agent => Sys2Proof.Machine.execWarmReset agent s
  | .counterWrap d set n => Sys2Proof.Machine.execCounterWrap d set n s
  | .cntClear agent d set => Sys2Proof.Machine.execCntClear agent d set s
  | .cntHold agent d set hold => Sys2Proof.Machine.execCntHold agent d set hold s
  | .cntSnapArm agent d => Sys2Proof.Machine.execCntSnapArm agent d s
  | .cntSnapTrigger d => Sys2Proof.Machine.execCntSnapTrigger d s
  | .tapRecord d r => Sys2Proof.Machine.execTapRecord d r s
  | .traceEnable agent d v => Sys2Proof.Machine.execTraceEnable agent d v s
  | .traceTrigger d cause => Sys2Proof.Machine.execTraceTrigger d cause s
  | .trcMarkWrite agent d v => Sys2Proof.Machine.execTrcMarkWrite agent d v s
  | .rdSeqWrite agent log v => Sys2Proof.Machine.execRdSeqWrite agent log v s
  | .readClear agent addr size => Sys2Proof.Machine.execReadClear agent addr size s
  | .registerWrite agent addr size v => Sys2Proof.Machine.execRegisterWrite agent addr size v s
  | .reservedOpcodeIssue l => Sys2Proof.Machine.execReservedOpcodeIssue l s
  | .internalAccess c op perr => Sys2Proof.Machine.execInternalAccess c op perr s
  | .reservedFrameType d port f => Sys2Proof.Machine.execReservedFrameType d port f s
  | .chainLinkStateChange d port up => Sys2Proof.Machine.execChainLinkStateChange d port up s
  | .refreshManagementRequest d mc => Sys2Proof.Machine.execRefreshManagementRequest d mc s
  | .setEndpointId eid => Sys2Proof.Machine.execSetEndpointId eid s
  | .unsupportedCommand m cmd => Sys2Proof.Machine.execUnsupportedCommand m cmd s
  | .tapReset trst => Sys2Proof.Machine.execTapReset trst s
  | .turnOffRestart => Sys2Proof.Machine.execTurnOffRestart s

end Sys2Proof.Machine
end

