-- ==== Sys2Proof/Machine/Time.lean ====
section
/-! DEFINITION. One nanosecond of every running timebase: what the block does while no command waits (R385, R388; assumption 14). -/

namespace Sys2Proof.Machine

/-- INIT_BUSY falls in every cell that is not in its start. -/
def initsDone (t : Tab CellAll) : Tab CellAll :=
  tabMap {} (fun x => if x.c.initBusy && decide (x.c.fn.st ≠ .starting) then { x with c := { x.c with initBusy := false } } else x) t

/-- A compute die's timebase counts, whatever else the die does (R385); an INIT of one of its cells has ended (R402; assumption 109). -/
def tickDie (n : Nat) (x : Die) : Die :=
  if dieTimed x then { x with clk := { x.clk with tb := (x.clk.tb + n) % 2 ^ 64 }, cells := initsDone x.cells } else x

/-- The count of the next nanosecond: none or two where a whole nanosecond of slew is due. -/
def slewTick (t : HdTime) : Nat × HdTime :=
  if 100 ≤ t.slew then (2, { t with slew := t.slew - 100 })
  else if t.slew ≤ -100 then (0, { t with slew := t.slew + 100 })
  else (1, t)

/-- One nanosecond with no command: the boot region's second copy takes what it still has to (R329), and every ring link carries a
line (R190). -/
def idleTick (s : State) : State :=
  let s := settleBoot s
  let x := slewTick s.hd.time
  let n := if s.hd.power.hostRails then x.1 else 1
  let hd := if s.hd.power.hostRails then { s.hd with time := { x.2 with tb := (x.2.tb + n) % 2 ^ 64 } } else s.hd
  let s := { s with hd := hd, cd0 := tickDie n s.cd0, cd1 := tickDie n s.cd1 }
  tickRing (tickRing s .cd0) .cd1

end Sys2Proof.Machine
end

