-- ==== Sys2Proof/Machine/Waiting.lean ====
section
/-! DEFINITION. Accesses from outside the memory gates that wait for a change of data rate or for another module's answer (R300, R361). -/

namespace Sys2Proof.Machine

/-- An access that waited is made. -/
def runAsk (s : State) : HostAsk → Res
  | .memRd d agent tag addr rd => execMemRd d agent tag addr rd s
  | .memWr d agent addr data => execMemWr d agent addr data s
  | .bar2 vf va acc => execBar2Access vf va acc s
  | .regRead m addr => execRegRead m addr s
  | .regWrite m addr v => execRegWrite m addr v s
  | .readClear agent addr size => execReadClear agent addr size s
  | .registerWrite agent addr size v => execRegisterWrite agent addr size v s

/-- The accesses that wait are tried in order: one that names a die stays behind those of the die that still wait. -/
def tryWaiting : List (Option DieId × HostAsk) → State → State
  | [], s => s
  | h :: r, s =>
    if h.1.any (hbmHeld s) then tryWaiting r { s with held := s.held ++ [h] }
    else match runAsk s h.2 with
      | .next t => tryWaiting r t
      | _ => tryWaiting r s

/-- What can be served of the accesses that wait. -/
def serveWaiting (s : State) : State := resumeCommit (tryWaiting s.held { s with held := [] })

end Sys2Proof.Machine
end

