-- ==== Sys2Proof/Safety.lean ====
section
/-! DEFINITION. What counts as a safe run, and the words in which the statements speak of the machine. -/

namespace Sys2Proof.Machine

/-- A step answers a next state. -/
def stepsOn (s : State) : Prop := ∃ t, step s = .next t

/-- `n` steps from a state each answer a next state. -/
def safeFor : Nat → State → Prop
  | 0, _ => True
  | n + 1, s => ∃ t, step s = .next t ∧ safeFor n t

/-! ### The canonical form -/

/-- Memory and both dies' tables of cells are in their one canonical form; every step keeps it, and no other state is reached. -/
def canonical (s : State) : Bool := Memory.wf s.hbm && tabWf {} s.cd0.cells && tabWf {} s.cd1.cells

/-! ### Streams -/

/-- The stream can issue, no grant holds it, and its next word is `w`, a word of opcode `o` that Tables 6.1 and 6.2 allow it
(R121, R134, R145). -/
def ready (s : State) (l : StreamLoc) (o w : Nat) : Bool :=
  canIssue s l && (isExec l.stream || (getCell s (cellOf l)).c.grant.isNone)
    && wordAt s l (getStream s l).pc.toNat == some w && opcode w == o && opcodeAssigned o && opcodeAllowed o l.stream
    && reservedBits w == 0

/-- No exception of a list is due. -/
def noExc (xs : List (Bool × Nat)) : Bool := xs.all (fun p => !p.1)

/-- The stream of an instruction that has taken effect moves on: to the next word, or round the loops that end at its address
(R152); the ISSUE counter counts (R444). -/
def moveOn (s : State) (l : StreamLoc) (pc : Nat) : State :=
  countIssue (modStream s l (fun t =>
    { t with loops := (loopBack t.loops pc).1, pc := BitVec.ofNat 32 (loopBack t.loops pc).2, wait := .none })) l

/-- The outcome of an instruction of stream `l`, issued in `s`, whose own effect gives `t`. -/
def issued (s : State) (l : StreamLoc) (t : State) : Res := .next (moveOn t l (getStream s l).pc.toNat)

/-- An instruction issues and writes `v` into scalar register `r`. -/
def writesReg (s : State) (l : StreamLoc) (r : Nat) (v : W64) : Res := issued s l (modStream s l (fun t => setReg t r v))

/-- The stream leaves for an address: loops that do not hold it are popped (R154). -/
def goTo (s : State) (l : StreamLoc) (target : Nat) : State :=
  countIssue (modStream s l (fun t => { t with loops := loopLeave t.loops target, pc := BitVec.ofNat 32 target, wait := .none })) l

end Sys2Proof.Machine
end

