-- ==== Sys2Proof/Certificates/Slice0/Obligations.lean ====
section
/-! DEFINITION. The statements for the provers. -/

open Sys2Proof Sys2Proof.Machine

/-! ### The queue -/

/-- A step with a command at the front of the queue is exec of that command with the queue's rest. -/
def Obligations.StepRunsFront : Prop :=
  ∀ (s : State) (c : Instr) (r : List Instr), step { s with pending := c :: r } = exec c { s with pending := r }

/-! ### Scalar work and control transfer (06) -/

/-- Every scalar instruction that issues writes its result modulo 2^64 into rd, and nothing but rd and the stream's place; a write of s0
is discarded (setReg). s0 reads as zero, and a write of it changes nothing (R147). -/
def Obligations.ScalarWork : Prop :=
  (∀ (s : State) (l : StreamLoc) (w : Nat),
    let t := getStream s l
    let a := getReg t (fRS1 w)
    let b := secondOperand t w
    let rd := fRD w
    (ready s l 0x10 w = true → exec (.add l) s = writesReg s l rd (a + b))
    ∧ (ready s l 0x11 w = true → exec (.sub l) s = writesReg s l rd (a - b))
    ∧ (ready s l 0x12 w = true → exec (.and l) s = writesReg s l rd (a &&& b))
    ∧ (ready s l 0x13 w = true → exec (.or l) s = writesReg s l rd (a ||| b))
    ∧ (ready s l 0x14 w = true → exec (.xor l) s = writesReg s l rd (a ^^^ b))
    ∧ (ready s l 0x15 w = true → exec (.sll l) s = writesReg s l rd (a <<< (b.toNat % 64)))
    ∧ (ready s l 0x16 w = true → exec (.srl l) s = writesReg s l rd (a >>> (b.toNat % 64)))
    ∧ (ready s l 0x17 w = true → exec (.sra l) s = writesReg s l rd (a.sshiftRight (b.toNat % 64)))
    ∧ (ready s l 0x18 w = true → exec (.mul l) s = writesReg s l rd (a * b))
    ∧ (ready s l 0x19 w = true → exec (.slt l) s = writesReg s l rd (if a.toInt < b.toInt then 1 else 0))
    ∧ (ready s l 0x1A w = true → exec (.sltu l) s = writesReg s l rd (if a.toNat < b.toNat then 1 else 0))
    ∧ (ready s l 0x1B w = true → exec (.li l) s = writesReg s l rd ((BitVec.ofNat 32 (fIMM w)).signExtend 64))
    ∧ (ready s l 0x1C w = true → exec (.lih l) s = writesReg s l rd (BitVec.ofNat 64 (a.toNat % 2 ^ 32 + 2 ^ 32 * fIMM w))))
  ∧ (∀ (t : Stream) (v : W64), getReg t 0 = 0 ∧ setReg t 0 v = t)

/-- A branch that issues away from the end of a loop goes to PC + IMM where its condition holds and that address is a multiple of
8, and on to the next word where it does not; JAL and JR go to their target and write PC + 8 into rd. Leaving for a target outside the
body of the innermost level pops that level, and every enclosing level whose body does not contain the target (R154). -/
def Obligations.ControlTransfer : Prop :=
  ∀ (s : State) (l : StreamLoc) (w : Nat),
    let t := getStream s l
    let pc := t.pc.toNat
    let a := getReg t (fRS1 w)
    let b := getReg t (fRS2 w)
    let target := pcPlus pc (fIMMs w)
    let branches := fun (o : Nat) (i : Instr) (c : Bool) =>
      ready s l o w = true → atLoopEnd t.loops pc = false →
        (c = false → exec i s = issued s l s) ∧ (c = true → target % 8 = 0 → exec i s = .next (goTo s l target))
    branches 0x20 (.beq l) (a == b)
    ∧ branches 0x21 (.bne l) (a != b)
    ∧ branches 0x22 (.blt l) (decide (a.toInt < b.toInt))
    ∧ branches 0x23 (.bge l) (decide (b.toInt ≤ a.toInt))
    ∧ branches 0x24 (.bltu l) (decide (a.toNat < b.toNat))
    ∧ branches 0x25 (.bgeu l) (decide (b.toNat ≤ a.toNat))
    ∧ (ready s l 0x26 w = true → atLoopEnd t.loops pc = false → target % 8 = 0 →
        exec (.jal l) s = .next (goTo (modStream s l (fun t => setReg t (fRD w) (BitVec.ofNat 64 (t.pc.toNat + 8)))) l target))
    ∧ (ready s l 0x27 w = true → atLoopEnd t.loops pc = false →
        let jr := unsigned 32 ((a.toNat : Int) + fIMMs w)
        jr % 8 = 0 →
        exec (.jr l) s = .next (goTo (modStream s l (fun t => setReg t (fRD w) (BitVec.ofNat 64 (t.pc.toNat + 8)))) l jr))
    ∧ (∀ (u : State) (v : LoopLevel) (r : List LoopLevel) (dst : Nat), canonical u = true → l.stream < 6 → (getStream u l).loops = v :: r →
        ((v.first ≤ dst ∧ dst ≤ v.last) → (getStream (goTo u l dst) l).loops = v :: r)
        ∧ ((dst < v.first ∨ v.last < dst) →
            (getStream (goTo u l dst) l).loops = r.filter (fun y => decide (y.first ≤ dst) && decide (dst ≤ y.last))))

/-- A LOOP or LOOPI with a positive multiple of 8 as END, away from the end of an active level: with a count above zero and fewer
than four levels it pushes a level over PC + 8 to PC + END and enters it; with a count of zero it pushes none and, outside every
loop, goes to PC + END + 8. -/
def Obligations.Loops : Prop :=
  ∀ (s : State) (l : StreamLoc) (w : Nat),
    let t := getStream s l
    let pc := t.pc.toNat
    let enters := fun (o : Nat) (i : Instr) (count : Nat) =>
      ready s l o w = true → 0 < fIMMs w → fIMMs w % 8 = 0 → atLoopEnd t.loops pc = false →
        (0 < count → t.loops.length < 4 →
          exec i s = .next (countIssue (modStream s l (fun t => { t with
            loops := { first := pc + 8, last := pc + (fIMMs w).toNat, left := count, iter := 0 } :: (getStream s l).loops
            pc := BitVec.ofNat 32 (pc + 8), wait := .none })) l))
        ∧ (count = 0 → t.loops = [] →
          exec i s = .next (countIssue (modStream s l (fun t => { t with
            loops := [], pc := BitVec.ofNat 32 ((pc + (fIMMs w).toNat + 8) % 2 ^ 32), wait := .none })) l))
    enters 0x05 (.loop l) (regFld t (fRS1 w) 31 0) ∧ enters 0x06 (.loopi l) (fld w 31 8)

/-! ### Control, configuration, semaphores, queues (06) -/

/-- NOP does nothing but move on. HALT holds its stream at its address; once no earlier instruction of the stream is in flight the
stream enters HALTED, with the stream-halt interrupt where IRQ is 1. A stream-scope FENCE with none of the stream's instructions of
its classes in flight moves on, and with EXT empties the mask cache; at cell scope it takes a place in the issue order. -/
def Obligations.ControlInstructions : Prop :=
  ∀ (s : State) (l : StreamLoc) (w : Nat),
    let t := getStream s l
    let x := getCell s (cellOf l)
    let unmask := fun (s : State) => if bit w 11 then modM s (cellOf l) (fun m => { m with mask := [] }) else s
    (ready s l 0x00 w = true → exec (.nop l) s = issued s l s)
    ∧ (ready s l 0x01 w = true → atLoopEnd t.loops t.pc.toNat = false →
        exec (.halt l) s = .next (countIssue (modStream s l (fun t => { t with wait := .halt })) l))
    ∧ (t.st = .running → t.wait = .halt → streamBusy x.m l.stream = false → wordAt s l t.pc.toNat = some w →
        let s1 := modStream s l (fun t => { t with st := .halted, wait := .none })
        exec (.haltComplete l) s = .next (if bit w 8 then streamEvent s1 l 2 else s1))
    ∧ (ready s l 0x02 w = true → bit w 8 = false →
        x.m.ops.any (fun o => o.stream == l.stream && inClass o (bit w 9) (bit w 10) (bit w 11)) = false →
        exec (.fence l) s = issued s l (unmask s))
    ∧ (ready s l 0x02 w = true → bit w 8 = true → x.m.ops.any (fun o => inClass o (bit w 9) (bit w 10) (bit w 11)) = true →
        exec (.fence l) s = issued s l (addOp (unmask s) l none (.fence (bit w 9) (bit w 10) (bit w 11))))

/-- SEMACQ takes one unit of a semaphore that has more units than earlier streams wait for. SEMREL with fewer than 255 units pending joins the instructions in flight, and
its application adds one unit once the stream's earlier writes are complete and the value is below 255. DQPUSH and DQPOP in their
direction (DQ0 to DQ5 from the access to the execute stream, DQ6 and DQ7 back) append to a queue of fewer than 16 values and take the
oldest value; against it they raise DQ_DIRECTION; a full and an empty queue hold their stream. WAITV moves on when the entry has reached the
version. -/
def Obligations.SemaphoresAndQueues : Prop :=
  ∀ (s : State) (l : StreamLoc) (w op : Nat) (o : Op),
    let t := getStream s l
    let c := cellOf l
    let x := getCell s c
    let sem := fld w 11 8
    let k := dqKey (ctxOf l.stream) (fld w 26 24)
    let q := tabGet [] x.c.queues k
    (ready s l 0x03 w = true → semAhead s l sem < getSem x.c sem →
      exec (.semacq l) s = issued s l (modC s c (fun c => setSem c sem (getSem x.c sem - 1))))
    ∧ (ready s l 0x04 w = true → semPending x sem < 255 → exec (.semrel l) s = issued s l (addOp s l none (.semrel sem)))
    ∧ (∀ n, findOp x.m op = some o → o.kind = .semrel n →
        x.m.ops.any (fun y => decide (y.id < op) && y.stream == o.stream && opStores y) = false → getSem x.c n < 255 →
        exec (.semrelApply c op) s = .next (modM (modC s c (fun k => setSem k n (getSem k n + 1))) c (fun m => removeOp m op)))
    ∧ (ready s l 0x47 w = true → dqPushOk l.stream (fld w 26 24) = true → q.length < 16 →
        exec (.dqpush l) s = issued s l (modC s c (fun c => { c with queues := tabSet [] c.queues k (q ++ [getReg t (fRS1 w)]) })))
    ∧ (∀ v r, ready s l 0x48 w = true → dqPushOk l.stream (fld w 26 24) = false → q = v :: r →
        exec (.dqpop l) s = issued s l
          (modStream (modC s c (fun c => { c with queues := tabSet [] c.queues k r })) l (fun t => setReg t (fRD w) v)))
    ∧ dqPushOk l.stream (fld w 26 24) = (if fld w 26 24 < 6 then !isExec l.stream else isExec l.stream)
    ∧ (ready s l 0x47 w = true → dqPushOk l.stream (fld w 26 24) = false → exec (.dqpush l) s = .next (raiseIssue s l xDqDirection))
    ∧ (ready s l 0x48 w = true → dqPushOk l.stream (fld w 26 24) = true → exec (.dqpop l) s = .next (raiseIssue s l xDqDirection))
    ∧ (ready s l 0x47 w = true → dqPushOk l.stream (fld w 26 24) = true → 16 ≤ q.length →
        exec (.dqpush l) s = .next (modStream s l (fun t => { t with wait := .queueFull })))
    ∧ (ready s l 0x48 w = true → dqPushOk l.stream (fld w 26 24) = false → q = [] →
        exec (.dqpop l) s = .next (modStream s l (fun t => { t with wait := .queueEmpty })))
    ∧ (∀ e, ready s l 0x49 w = true → cellHandle s c (regFld t (fld w 17 13) 31 0) = some e →
        versionReached (eVcount e) (regFld t (fld w 22 18) 31 0) = true → exec (.waitv l) s = issued s l s)

/-- TCFG in range joins the instructions in flight; it applies once no earlier OPA or TCFG needs the slot: the new configuration
with the next GEN, the slot's TNSTAT clear and its latches dropped. SCRR writes a listed register into rd; SCRW writes SR_STATE
through the seed rule. -/
def Obligations.ConfigurationInstructions : Prop :=
  ∀ (s : State) (l : StreamLoc) (w op : Nat) (o : Op),
    let c := cellOf l
    let x := getCell s c
    (ready s l 0x07 w = true → noExc (tcfgExcs (tcfgOf w)) = true →
      exec (.tcfg l) s = issued s l (addOp s l none (.tcfg (fld w 13 8) (tcfgOf w))))
    ∧ (∀ n cfg, findOp x.m op = some o → o.kind = .tcfg n cfg →
        x.m.ops.any (fun y => decide (y.id < op) && needsConfig y n) = false →
        exec (.tcfgApply c op) s = .next (modM
          (modC s c (fun k => setStat (setTslot k n { cfg with gen := ((getTslot k n).gen + 1) % 256 }) n {})) c
          (fun m => removeOp (mapEngines (dropLatches (fun i => i == n)) m) op)))
    ∧ (∀ v, ready s l 0x08 w = true → scrValue s l (fld w 43 32) = some v → exec (.scrr l) s = writesReg s l (fRD w) v)
    ∧ (ready s l 0x09 w = true → fld w 43 32 = 0 →
        exec (.scrw l) s = issued s l (modStream s l (fun t => { t with sr := srSeed (getReg t (fRS1 w)) })))

/-! ### Transfers and moves (04, 06) -/

/-- The slots and the store range of an instruction that would issue are free: no TCFG of the slot waits, and no instruction in flight
touches them against it (R104, R138, R139). -/
def Sys2Proof.Machine.slotsFree (m : CellMem) (slot : Nat) (t : Touch) : Bool := !tcfgWaits m slot && !sbHolds m t

/-- A TFETCH or TSTORE with a current handle, no exception due and its slot free captures the entry and joins the instructions in flight;
a TSTORE to a dual entry needs a group that is not COMMITTING. Its rows are then wanted of its memory gate. A transfer in flight that may
act: the next row of a TFETCH whose data has arrived commits to its slot, and the last one sets FILLED and completes the transfer; the
gate accepts the next row of a TSTORE, whose gate transfer has issued, into memory, and the last one completes it; one that a stop request
waits for stops it at the next row; a row that faults stops the transfer at that row. -/
def Obligations.Transfers : Prop :=
  (∀ (s : State) (l : StreamLoc) (w e : Nat),
    let t := getStream s l
    let x := getCell s (cellOf l)
    let slot := fld w 13 8
    let joins := fun (store : Bool) => cellWants (addOp s l none (.transfer
      { store := store, slot := slot, cfg := getTslot x.c slot, ent := e, coord := (getReg t (fld w 23 19)).toNat })) (cellOf l) x.m.nextOp
    cellHandle s (cellOf l) (regFld t (fld w 18 14) 31 0) = some e →
    (ready s l 0x40 w = true → slotsFree x.m slot { writes := [slot] } = true → noExc (transferExcs x false slot e) = true →
      exec (.tfetch l) s = issued s l (joins false))
    ∧ (ready s l 0x41 w = true → slotsFree x.m slot { reads := [slot] } = true → noExc (transferExcs x true slot e) = true →
      (eDual e && (getEpoch (getDie s l.die) (eGroup e)).commit.isSome) = false → exec (.tstore l) s = issued s l (joins true)))
  ∧ (∀ (s : State) (c : CellLoc) (op : Nat) (o : Op) (t : Transfer),
    let x := getCell s c
    let accessed := fun (s : State) => modM s c (fun m => served m op)
    findOp x.m op = some o → o.kind = .transfer t → t.stopped = none → mayAct x o = true → t.row < t.cfg.rows →
    (∀ bits sc, t.store = false → tabGet none t.arrived t.row = some (bits, sc) →
      let x1 := putLine x t.slot t.cfg false t.row bits
      let x2 := { x1 with c := putRowScales x1.c t.slot t.cfg t.row sc }
      exec (.tfetchRowCommit c op) s = .next (if t.row + 1 = t.cfg.rows then
          let x3 := filledSlot x2 t.slot t.cfg none
          settle (setCell s c { x3 with m := removeOp x3.m op }) c
        else setCell s c { x2 with m := setOp x2.m op (.transfer { t with
          row := t.row + 1, arrived := tabSet none t.arrived t.row none }) }))
    ∧ (∀ s1, t.store = true → rowIssued s c op t.row = true → storeRow (rowDone (accessed s) c op t.row) c t = .ok s1 →
      let s2 := gateRanges (dropAnswers s1 c.die) c.die (groupOf c.site) (cellPart (accessed s) c)
        (rowRanges t.ent (writeBase t.ent) t.coord t.row t.cfg.cols)
      exec (.tstoreRowAccept c ⟨op, false⟩) s = .next (storedRow s2 c o t)
      ∧ (t.row + 1 = t.cfg.rows → storedRow s2 c o t = settle (modM s2 c (fun m => removeOp m o.id)) c)
      ∧ (t.row + 1 ≠ t.cfg.rows → t.stopReq = false →
          storedRow s2 c o t = modM s2 c (fun m => setOp m o.id (.transfer { t with row := t.row + 1 })))
      ∧ (t.row + 1 ≠ t.cfg.rows → t.stopReq = true → storedRow s2 c o t =
          recordStop (modStream (modM s2 c (fun m => setOp m o.id (.transfer { t with
            row := t.row + 1, stopReq := false, stopped := some kAsyncStop }))) (opLoc c o)
            (fun t => { t with asyncStop := true })) (opLoc c o)))
    ∧ (∀ k, t.store = false → tabGet 0 t.faults t.row = k → k ≠ 0 → exec (.transferFault c op) s = .next (stopTransfer s c o t k))
    ∧ (∀ k, t.store = true → rowIssued s c op t.row = true → storeRow s c t = .fault k →
        exec (.transferFault c op) s = .next (stopTransfer (rowDone s c op t.row) c o t k)))

/-- A TLD, TST, CASKLD, CASKST or XFETCH with no exception due and its slot and store range free joins the instructions in flight; an
XFETCH asks its memory gate for its transfers and its grants. One access of the move that the store port serves, with no parity error: a
line of a TLD enters its slot with its scales, a line of a TST or of a Cask move its place, and the last line completes the move; a TST
that meets a parity error goes on over the slot rewritten from the store, or, where SRC_VALID is clear, raises TREG_PARITY. An XFETCH of
which a row faults records the fault and raises XFETCH_FAULT behind the issue point. -/
def Obligations.Moves : Prop :=
  (∀ (s : State) (l : StreamLoc) (w : Nat),
    let t := getStream s l
    let x := getCell s (cellOf l)
    let moves := fun (o : Nat) (i : Instr) (store : Bool) =>
      let mv := moveArgs s l store w
      ready s l o w = true → slotsFree x.m mv.slot (moveTouch mv) = true → noExc (moveExcs x mv) = true →
        exec i s = issued s l (addOp s l none (.move mv))
    let casks := fun (o : Nat) (i : Instr) (store : Bool) =>
      let img := fld w 9 8
      let off := regFld t (fld w 19 15) 19 0
      ready s l o w = true → noExc (caskExcs x (ctxOf l.stream) img off) = true →
        sbHolds x.m { range := some (off, 65536, store) } = false →
        exec i s = issued s l (addOp s l (getAcc x.c (getCask x.c img).pt).inst (.cask store img off 0))
    moves 0x42 (.tld l) false ∧ moves 0x43 (.tst l) true ∧ casks 0x45 (.caskld l) false ∧ casks 0x46 (.caskst l) true
    ∧ (∀ e, ready s l 0x44 w = true → cellHandle s (cellOf l) (regFld t (fld w 18 14) 31 0) = some e →
        let f := xfetchArgs s l w e
        xfetchRangeBad f = false → sbHolds x.m { range := some (f.off, xfetchSpan f, true) } = false →
        exec (.xfetch l) s = issued s l (xfetchAsks (addOp s l none (.xfetch f)) (cellOf l) x.m.nextOp f)))
  ∧ (∀ (s : State) (c : CellLoc) (op : Nat) (o : Op),
    let x := getCell s c
    findOp x.m op = some o →
    (∀ mv, portServes x o = true → o.kind = .move mv →
      let access := fun (s : State) =>
        let x := getCell s c
        let x1 := if mv.store then tstLine x mv else tldLine x mv
        if mv.line + 1 < moveLines mv.cfg mv.col then
          setCell s c { x1 with m := setOp x1.m op (.move { mv with line := mv.line + 1 }) }
        else settle (setCell s c { x1 with m := removeOp x1.m op }) c
      let s0 := modM s c (fun m => served m op)
      exec (.internalAccess c op false) s = .next (access s0)
      ∧ (mv.store = true → (getTslot x.c mv.slot).srcValid = true →
          exec (.internalAccess c op true) s = .next (access (parityRetry s0 c mv.slot)))
      ∧ (mv.store = true → (getTslot x.c mv.slot).srcValid = false → canRaise s (opLoc c o) = true →
          exec (.internalAccess c op true) s = .next (parityFail s c o mv.slot)))
    ∧ (∀ store img off line, portServes x o = true → o.kind = .cask store img off line →
      let x1 := caskLine x store img off line
      let m1 := served x1.m op
      exec (.internalAccess c op false) s = .next (if line + 1 < 256 then
          setCell s c { x1 with m := setOp m1 op (.cask store img off (line + 1)) }
        else settle (setCell s c { x1 with m := removeOp m1 op }) c))
    ∧ (∀ f k, o.kind = .xfetch f → f.fault = none → mayAct x o = true → canRaise s (opLoc c o) = true →
      xfetchTiles s c f f.nt = .fault k →
      exec (.xfetchFault c op) s = .next (raiseXfetch s c o f k)))

/-! ### Execute instructions (05, 06) -/

/-- ACC_OPEN of an unbound name: with ANY it makes a new binding, on an engine that is not enabled it marks the name absent and
counts, and on a FREE tile it makes the binding and clears the tile. ACC_CLOSE, SPILL and RESUME of a bound name with no exception
due join the chain of the binding, and what can run runs; ACC_CLOSE ends the binding of the name. -/
def Obligations.AccumulatorNames : Prop :=
  ∀ (s : State) (l : StreamLoc) (w inst : Nat),
    let c := cellOf l
    let x := getCell s c
    let ctx := ctxOf l.stream
    let an := fld w 13 11
    let pt := fld w 17 15
    (ready s l 0x61 w = true → noExc (openExcs x ctx an (bit w 14) pt) = true →
      (bit w 14 = true → exec (.accOpen l) s = issued s l (setCell s c (newBinding x ctx an)))
      ∧ (bit w 14 = false → engEnabled x.c (pt / 2) = false →
          exec (.accOpen l) s = issued s l (countAbsent (modC s c (fun c => setName c ctx an .absent)) c))
      ∧ (bit w 14 = false → engEnabled x.c (pt / 2) = true → tileFree x.c pt = true →
          let y := newBinding x ctx an
          exec (.accOpen l) s = issued s l (setCell s c { y with c := bindTile y.c pt x.m.nextOp ctx an })))
    ∧ (getName x.c ctx an = .bound inst →
      (ready s l 0x62 w = true → exec (.accClose l) s = issued s l (chainOp (unbind s l an) l inst .close))
      ∧ (ready s l 0x66 w = true → noExc (spillExcs x ctx (ahead x inst) (fld w 15 14)) = true →
          exec (.spill l) s = issued s l (chainOp s l inst (.spill (fld w 15 14) (fld w 25 16))))
      ∧ (ready s l 0x67 w = true → (ahead x inst).spec.any ImgSpec.repro = false →
          exec (.resume l) s = issued s l (chainOp s l inst .resume)))

/-- An OPA of a bound name with no exception due and its slots' configurations settled: without a mask it becomes a tile task while its
context may take a slot, and with K = 0 an operation of the chain; with a mask whose lines are in the cache, a suppressed OPA creates no
task and is counted. A miss holds the OPA; the fill of its missing lines lets it issue. The fill of the missed mask lines of an OPA that
waits for them: every line that the gate has issued and that can be read enters the mask cache, and the OPA then issues under its own rules (R256); with no exception
due, no TCFG waiting, K above zero and a slot free, a tile whose mask allows it becomes a tile task, and one whose mask does not is
suppressed and counted. -/
def Obligations.OuterProduct : Prop :=
  (∀ (s : State) (l : StreamLoc) (w inst : Nat),
    let c := cellOf l
    let x := getCell s c
    let g := opaArgs s l w
    ready s l 0x60 w = true → getName x.c (ctxOf l.stream) (fld w 13 11) = .bound inst →
    noExc (opaExcs x (ctxOf l.stream) (ahead x inst) g) = true → g.slots.any (tcfgWaits x.m) = false →
    (g.mask = none → g.k ≠ 0 → taskSlotFree x.m (ctxOf l.stream) = true →
      exec (.opa l) s = issued s l (countTask (addOp s l (some inst) (.task (opaTask g))) c))
    ∧ (g.mask = none → g.k = 0 →
      exec (.opa l) s = issued s l (chainOp s l inst (.opaZero (opaTask g))))
    ∧ (∀ e, g.mask = some e → (maskMissing x.m e g.index).isEmpty = true → maskAllows x.m e g.index = false →
      exec (.opa l) s = issued s l
        (countSuppressed (modM s c (fun m => { m with mask := (maskLines e g.index).foldl touchMask m.mask })) c))
    ∧ (∀ e, g.mask = some e → (maskMissing x.m e g.index).isEmpty = false →
      exec (.opa l) s = .next (modStream (askTransfer s l.die (groupOf l.site) (.mask l.site l.stream)) l
        (fun t => { t with wait := .memoryLate }))))
  ∧ (∀ (s : State) (l : StreamLoc) (w e va inst : Nat) (bs : List Byte),
    let c := cellOf l
    let t := getStream s l
    let s1 := dropAnswers (modM (maskDone s c va) c (fun m => { m with mask := addMask m.mask { va := va, data := leNat bs } })) c.die
    let x := getCell s1 c
    let g := opaArgs s1 l w
    let s2 := modM s1 c (fun m => { m with mask := (maskLines e g.index).foldl touchMask m.mask })
    t.st = .running → t.wait = .memoryLate → wordAt s l t.pc.toNat = some w → cellHandle s c (regFld t (fld w 56 52) 31 0) = some e →
    maskMissing (getCell s c).m e (regFld t (fld w 56 52) 63 32) = [va] → maskIssued s c va = true →
    readEntBytes s c.die (cellCaches s c) (cellPart s c) e (readBase e) (va - readBase e) 64 = .ok bs →
    exec (.maskLineFill l) s = exec (.opa l) s1
    ∧ (ready s1 l 0x60 w = true → getName x.c (ctxOf l.stream) (fld w 13 11) = .bound inst →
      noExc (opaExcs x (ctxOf l.stream) (ahead x inst) g) = true → g.slots.any (tcfgWaits x.m) = false →
      g.mask = some e → (maskMissing x.m e g.index).isEmpty = true →
      (maskAllows x.m e g.index = true → g.k ≠ 0 → taskSlotFree x.m (ctxOf l.stream) = true →
        exec (.maskLineFill l) s = issued s1 l (countTask (addOp s2 l (some inst) (.task (opaTask g))) c))
      ∧ (maskAllows x.m e g.index = false → exec (.maskLineFill l) s = issued s1 l (countSuppressed s2 c))))

/-- A DRAIN of a bound name to a destination with no exception due and the configurations settled ends the binding of the name and
joins the chain with its rounding draws. A RED joins the chain of its name, whose binding ends, or the instructions in flight with
its slot. -/
def Obligations.DrainAndRed : Prop :=
  ∀ (s : State) (l : StreamLoc) (w inst : Nat),
    let c := cellOf l
    let x := getCell s c
    let t := getStream s l
    let an := fld w 13 11
    let wfmt := fld w 29 25
    let tag := regFld t (fld w 24 20) 11 0
    let slot := fld w 19 14
    (∀ dest, ready s l 0x63 w = true → getName x.c (ctxOf l.stream) an = .bound inst →
      destOf s l (fld w 15 14) (fld w 21 16) (fld w 26 22) = some dest →
      let d := drainArgs s l w dest
      let p := drawFor s l d.rnd ((drainShape d).rows * (drainShape d).cols)
      noExc (drainExcs x w d) = true → drainTcfg x w = false →
      exec (.drain l) s = issued s l (chainOp (unbind p.2 l an) l inst (.drain { d with
        draws := p.1, srWas := (getStream s l).sr, srNow := (getStream p.2 l).sr })))
    ∧ (ready s l 0x65 w = true → bit w 8 = true → getName x.c (ctxOf l.stream) an = .bound inst →
      noExc (redAccExcs s c (ahead x inst) wfmt) = true →
      exec (.red l) s = issued s l (chainOp (unbind s l an) l inst (.redAcc wfmt tag (regFld t (fld w 24 20) 21 12) none)))
    ∧ (ready s l 0x65 w = true → bit w 8 = false → noExc (redSlotExcs s c slot wfmt) = true →
      slotsFree x.m slot { reads := [slot] } = true →
      exec (.red l) s = issued s l (addOp s l none (.redSlot slot wfmt tag (getTslot x.c slot))))

/-- The EW instructions by OP code (Table 6.8). -/
def Sys2Proof.Machine.ewTable (l : StreamLoc) (p : Option Nat) : List (Nat × Instr) :=
  [(0x00, .ewCvt ⟨l, p⟩), (0x01, .ewAdd ⟨l, p⟩), (0x02, .ewSub ⟨l, p⟩), (0x03, .ewMul ⟨l, p⟩), (0x04, .ewFma ⟨l, p⟩), (0x05, .ewMax ⟨l, p⟩),
    (0x06, .ewMin ⟨l, p⟩), (0x07, .ewAbs ⟨l, p⟩), (0x08, .ewNeg ⟨l, p⟩), (0x09, .ewClamp ⟨l, p⟩), (0x0A, .ewSel ⟨l, p⟩), (0x0B, .ewAxpby ⟨l, p⟩),
    (0x0C, .ewDiv ⟨l, p⟩), (0x0D, .ewSqrt ⟨l, p⟩), (0x0E, .ewRsqrt ⟨l, p⟩), (0x0F, .ewRecip ⟨l, p⟩), (0x10, .ewExp ⟨l, p⟩), (0x11, .ewLog ⟨l, p⟩),
    (0x12, .ewFn ⟨l, p⟩), (0x13, .ewDfn ⟨l, p⟩), (0x14, .ewRsum ⟨l, p⟩), (0x15, .ewRsumsq ⟨l, p⟩), (0x16, .ewRmax ⟨l, p⟩), (0x17, .ewCsum ⟨l, p⟩)]

/-- What an EW comes to when the drain unit takes it: with no parity error its whole effect; a parity error in a slot that it reads is
first retried from the store where SRC_VALID is set and the port is free, and where it is clear the EW raises TREG_PARITY and stays. -/
def Sys2Proof.Machine.ewRuns (s : State) (c : CellLoc) (o : Op) (e : EwOp) (perr : Option Nat) (out : State → Res) (r : Res) : Prop :=
  let x := getCell s c
  let bad := ewParity e.op e.g perr
  let s0 := modM s c (fun m => served m o.id)
  (bad = none → r = out (ewEffect s0 c o e))
  ∧ (∀ t, bad = some t → (getTslot x.c t).srcValid = true → portTaken x = false → r = out (ewEffect (parityRetry s0 c t) c o e))
  ∧ (∀ t, bad = some t → (getTslot x.c t).srcValid = false → canRaise s (opLoc c o) = true → r = out (parityFail s c o t))

/-- Every EW instruction with a destination, no exception due and nothing that holds it issues, with its configurations and its random
draws. Where the drain unit can take it then, it takes its whole effect: the converted result in its destination, its flags and the
count of its lines. Otherwise it waits in flight, and has that effect once its turn has come. A parity error in a slot that it reads
is retried from the store where SRC_VALID is set; where it is clear the EW stays in flight with TREG_PARITY. -/
def Obligations.ElementWise : Prop :=
  ∀ (s : State) (l : StreamLoc) (w : Nat) (d : Dest) (perr : Option Nat) (p : Nat × Instr), p ∈ ewTable l perr →
    let c := cellOf l
    let x := getCell s c
    let g := ewArgs (getStream s l) w
    let q := ewOp s l p.1 g d
    let o : Op := { id := x.m.nextOp, stream := l.stream, pc := (getStream s l).pc.toNat, inst := none, kind := .ew q.1 }
    let s1 := addOp q.2 l none (.ew q.1)
    (ready s l 0x64 w = true → fld w 13 8 = p.1 → destOf s l g.dkind g.dslot g.dreg = some d → heldEw s l p.1 = none →
      ewTcfg x p.1 g = false → noExc (ewExcs x p.1 g d) = true → ewHolds x p.1 g d = false →
      (ewTurn (getCell s1 c) o q.1 = true → ewRuns s1 c o q.1 perr (issued s l) (exec p.2 s))
      ∧ (ewTurn (getCell s1 c) o q.1 = false → exec p.2 s = issued s l s1))
    ∧ (∀ o e, heldEw s l p.1 = some (o, e) → ewRuns s c o e perr .next (exec p.2 s))

/-! ### Engines and the drain unit (03, 05) -/

/-- The operation at the head of an unplaced name's chain binds a FREE tile of the engine that R129 chooses. A waiting task at the head of
its chain, bound to a tile and free of conflicts, becomes READY. An idle engine with no RUNNING task chooses the oldest task of the
context that R130 chooses, and dispatches it; at a spill point it turns to the task of its other tile that has a ready step. An engine
that takes steps of its task enters the next slot of a ring, whose format and block axis agree with the OPA; a slot without vectors is
left at once. With both slots entered, both vectors held and no turn to its other tile due it takes one rank-one step. -/
def Obligations.EngineTasks : Prop :=
  (∀ (s : State) (c : CellLoc) (op eng : Nat) (o : Op),
    let x := getCell s c
    (∀ h e pt, findOp x.m op = some o → needsPlacement x.c o = true → isHead x.m o = true →
      ((taskOf o).isSome = true → opHeld x o = false) →
      (isOpa o = true → sbClear x.m o = true) → o.inst.bind (getChain x.c) = some h → placeEngine x = some e → engFreeTile x.c e = some pt →
      exec (.taskPlacement c op) s = .next (settle (modC s c (fun k => bindTile k pt h.inst h.ctx h.an)) c))
    ∧ (∀ t, findOp x.m op = some o → o.kind = .task t → t.st = .waiting → isHead x.m o = true → (opTile x o).isSome = true →
      mayAct x o = true → opHeld x o = false →
      exec (.taskReady c op) s = .next (modM s c (fun m => setOp m op (.task { t with st := .ready }))))
    ∧ (∀ first rest k t pt,
      let able := (engTasks x eng (fun _ => true)).filter (choosable x)
      let p := chooseContext x.c.sched (getEngine x.m eng) (fun k => able.any (fun o => opCtx o == k)) (opCtx first)
      let s1 := modM s c (fun m => setEngineOf m eng p.2)
      eng < 4 → (getEngine x.m eng).cur = none → engTasks x eng (fun t => t.st == .running) = [] →
      able = first :: rest → p.1 = some k → able.find? (fun o => opCtx o == k) = some o → taskOf o = some t → opTile x o = some pt →
      exec (.taskChoice c eng) s = .next (dispatch s1 c eng o t pt))
    ∧ (∀ id t pt, eng < 4 → (getEngine x.m eng).cur = some id → (getEngine x.m eng).turn = true → turnTo x eng id = some o →
      taskOf o = some t → opTile x o = some pt → exec (.taskChoice c eng) s = .next (dispatch s c eng o t pt)))
  ∧ (∀ (s : State) (c : CellLoc) (eng : Nat) (sideB : Bool) (o : Op) (t : Task) (pt : Nat),
    let x := getCell s c
    let r := ringOf t sideB
    let y := getTslot x.c (ringSlot r)
    let e := getEngine x.m eng
    curTask x eng = some (o, t, pt) → stepping t = true →
    (r.entered = false → (r.len = 1 ∨ y.filled = true) → (y.saxis = 0 ∨ y.saxis = (if r.row then 2 else 1)) → y.fmt = r.fmt →
      let p := if redExtent y r.row = 0 then leaveSlot x.c r else (x.c, { r with entered := true })
      exec (.slotEntry c eng sideB) s = .next (setCell s c { c := p.1, m := setOp x.m o.id (.task (setRing t sideB p.2)) }))
    ∧ (t.a.entered = true → t.b.entered = true → e.collA.retry = none → e.collB.retry = none →
      (latchHit x e t = true ∨ tagOf e.collA.cur = some (needGroup t.a)) → tagOf e.collB.cur = some (needGroup t.b) →
      (e.turn = false ∨ turnTo x eng o.id = none) →
      exec (.rankOneStep c eng) s = .next (takeStep s c eng o t pt)))

/-- A collector of an entered ring fetches its next block group; a parity error in a slot that a TLD filled is retried from the store, and
the retry, once the port is free, rewrites the slot, is counted and goes on with the fetch; one in another slot stops the task with
TREG_PARITY. At a spill point the engine spills the tile of its task once the
drain unit's input stage accepts it, the older of its tiles first. After the last step the task leaves its engine and frees its slot. The
drain unit reads the tile or image of a DRAIN, or of a RED of a name, at the head of its chain once its input stage accepts it, which
frees the tile; a parity error of ZSLOT is first retried from the store. The converted result of a DRAIN reaches its destination with its
flags, completes the DRAIN and counts; that of an EW that waited for the store is written there; the result of the oldest RED goes to
the cell's reduction route. Accesses of the cell that waited for the write are served then. -/
def Obligations.EngineMemory : Prop :=
  (∀ (s : State) (c : CellLoc) (eng : Nat) (sideB : Bool) (o : Op) (t : Task) (pt : Nat),
    let x := getCell s c
    let r := ringOf t sideB
    let e := getEngine x.m eng
    let k := collOf e sideB
    (∀ slot g, curTask x eng = some (o, t, pt) → stepping t = true → r.entered = true → k.retry = none →
      fetchGroup x.c r k = some (slot, g) →
      exec (.groupFetch c eng sideB false) s = .next (modM s c (fun m => setEngineOf m eng (setColl e sideB (fetched x.c r k))))
      ∧ ((getTslot x.c slot).srcValid = true → exec (.groupFetch c eng sideB true) s =
          .next (modM s c (fun m => setEngineOf m eng (setColl e sideB { k with retry := some slot }))))
      ∧ ((getTslot x.c slot).srcValid = false → canRaise s (opLoc c o) = true → exec (.groupFetch c eng sideB true) s =
          .next (stopTask (recParity s c o 1 eng slot) c eng xTregParity o t)))
    ∧ (∀ slot, k.retry = some slot → portTaken x = false → (getTslot x.c slot).srcValid = true →
      let s1 := parityRetry s c slot
      let y := getCell s1 c
      let e1 := getEngine y.m eng
      let k1 := { collOf e1 sideB with retry := none }
      (curTask y eng = none →
        exec (.parityRetryWrite c eng sideB) s = .next (setCell s1 c { y with m := setEngineOf y.m eng (setColl e1 sideB k1) }))
      ∧ (∀ o' t' pt', curTask y eng = some (o', t', pt') → exec (.parityRetryWrite c eng sideB) s =
          .next (setCell s1 c { y with m := setEngineOf y.m eng (setColl e1 sideB (fetched y.c (ringOf t' sideB) k1)) })))
    ∧ ((engTasks x eng (fun t => t.st == .running && t.needSpill)).find? (fun o => (opTile x o).any (inputFree x)) = some o →
      taskOf o = some t → opTile x o = some pt →
      exec (.spillPoint c eng) s = .next (settle (modM (spillTile s (opLoc c o) pt) c (fun m => spillDone x m eng o t)) c))
    ∧ ((engTasks x eng (fun t => t.st == .running && t.step == t.k && !t.needSpill)).head? = some o →
      let left := fun (e : Engine) => if e.cur = some o.id then { e with cur := none, turn := false } else e
      exec (.lastSlice c eng) s = .next (settle (modM s c (fun m => removeOp (setEngineOf m eng (left (getEngine m eng))) o.id)) c)))
  ∧ (∀ (s : State) (c : CellLoc) (op : Nat) (o : Op),
    let x := getCell s c
    let s0 := modM s c (fun m => served m op)
    let wrote := fun (t : State) => serveCell (getCell t c).m.access.length t c
    findOp x.m op = some o →
    (∀ d pt, isHead x.m o = true → opTile x o = some pt → inputFree x pt = true → o.kind = .drain d → d.taken = none → o.bad = false →
      let reads := fun (s : State) =>
        let p := takeTile s (opLoc c o) pt
        settle (modM p.1 c (fun m => setOp m op (.drain { d with taken := some p.2 }))) c
      exec (.drainRead c ⟨op, false⟩) s = .next (reads s0)
      ∧ (d.fmode = 2 → mayAct x o = true → (getTslot x.c d.zslot).srcValid = true → portTaken x = false →
          exec (.drainRead c ⟨op, true⟩) s = .next (reads (parityRetry s0 c d.zslot))))
    ∧ (∀ wfmt tag win pt, isHead x.m o = true → opTile x o = some pt → inputFree x pt = true → o.kind = .redAcc wfmt tag win none →
      let p := takeTile s (opLoc c o) pt
      exec (.drainRead c ⟨op, false⟩) s = .next (settle (modM p.1 c (fun m => setOp m op (.redAcc wfmt tag win (some p.2)))) c))
    ∧ (∀ d t, o.kind = .drain d → d.taken = some t → mayAct x o = true → (∀ id, x.m.outHeld = some id → id = op) →
      (toStore d.dest && x.c.grant.isSome) = false →
      let s0 := modM s c (fun m => { m with outHeld := none })
      let x0 := getCell s0 c
      let sh := drainShape d
      let f := (fmtOfCode d.fmt).getD .fp32
      let k := convTile f ((rndOfCode d.rnd).getD .rne) sh.sat sh.saxis sh.rows sh.cols (drainVal x0 d t) d.draws
      let y := putConv x0 d.dest f d.cfg sh.rows sh.cols k
      let s1 := setCell s0 c { y with m := removeOp y.m op }
      exec (.drainResultWrite c op) s = .next
        (wrote (settle (bump (flagDest s1 (opLoc c o) d.dest k.flags) c.die (setCellSet c.site) 4 1) c)))
    ∧ (∀ e r, o.kind = .ew e → e.out = some r → x.c.grant = none →
      exec (.drainResultWrite c op) s = .next (wrote (ewWrite s c o e r)))
    ∧ (∀ wfmt tag win t slot r, o.kind = .redAcc wfmt tag win (some t) → (firstRed x.m).any (fun f => f.id == op) = true →
      cellRedRoute s c = some (slot, r) → (getRoute (getDie s c.die) slot r).outq = [] →
      let p := redAccItem t wfmt tag win
      exec (.drainResultWrite c op) s = .next (wrote (flagAcc (queueItem s c.die slot r p.1) (opLoc c o) t.pt p.2))))

/-! ### Actions on streams and the registers of a cell (05, 06) -/

/-- A write that takes effect is acknowledged to its agent. -/
def Sys2Proof.Machine.acked (agent : Nat) (t : State) : Res := .next (emit t (.ack agent))

/-- A write of STREAM_ACT by an agent that reaches the cell, where no earlier access to the cell waits, has the effect of Table 6.20 in
the states that allow it, and is acknowledged: START in IDLE and HALTED; RETRY and SKIP in EXCEPTION, each of which also lets transfers
that a stop of the exception's beat stopped go on, a SKIP moving past the instruction or ending it where it has issued; STOP in RUNNING,
and in the beat of an exception; RESUME in STOPPED. In every other state each of the five only sets ACT_IGNORED. -/
def Obligations.StreamActions : Prop :=
  ∀ (s : State) (agent : Nat) (l : StreamLoc),
    let t := getStream s l
    let c := cellOf l
    let ignored := acked agent (modStream s l (fun t => { t with actIgnored := true }))
    reachesCell s agent c = true → cellHeld s c = false → l.stream < 6 →
    (t.st = .idle ∨ t.st = .halted →
      exec (.streamStart agent l) s = acked agent (modStream s l (fun t => { t with st := .running, loops := [], wait := .none })))
    ∧ (t.st = .exception → exec (.streamRetry agent l) s = acked agent (retryStream (goOn (restartAsync s l) l) l))
    ∧ (t.st = .exception → t.excOp = none → exec (.streamSkip agent l) s = acked agent (goOn (restartAsync (modStream s l (fun t =>
        { t with loops := (loopBack t.loops t.pc.toNat).1, pc := BitVec.ofNat 32 (loopBack t.loops t.pc.toNat).2 })) l) l))
    ∧ (∀ id, t.st = .exception → t.excOp = some id → exec (.streamSkip agent l) s = acked agent (retryStream (goOn (restartAsync
        (modCell (modStream s l (undraw (getCell s c) id)) c (fun x => skipOp x id)) l) l) l))
    ∧ (t.st = .running ∨ (t.st = .exception ∧ t.excAt = some (beatNow s l)) →
      exec (.streamStop agent l) s = acked agent (stopStream s l))
    ∧ (t.st = .stopped →
      let async := t.sflt.valid && t.sflt.kind == kAsyncStop
      let s1 := modM s c (fun m =>
        dropStops (restartTransfers (resumeTasks m l.stream) l.stream (fun k => async || k == kAsyncStop)) l.stream)
      exec (.streamResume agent l) s = acked agent
        (settle (goOn (modStream s1 l (fun t => { (if async then clearSflt t else t) with asyncStop := false })) l) c))
    ∧ (t.st ≠ .idle → t.st ≠ .halted → exec (.streamStart agent l) s = ignored)
    ∧ (t.st ≠ .exception → exec (.streamRetry agent l) s = ignored ∧ exec (.streamSkip agent l) s = ignored)
    ∧ (t.st ≠ .running → ¬(t.st = .exception ∧ t.excAt = some (beatNow s l)) → exec (.streamStop agent l) s = ignored)
    ∧ (t.st ≠ .stopped → exec (.streamResume agent l) s = ignored)

/-- With transfers of an access stream stopped, RESUME of SFLT_ACT lets each go on from its row and CANCEL retires each, a cancelled
TFETCH leaving its slot INVALID; either clears the record and lets a FAULTED stream run. -/
def Obligations.FaultResolution : Prop :=
  ∀ (s : State) (agent : Nat) (l : StreamLoc),
    let c := cellOf l
    let held := stoppedOf (getCell s c).m l.stream
    reachesCell s agent c = true → cellHeld s c = false → l.stream < 6 → isExec l.stream = false → held ≠ [] →
    exec (.sfltResume agent l) s = acked agent (resumeIssue (modM s c (fun m => restartTransfers m l.stream (fun _ => true))) l)
    ∧ exec (.sfltCancel agent l) s = acked agent (resumeIssue (modM (modCell s c (fun x => cancelSlots x held)) c
        (fun m => { m with ops := m.ops.filter (fun o => !(held.map (fun p => p.1.id)).contains o.id) })) l)

/-- A write of a cell's register by an agent that reaches it, where no earlier access waits, takes effect and is acknowledged: STREAM_PC in IDLE and HALTED (in any other
state it sets ACT_IGNORED), SR_STATE by the seed rule, the weights and priorities of SCHED_CTL (priorities that do not name three contexts
are ignored), the enables of ENG_CTL, and a table register that no DRAIN or EW uses; the write of one in use waits, unacknowledged, and so
does every later access to the cell. A write of a register through a mask aperture reaches every
selected present site in turn, and is acknowledged once none of its effects is held. -/
def Obligations.CellRegisterWrites : Prop :=
  (∀ (s : State) (agent : Nat) (l : StreamLoc) (v : W64) (u : W32) (deriv : Bool) (idx : Nat),
    let c := cellOf l
    let t := getStream s l
    let waits := fun (off v : Nat) => holdAccess s c { agent := agent, write := true, off := off, mask := 2 ^ 64 - 1, val := v }
    (reachesCell s agent c = true → tableUsed (getCell s c).m deriv = true →
      exec (.dtabWrite agent c deriv idx u) s = .next (waits (dtabOff deriv idx) u.toNat))
    ∧ (reachesCell s agent c = true → cellHeld s c = true → exec (.engCtlWrite agent c u) s = .next (waits 0x10 u.toNat))
    ∧ (reachesCell s agent c = true → cellHeld s c = false → l.stream < 6 →
    (t.st = .idle ∨ t.st = .halted →
      exec (.streamPcWrite agent l v) s = acked agent (modStream s l (fun t => { t with pc := BitVec.ofNat 32 v.toNat })))
    ∧ (t.st ≠ .idle → t.st ≠ .halted →
      exec (.streamPcWrite agent l v) s = acked agent (modStream s l (fun t => { t with actIgnored := true })))
    ∧ exec (.srStateWrite agent l v) s = acked agent
        (modStream s l (fun t => { t with sr := if v = 0 then 0x9E3779B97F4A7C15 else v }))
    ∧ exec (.schedCtlWrite agent c u) s = acked agent (modC s c (fun k => { k with sched := schedWrite k.sched u.toNat }))
    ∧ exec (.engCtlWrite agent c u) s = acked agent (modC s c (fun k => { k with engEn := BitVec.ofNat 4 u.toNat }))
    ∧ (tableUsed (getCell s c).m deriv = false →
      exec (.dtabWrite agent c deriv idx u) s = acked agent (modM s c (fun m => mapDtab m deriv (fun t => tabWriteReg t idx u))))))
  ∧ (∀ (s : State) (agent : Nat) (d : DieId) (sector : Bool) (mask off size : Nat) (v : W64),
    let r := maskWrite s agent d sector mask (off / 8 * 8) (regW off size v.toNat)
    reachesDie s agent d = true → regSized off size = true → off < 0x10000 → mask < 0x10000 → r.2 = true →
    exec (.broadcastWrite agent d sector mask off size v) s = acked agent r.1)

/-- A gate starts the grant of the request whose turn it is, for the part of an XFETCH that has arrived and for the next item of a data
route; its end writes the bytes into the store, frees the gate, gives waiting internal accesses their turn and starts MIN_GAP, and its
expiry frees the cell for the next grant. -/
def Obligations.Grants : Prop :=
  ∀ (s : State) (d : DieId) (group site : Nat),
    let c : CellLoc := { die := d, site := site }
    let x := getCell s c
    (∀ op o f tiles, grantTurn s d group (.xfetch site op) = true → findOp x.m op = some o → o.kind = .xfetch f →
      xfetchTiles s c f f.nt = .ok tiles →
      exec (.grantStart d group (.xfetch site op)) s = .next (dropAnswers (startGrant s d group site (.xfetch site op)
        { kind := 0, off := f.off + f.done, data := xfetchPart x.m f tiles, op := some op, route := none }) d))
    ∧ (∀ slot route a h off bs, grantTurn s d group (.delivery slot route) = true → rtAt s d slot route = some a →
      routeHead s (dstOf a route) route = some (.tile h off bs) →
      let at_ := deliverOff a.bill route (getRoute (getDie s d) slot route) off bs
      at_ + bs.length ≤ storeSize →
      exec (.grantStart d group (.delivery slot route)) s = .next (startGrant s d group (dstOf a route).place (.delivery slot route)
        { kind := extKind a.kind, off := at_, data := bs, op := none, route := some (rtKey slot route, true) }))
    ∧ (∀ g op, (getGate (getDie s d) group).grantSite = some site → x.c.grant = some g → g.data ≠ [] → g.op = some op → g.route = none →
      let s1 := modCell (modGate s d group (fun g => { g with grantSite := none })) c (fun x => writeStore x g.off g.data)
      exec (.grantEnd d group) s = .next (xfetchGranted
        (modCell s1 c (fun x => markWaits { x with c := { x.c with grant := none, gapRun := x.c.minGap != 0 } })) c op))
    ∧ (x.c.gapRun = true → exec (.minGapExpiry c) s = .next (modC s c (fun k => { k with gapRun := false })))

/-- A sector controller that answers a check restarts its time. One that has given no answer for 100,000 ns fails: the streams of its
sites stop, a record of class CONTROL, code SECTOR_FAILED names the sector, and its sites become absent. -/
def Obligations.SectorControllers : Prop :=
  ∀ (s : State) (d : DieId) (sec : Nat),
    let x := getDie s d
    x.clk.running = true → sec < 16 → s.hd.sec.applying ≠ dieNum d + 1 →
    exec (.sectorCheck d sec true) s = .next
      (modDie s d (fun x => { x with fuse := { x.fuse with lastAnswer := tabSet 0 x.fuse.lastAnswer sec x.clk.tb } }))
    ∧ (x.fuse.failed.toNat.testBit sec = false → tabGet 0 x.fuse.lastAnswer sec + 100000 ≤ x.clk.tb →
      let sites := (List.range 272).filter (fun n => sectorOf n == sec && siteEnabled x n)
      exec (.sectorFailed d sec) s = .next (modDie
        (logErr (sites.foldl (fun s n => stopSite s d n) s) (some d)
          { cls := 0x0C, code := 1, unitKind := 0x0A, unitIndex := sec, detail := sec }) d
        (fun x => { x with fuse := { x.fuse with failed := x.fuse.failed ||| BitVec.ofNat 16 (2 ^ sec) } })))

/-! ### The Floor: routes, stations, micro-batches (07) -/

/-- A route with a credit, in its turn on its first ring link, sends the next line of its oldest item onto that link, which has then served
it last: a line before the last only counts,
the last line of a data item puts the item in flight and counts it, and a token, one line long, goes in flight. The contribution of a RED
of a slot is first formed from the slot. The oldest item in flight whose every line has taken the route's last ring link reaches the input
port: a data item joins the station's items in order
of presentation, and a cell's asks its memory gate for a grant; a token that gates something waits there, one at a station with a FIFO of frames is sent on, and one that gates nothing is
consumed, its line owed as a credit. A credit owed returns to the source. A due semaphore release is applied while the semaphore is below
255. -/
def Obligations.RouteTraffic : Prop :=
  (∀ (s : State) (d : DieId) (slot route : Nat) (a : StAt) (i : Item) (rest : List Item),
    let s1 := match redReady s a route with
      | some o => redForm (modM s { die := d, site := a.place } (fun m => served m o.id)) a route o
      | none => s
    let x := getRoute (getDie s1 d) slot route
    let x1 := { x with credits := x.credits - 1, transit := x.transit ++ [min 1 (routeLinks a route).length] }
    let set := setStationSet a.kind a.place
    let put := fun (y : Route) => freeOut (modRoute (tookLink s1 a route 0) d slot route (fun _ => y)) a route 1
    let gone := put { x1 with outq := rest, sentLines := 0, flight := x.flight ++ [i] }
    rtAt s d slot route = some a → sourcesStopped s a = false → siteLost s a = false → x.outq = i :: rest →
    lineReady s1 a route = true → linkTurn s1 a route = true →
    (∀ h off bs, i = .tile h off bs → x.sentLines + 1 < itemLines i →
      exec (.lineSend d slot ⟨route, false⟩) s = .next (bump (put { x1 with sentLines := x.sentLines + 1 }) d set 2 1))
    ∧ (∀ h off bs, i = .tile h off bs → x.sentLines + 1 = itemLines i →
      exec (.lineSend d slot ⟨route, false⟩) s = .next (bump (bucketSent (redSent (bump gone d set 2 1) a route) a h) d set 1 1))
    ∧ (∀ q arg, i = .token q arg → x.sentLines = 0 → exec (.lineSend d slot ⟨route, false⟩) s = .next gone))
  ∧ (∀ (s : State) (d : DieId) (slot route : Nat) (a : StAt) (i : Item) (rest : List Item),
    let x := getRoute (getDie s d) slot route
    let dst := dstOf a route
    let s1 := modRoute s d slot route (fun x => { x with
      flight := rest, inbox := x.inbox ++ [i], transit := x.transit.drop (itemLines i) })
    rtAt s d slot route = some a →
    (x.flight = i :: rest → itemArrived a route x = true →
      (∀ h off bs, i = .tile h off bs →
        let s2 := stMod s1 dst 0 (fun x => { x with order := x.order ++ [route] })
        exec (.itemPresent d slot route) s = .next (if dst.kind = 1 then askGrant s2 d (groupOf dst.place) [.delivery slot route]
          else if [4, 6, 7].contains dst.kind then stAsks s2 dst else sendChain s2 dst))
      ∧ (∀ q arg, i = .token q arg → dst.kind = 9 ∨ dst.kind = 10 →
        exec (.itemPresent d slot route) s = .next (sendChain (stMod s1 dst 0 (fun x => { x with order := x.order ++ [route] })) dst))
      ∧ (∀ q arg, i = .token q arg → dst.kind ≠ 9 → dst.kind ≠ 10 → (rtGating a.bill route || dst.kind == 11) = true →
        exec (.itemPresent d slot route) s = .next s1)
      ∧ (∀ q arg, i = .token q arg → dst.kind ≠ 9 → dst.kind ≠ 10 → (rtGating a.bill route || dst.kind == 11) = false →
        exec (.itemPresent d slot route) s = .next (consumeHead s1 dst route)))
    ∧ (x.owed ≠ 0 → exec (.creditReturn d slot route) s =
        .next (modRoute s d slot route (fun x => { x with owed := x.owed - 1, credits := x.credits + 1 })))
    ∧ (∀ sem, let c : CellLoc := { die := d, site := dst.place }
        let k := (getCell s c).c
        dst.kind = 1 → k.semWait.find? (fun p => p.1 == route) = some (route, sem) → getSem k sem < 255 →
        exec (.routeRelease d slot route) s =
          .next (modC s c (fun k => { setSem k sem (getSem k sem + 1) with semWait := k.semWait.erase (route, sem) }))))

/-- A station that may begin, whose gate has read what it captures, and whose captures succeed, begins its next micro-batch; one whose work is done ends it, emits its DONE
tokens with the micro-batch's number and argument, and counts. Within a micro-batch, once the gate transfers of its next step are there, a
drain stage writes its next item of the tile's size through its captured entry; a relay writes it through its entry and sends it on; a
memory-gate context reads and sends the next tile of its block; a mover handles its next block. Each counts the item and takes it. -/
def Obligations.Stations : Prop :=
  (∀ (s : State) (d : DieId) (slot station ctx : Nat) (a : StAt),
    let x := stGet s a ctx
    stAt s d slot station = some a →
    (∀ cap, mayBegin s a ctx = true → listFetched s a = true → captureFor s a x.begun = .ok cap →
      exec (.microBatchBegin d slot station ctx) s = .next (dropAnswers (beginWith s a ctx cap) d))
    ∧ (ctx < 3 → (a.kind = 1 ∨ ctx = 0) → x.begun = x.ended + 1 → stHalted s a = false → workDone s a ctx = true →
      exec (.microBatchEnd d slot station ctx) s = .next (bump
        (emitTokens (stMod s a ctx (fun x => { x with ended := x.ended + 1, asked := 0, got := 0 })) a (doneRoutes a.bill a.st ctx) x.seq x.arg)
        d (setStationSet a.kind a.place) 0 1)))
  ∧ (∀ (s : State) (d : DieId) (slot station : Nat) (a : StAt),
    let x := stGet s a 0
    stAt s d slot station = some a → stHalted s a = false → x.begun = x.ended + 1 → stepFetched a x = true →
    (∀ r hdr bs s1, a.kind = 4 → x.count < a.p 4 4 → nextItem s a = some (r, hdr, bs) →
      itemLines (.tile 0 0 bs) = ceilDiv (tileBytes x.ent) 256 → eReadOnly x.ent = false →
      let coord := coordPlus (a.p 8 8) ((x.begun - 1) * a.p 4 4 + x.count)
      writeTile s d (stCaches s a) a.part x.ent (writeBase x.ent) coord bs = .ok s1 →
      exec (.drainStageItem d slot station) s = .next (stMod
        (takeItem (stBytes (dropAnswers s1 d) a (writeBase x.ent + rowOff x.ent coord 0) (tileBytes x.ent)) a) a 0
        (fun x => { stepDone a x with count := x.count + 1 })))
    ∧ (∀ w rest r hdr bs, a.kind = 7 → x.work = w :: rest → nextItem s a = some (r, hdr, bs) → bit hdr.toNat 30 = false →
      let sent := fun (s : State) => stMod (relaySend (takeItem s a) a x.count hdr bs) a 0
        (fun x => { stepDone a x with work := rest, count := x.count + 1 })
      (x.ent = 0 → exec (.relayItem d slot station) s = .next (sent s))
      ∧ (∀ s1, x.ent ≠ 0 → eFmt x.ent = wireFmt hdr.toNat → eReadOnly x.ent = false →
        writeTile s d (stCaches s a) a.part x.ent (writeBase x.ent) w.coord bs = .ok s1 →
        exec (.relayItem d slot station) s =
          .next (sent (stBytes (dropAnswers s1 d) a (writeBase x.ent + rowOff x.ent w.coord 0) (tileBytes x.ent)))))
    ∧ (∀ w rest r bs, a.kind = 3 → x.work = w :: rest → portRoute a w.port 0 = some r →
      readTile s d (stCaches s a) a.part w.ent w.base w.coord = .ok bs →
      let s1 := stBytes (dropAnswers s d) a (w.base + rowOff w.ent w.coord 0) (tileBytes w.ent)
      exec (.scheduleDelivery d slot station) s =
        .next (stMod (queueItem s1 d slot r (.tile 0 w.off bs)) a 0 (fun x => { stepDone a x with work := rest })))
    ∧ (∀ s1, a.kind = 6 → x.count < mvNblk a → mvOutOfOrder s a x.count = false → moverStep s a x x.count = some (s1, .ok ()) →
      let s2 := if mvImage a = 0 then s1 else stBytes s1 a (mvImage a + 65536 * x.count) 65544
      exec (.moverBlock d slot station) s = .next (moverAsks
        (stMod (dropAnswers (mvEntryBytes s2 a x) d) a 0 (fun x => { stepDone a x with count := x.count + 1 })) a)))

/-! ### Reduction (10) -/

/-- A presented reduction item is judged by its tag: it folds into its open bucket, opens one, or is counted as misrouted or stale and its
lines are returned as credits, and so is one whose bucket is past its limit. The adder folds the next item of the first bucket that has one ready, with the step's NONFINITE mark and,
where the item cannot be added, one record and the FAULT mark; a full bucket is emitted on the outputs of its role; a bucket that is not
full BKT_TMO microseconds after it opened, and whose last item was not presented in that beat, is emitted with FAULT after its waiting items are counted stale and a
TIMEOUT record is written; and a write of RL_CTL sets BKT_TMO. -/
def Obligations.Reduction : Prop :=
  (∀ (s : State) (d : DieId) (slot route : Nat) (src : StAt) (hdr : W64) (off : Nat) (bs : List Byte),
    let a := dstOf src route
    let t := fld hdr.toNat 11 0
    let k := getLink (getDie s d) a.place
    let back := oweLines (popItem s a route) a route (ceilDiv bs.length 256)
    rtAt s d slot route = some src → a.kind = 5 → routeHead s a route = some (.tile hdr off bs) →
    let late := (findPlace k t).any (overdue a k (timeOf s (some d)))
    (judgeItem a k route t = .fold → late = false → exec (.redItemJudge d slot route) s =
        .next (modLink (popItem s a route) d a.place (fun k => joinPlace k (timeOf s (some d)) t route hdr.toNat bs)))
    ∧ (judgeItem a k route t = .opens → exec (.redItemJudge d slot route) s =
        .next (modLink (popItem s a route) d a.place (fun k =>
          joinPlace { openTag k t with places := (openTag k t).places ++ [{
            tag := t, fmt := wireFmt hdr.toNat, win := fld hdr.toNat 26 17, hdr := 0, opened := timeOf s (some d) }] }
            (timeOf s (some d)) t route hdr.toNat bs)))
    ∧ (judgeItem a k route t = .misrouted → exec (.redItemJudge d slot route) s =
        .next (modLink back d a.place (fun k => { k with misrouted := BitVec.ofNat 16 (satAdd 16 k.misrouted.toNat 1) })))
    ∧ (judgeItem a k route t = .stale ∨ (judgeItem a k route t = .fold ∧ late = true) → exec (.redItemJudge d slot route) s =
        .next (modLink back d a.place (fun k => { k with stale := BitVec.ofNat 16 (satAdd 16 k.stale.toNat 1) }))))
  ∧ (∀ (s : State) (d : DieId) (slot station place agent : Nat) (a : StAt) (p : Place) (v : W32),
    let k := getLink (getDie s d) a.place
    (∀ route hdr bs, stAt s d slot station = some a → a.kind = 5 → k.places.find? (fun p => (nextFold a p).isSome && !overdue a k (timeOf s (some d)) p) = some p →
      nextFold a p = some (route, hdr, bs) →
      let f := foldPlace p route hdr bs
      let s1 := modLink (oweLines s a route (ceilDiv bs.length 256)) d a.place (fun k => setPlace k f.1)
      let s2 := if f.2.nonfinite then stepNonfinite s1 d a.part 0x1FF 3 else s1
      exec (.redFold d slot station) s = .next (if f.1.faulted && !p.faulted then bucketFault s2 a p.tag 1 else s2))
    ∧ (∀ tag, stAt s d slot station = some a → a.kind = 5 → sourcesStopped s a = false → findPlace k tag = some p → p.emitted = false →
      bucketFull a p = true → exec (.redEmit d slot station tag) s = .next (emitPlace s a p))
    ∧ (∀ tag, let k := getLink (getDie s d) place
      findPlace k tag = some p → stationAt s d 5 place = some a → k.tmo ≠ 0 → p.emitted = false →
      bucketFull a p = false → limitAt k p ≤ timeOf s (some d) → lastInTime a k p = false →
      let s1 := p.waiting.foldl (fun s w => oweLines s a w.1 (ceilDiv w.2.2.length 256)) s
      let s2 := modLink s1 d place (fun k => { k with stale := BitVec.ofNat 16 (satAdd 16 k.stale.toNat p.waiting.length) })
      exec (.bucketTimeout d place tag) s = .next (emitPlace (if p.faulted then s2 else bucketFault s2 a tag 2) a
        { p with fault := true, faulted := true, waiting := [] }))
    ∧ (reachesDie s agent d = true → place < 64 →
      exec (.rlCtlWrite agent d place v) s = acked agent (modLink s d place (fun k =>
        { k with tmo := BitVec.ofNat 16 v.toNat, tmoAt := timeOf s (some d) }))))

/-! ### Bill loads and switches (07) -/

/-- A BILL_LOAD of a slot that is EMPTY or LOADED and that no select names waits, its slot LOADING; the loader takes the oldest load, asks
its memory gate for its bytes, and once they are there completes one whose Bill passes every check with the slot LOADED, its measurement taken and the cells' images placed. A BILL_SELECT of the
partition's own LOADED slot, while no switch runs, starts the switch. A held select runs as soon as no switch does. -/
def Obligations.BillCommands : Prop :=
  (∀ (s : State) (d : DieId) (q cseq : Nat) (c : Started),
    let r : CmdRef := { q := q, cseq := cseq }
    let p := queuePart s d q
    let slot := cmdF c.word 0x10 1
    let x := getSlot (getDie s d) slot
    (freshCmd s d q cseq 0x10 = some c → ownerSlot s d slot = some p → (x.st = .empty ∨ x.st = .loaded) → slotNamed s d p slot = false →
      exec (.billLoad d q cseq) s = .next (modDie
        (modSlot (waitCmd s d r) d slot (fun x => { x with st := .loading, bill := [], meas := 0, imgMeas := [] })) d
        (fun y => { y with loads := y.loads ++ [{ slot := slot, part := p, va := cmdF c.word 0x18 8, cmd := r }] })))
    ∧ (freshCmd s d q cseq 0x12 = some c → slot < 8 → ownerSlot s d slot = some p →
      let s1 := waitCmd (activatePart s p) d r
      let w : Select := { target := some slot, abort := bit (cmdF c.word 0x11 1) 0, cmd := r }
      ownerSlot s1 d slot = some p → (getSlot (getDie s1 d) slot).st = .loaded →
      (getPart (getDie s1 d) p).sw = none → (getPart (getDie s1 d) p).held = none →
      exec (.billSelect d q cseq) s = .next (startSwitch s1 d p w))
    ∧ (∀ l rest, (getDie s d).loads = l :: rest →
      (l.running = false → exec (.billLoadBegin d) s = .next
        (askTransfer (modDie s d (fun x => { x with loads := { l with running := true } :: rest })) d (gateOfPart s d l.part) .loader))
      ∧ (∀ b, l.running = true → loadFetched s d l = true → readBill s d l.part l.va = .ok b → billStatus s d l.part b = 0 →
          let s1 := modSlot (doneCmd (modDie (dropAnswers s d) d (fun x => { x with loads := x.loads.tail })) d l.cmd 0 (bLength b))
            d l.slot (fun _ => heldBill b)
          let s2 := (billStations s1 d l.slot 1).foldl placeImages s1
          selectWaiting s2 d l.part l.slot = none → exec (.billLoadComplete d) s = .next s2)))
  ∧ (∀ (s : State) (d : DieId) (part : Nat) (w : Select), let x := getPart (getDie s d) part
    x.sw = none → x.held = some w →
    exec (.heldSelectStart d part) s = .next (judgeSelect (modPart s d part (fun x => { x with held := none })) d part w))

/-- A switch to a target slot goes through its phases in order (Table 7.16): quiescence begins phase 1; when the routes are empty
the outgoing Bill closes and the incoming slot, judged again, is ENTERING; the cells of both Bills are initialised; the incoming
routes hold their credits and the cell parameters are written; the tables are loaded; and the slot is ACTIVE and the select
completes with its number. A held select then runs. -/
def Obligations.SwitchPhases : Prop :=
  ∀ (s : State) (d : DieId) (part t : Nat) (w : Switch),
    let x := getPart (getDie s d) part
    let set := fun (s : State) (n : Nat) => setSwitch s d part (some { w with phase := n })
    x.sw = some w → w.sel.target = some t →
    (∀ out, w.phase = 1 → w.out = some out → quiescent s d out = true →
      exec (.switchQuiescence d part) s = .next (stopSources (set s 2) d out w.sel.abort))
    ∧ (∀ out, w.phase = 2 → w.out = some out → routesEmpty s d out = true →
        let s1 := closeBill s d part out w.sel.abort
        incomingStatus s1 d part (some t) = none →
        exec (.switchClose d part) s = .next (setSwitch (modSlot s1 d t (fun x => { x with st := .entering })) d part
          (some { w with phase := 3, outCells := (billStations s d out 1).map StAt.place })))
    ∧ (w.phase = 3 → exec (.switchReset d part) s = .next (set
        ((w.outCells ++ (billStations s d t 1).map StAt.place).eraseDups.foldl (fun s n => initCell s { die := d, site := n }) s) 4))
    ∧ (w.phase = 4 → exec (.switchConfigure d part) s =
        .next (set ((billStations s d t 1).foldl applyParams (loadCredits s d t)) 5))
    ∧ (w.phase = 5 → exec (.switchTables d part) s = .next (set ((billStations s d t 1).foldl applyTables s) 6))
    ∧ (w.phase = 6 → exec (.switchOpen d part) s = .next (openBill (setSwitch (doneCmd s d w.sel.cmd 0 t) d part none) d part t))

/-! ### Command queues (08) -/

/-- An aligned write of 64 bytes to the aperture of an ON queue that is not HALTED and has a free entry is accepted. The next command that
may start leaves its entry: a NOP is done at once, a RUN takes its place in the RUNs of its fetch station, and a COPY or VERSION_WAIT
checks its handle. A command that is done completes with its status and RESULT. RESUME clears HALTED, FLUSH cancels what has not started,
and an enable of an OFF queue whose registers are set starts it. A started RUN puts a token with its argument and the low 32 bits of its
micro-batch's number on every route of the fetch station. -/
def Obligations.QueueLife : Prop :=
  (∀ (s : State) (agent : Nat) (d : DieId) (q off : Nat) (data : List Byte) (w : Nat) (rest : List Nat),
    let x := getQueue (getDie s d) q
    let r : CmdRef := { q := q, cseq := x.startSeq.toNat }
    let s1 := startHead s d q w rest { cseq := 0, word := w }
    q < 64 →
    (reachesQueue s agent d q = true → off < 4096 → off % 64 = 0 → data.length = 64 → x.fn.st = .on → x.halted = false → x.free ≠ 0 →
      exec (.commandWrite agent d q off data) s = .next (writeHeader (modCmdQueue s d q (fun x =>
        { x with entries := x.entries ++ [leNat data], accSeq := x.accSeq + 1, free := x.free - 1 })) d q))
    ∧ (x.entries = w :: rest → mayStart s d q w = true → cmdValid w = true →
      (cmdOp w = 0 → exec (.commandStart d q) s = .next (doneCmd s1 d r 0 0))
      ∧ (∀ a, cmdOp w = 1 → fetchStation s d q = some a → exec (.commandStart d q) s = .next (modQueue
          (modStarted s1 d q r.cseq (fun c => { c with prog := x.runs })) d q (fun x => { x with runs := x.runs + 1 })))
      ∧ (2 ≤ cmdOp w → exec (.commandStart d q) s = .next (startCheck s1 d r w))
      ∧ (2 ≤ cmdOp w → cmdOp w ≠ 0x30 → cmdOp w ≠ 0x50 → startCheck s1 d r w = s1))
    ∧ (∀ cseq c status result, findStarted x cseq = some c → c.phase = .done status result →
      exec (.commandComplete d q cseq) s = .next (completeRecord
        (modCmdQueue s d q (fun x => { x with started := x.started.filter (fun y => y.cseq != c.cseq) })) d q c status result))
    ∧ (reachesQueue s agent d q = true → x.halted = true →
      exec (.queueResume agent d q) s = acked agent (writeHeader (modCmdQueue s d q (fun x => { x with halted := false })) d q))
    ∧ (reachesQueue s agent d q = true → (x.fn.st = .on ∨ x.fn.st = .draining) →
      exec (.queueFlush agent d q) s = acked agent (flushQueue s d q))
    ∧ (∀ irqEn, reachesQueue s agent d q = true → x.fn.st = .off → queueConfigured s d q irqEn = true →
      let s2 := modQueue (modQueue s d q (fun x => { x with irqEn := irqEn })) d q (fun y =>
        { y with fn := { x.fn with en := true, st := .starting, held := false, pend := false } })
      queueConfigured (modQueue s d q (fun x => { x with irqEn := irqEn })) d q irqEn = true →
      (getQueue (getDie (modQueue s d q (fun x => { x with irqEn := irqEn })) d) q).fn = x.fn →
      exec (.queueEnable agent d q true irqEn) s = acked agent (queueStarting (activateOwner s2 (ownerQueue s2 d q)) d q)))
  ∧ (∀ (s : State) (d : DieId) (q cseq : Nat) (c : Started) (a : StAt),
    freshCmd s d q cseq 0x01 = some c → fetchStation s d q = some a →
    exec (.run d q cseq) s = .next (waitCmd
      (emitTokens s a (routesFrom a.bill a.st) (BitVec.ofNat 32 c.prog) (BitVec.ofNat 64 (cmdF c.word 0x10 8))) d { q := q, cseq := cseq }))

/-- A descriptor command of one entry inside the partition's range, whose gate transfers are there, completes with OK and RESULT 1: DESC_CREATE of an invalid entry
writes the image with the next GEN, valid; DESC_UPDATE of a valid entry writes the image with VSEL, VCOUNT, EGROUP and GENV kept;
DESC_FREE clears VALID, and counts no entry that is not VALID. One whose transfers are not there asks its gate for them. -/
def Obligations.DescriptorCommands : Prop :=
  ∀ (s : State) (d : DieId) (q cseq : Nat) (c : Started) (bs : List Byte),
    let r : CmdRef := { q := q, cseq := cseq }
    let p := queuePart s d q
    let i := cmdF c.word 0x10 4
    let s1 := waitCmd s d r
    let old := tdtEntry (getDie s1 d) i
    let e := leNat bs
    let finish := fun (s : State) =>
      (.next (doneCmd (modStarted (dropAnswers s d) d q cseq (fun c => { c with prog := 1, asked := 0, got := 0 })) d r 0 1) : Res)
    c.prog = 0 → c.skipped = 0 → cmdF c.word 0x14 4 = 1 → inTdtRange s d p i 1 = true →
    let there := (entryTransfers s1 d q p c 0).length ≤ cmdGot s1 d q cseq
    (openCmd s d q cseq 0x20 = some c → ¬there → exec (.descCreate d q cseq) s = .next (cmdAsks s1 d r))
    ∧ (openCmd s d q cseq 0x21 = some c → ¬there → exec (.descUpdate d q cseq) s = .next (cmdAsks s1 d r))
    ∧ (openCmd s d q cseq 0x20 = some c → there → eValid old = false → readVA s1 d (queueCaches s1 d q) p (cmdF c.word 0x18 8) 64 = .ok bs →
      imageStatus s1 d p e true = 0 → committing s1 d (eGroup e) = false → cmdF c.word 0x20 8 = 0 →
      exec (.descCreate d q cseq) s = finish (setTdt s1 d i (withGenv e (nextGen (eGen old)) true)))
    ∧ (openCmd s d q cseq 0x21 = some c → there → eValid old = true → readVA s1 d (queueCaches s1 d q) p (cmdF c.word 0x18 8) 64 = .ok bs →
      eGen e = eGen old → imageStatus s1 d p e false = 0 → committing s1 d (eGroup old) = false →
      exec (.descUpdate d q cseq) s = finish (setTdt s1 d i (keepFields old e)))
    ∧ (openCmd s d q cseq 0x22 = some c → eValid old = true → committing s1 d (eGroup old) = false →
      exec (.descFree d q cseq) s = finish (setTdt s1 d i (setFld old 495 495 0)))
    ∧ (openCmd s d q cseq 0x22 = some c → eValid old = false → exec (.descFree d q cseq) s =
      .next (doneCmd (modStarted s1 d q cseq (fun c => { c with prog := 1, skipped := 1 })) d r 0 0))

/-- A COPY or VERSION_WAIT that has waited for its start captures the entry of its handle; a COPY from memory with its destination
captured, whose gate transfers are there, reads its source and writes it there; a waiting VERSION_WAIT whose version is reached is done with VCOUNT; a STREAM_CTL whose
action applies is done with STREAM_ST. -/
def Obligations.TensorAndStreamCommands : Prop :=
  ∀ (s : State) (d : DieId) (q cseq : Nat) (c : Started),
    let r : CmdRef := { q := q, cseq := cseq }
    let p := queuePart s d q
    let h := cmdF c.word 0x10 4
    let src := cmdF c.word 0x18 8
    let len := cmdF c.word 0x20 8
    (∀ e, openCmd s d q cseq 0x30 = some c → c.phase = .fresh → handleEnt s d p h = some e → (cmdF c.word 0x15 1 = 1 → eDual e = true) →
      captureWaits s d e = false → cmdF c.word 0x14 1 = 0 → exec (.copy d q cseq) s = .next (captured s d r e))
    ∧ (∀ bs s3, let e := c.ent
      openCmd s d q cseq 0x30 = some c → c.phase = .wait → (copyTransfers s d q c).length ≤ c.got → cmdF c.word 0x14 1 = 0 → eDigest e = false →
      readVA s d (queueCaches s d q) p src len = .ok bs →
      writeVA s d (queueCaches s d q) p (versBase e (cmdF c.word 0x15 1 == 1) + cmdF c.word 0x28 8) bs = .ok s3 →
      exec (.copy d q cseq) s = .next (doneCmd (dropAnswers s3 d) d r 0 (bs.length % 2 ^ 32)))
    ∧ (∀ e, openCmd s d q cseq 0x50 = some c → c.phase = .fresh → handleEnt s d p h = some e →
      versionReached (eVcount e) (cmdF c.word 0x14 4) = true →
      exec (.versionWait d q cseq) s = .next (doneCmd (captured s d r e) d r 0 (eVcount e)))
    ∧ (openCmd s d q cseq 0x50 = some c → c.phase = .wait → versionReached (capturedVcount s d c) (cmdF c.word 0x14 4) = true →
      exec (.versionWait d q cseq) s = .next (doneCmd s d r 0 (capturedVcount s d c)))
    ∧ (freshCmd s d q cseq 0x60 = some c →
      let st := cmdF c.word 0x12 1
      let l : StreamLoc := { die := d, site := cmdF c.word 0x10 2, stream := 2 * fld st 1 0 + b2n (bit st 2) }
      let act := cmdF c.word 0x13 1
      sitePresent (getDie s d) (cmdF c.word 0x10 2) = true → ownerCell s (cellOf l) = some p → act ≤ 5 → (streamAct s l act).isSome = true →
      exec (.streamCtl d q cseq) s = .next (doneCmd (streamActWrite s l act) d r 0 (streamStWord (getStream (streamActWrite s l act) l))))

/-- A STEP_COMMIT or STEP_ABANDON of the partition's own group that is not COMMITTING holds the group until the writes captured in it
are complete. Then an abandon ends with verdict 2; a commit with BARRIER FFH flips the group at once where PART_STEP_NF is clear, and waiting VERSION_WAITs test again;
and one with a barrier station votes there. The barrier's verdict within BAR_TMO microseconds of the vote is the commit point,
and a verdict that does not come within them fails the commit. -/
def Obligations.StepCommit : Prop :=
  ∀ (s : State) (d : DieId) (q cseq eg p : Nat) (c : Started) (k : Commit),
    let r : CmdRef := { q := q, cseq := cseq }
    let g := cmdF c.word 0x10 1
    let hold := fun (abandon : Bool) (barrier : Nat) => (.next
      (modEpoch (waitCmd s d r) d g (fun e => { e with
        commit := some { cmd := r, abandon := abandon, barrier := barrier, settle := groupWriters s d g } })) : Res)
    (ownerEpoch s d g = some (queuePart s d q) → committing s d g = false →
      (freshCmd s d q cseq 0x40 = some c → exec (.stepCommit d q cseq) s = hold false (cmdF c.word 0x11 1))
      ∧ (freshCmd s d q cseq 0x41 = some c → exec (.stepAbandon d q cseq) s = hold true 0xFF))
    ∧ ((getEpoch (getDie s d) eg).commit = some k → ownerEpoch s d eg = some p →
      (k.voted = none → k.settle.any (fun w => (groupWriters s d eg).contains w) = false →
        (k.abandon = true → exec (.stepSettleEnd d eg) s =
          .next (doneCmd (endCommit (clearStep s d p) d p eg 2) d k.cmd 0 (verOf s d eg)))
        ∧ (k.abandon = false → k.barrier = 0xFF → (getPart (getDie s d) p).stepNf = false →
          let s1 := testWaits (flipGroup s d p eg) d
          exec (.stepSettleEnd d eg) s = .next (doneCmd (endCommit (clearStep s1 d p) d p eg 1) d k.cmd 0 (verOf s1 d eg)))
        ∧ (∀ a, k.abandon = false → k.barrier ≠ 0xFF → barrierAt s d p k.barrier = some a →
          let mb := (stGet s a 0).begun + (stGet s a 0).votes.length
          exec (.stepSettleEnd d eg) s = .next (modEpoch
            (stMod s a 0 (fun x => { x with votes := x.votes ++ [(getPart (getDie s d) p).stepNf] })) d eg (fun e =>
              { e with commit := some { k with voted := some (timeOf s (some d)), mb := some mb } }))))
      ∧ (∀ v, timelyVerdict s d p k = some v → exec (.barrierVerdict d eg) s = .next (commitPoint s d p eg k.cmd v))
      ∧ (∀ t, let tmo := (getPart (getDie s d) p).barTmo.toNat
        k.voted = some t → tmo ≠ 0 → timelyVerdict s d p k = none → t + 1000 * tmo ≤ timeOf s (some d) →
        exec (.barrierTimeout d eg) s = .next (failCmd (endCommit s d p eg 3) d k.cmd 0x19)))

/-! ### Functions (15, Table 15.8) -/

/-- An enable of an OFF function whose checks pass begins its start: a cell is re-initialised, a chain port takes its registers in force,
the flash store takes its map's place. INIT re-initialises a cell, and INIT_BUSY is set. A start without a held disable ends ON with STATUS 0, and a drain of an
idle function without a pending enable ends OFF, for a queue, a cell outside every Bill, a chain port and the flash store, whose start
ends once the map is rebuilt from its durable copy and its journal; the first rebuild retires the blocks with factory marks, and each
makes a scan due. -/
def Obligations.FunctionLife : Prop :=
  (∀ (s : State) (agent : Nat) (d : DieId) (c : CellLoc) (port : Nat) (v : W32),
    (reachesCell s agent c = true → cellHeld s c = false → (getCell s c).c.fn.st = .off →
      let s1 := modFn s c (fun _ => { (getCell s c).c.fn with en := true, st := .starting, held := false, pend := false })
      exec (.cellEnable agent c true) s = acked agent (modC (initCell (activateOwner s1 (ownerCell s1 c)) c) c (fun k => { k with initBusy := true })))
    ∧ (let s1 := modC (initCell s c) c (fun k => { k with initBusy := true })
      reachesCell s agent c = true → cellHeld s c = false → cellStation s1 c = none → exec (.cellInit agent c) s = acked agent s1)
    ∧ (reachesDie s agent d = true → port < 16 → (getDie s d).clk.enCp.toNat.testBit (port / 4) = true →
      (getCp (getDie s d) port).st = .off → cpConfigured s d port = true →
      let s1 := modCp s d port (fun _ => { getCp (getDie s d) port with en := true, st := .starting, held := false, pend := false })
      exec (.cpFnEnable agent d port true) s = acked agent (cpStarting (activateOwner s1 (ownerInst s1 d .chainPort port)) d port))
    ∧ (reachesFlash s agent = true → bit v.toNat 0 = true → s.hd.flash.fn.st = .off → flashConfigured s = true →
      exec (.flEnable agent v) s = acked agent (flashStarting (modFlash s (fun x => { x with
        irqEn := bit v.toNat 1, lateThr := BitVec.ofNat 8 (fld v.toNat 15 8)
        fn := { s.hd.flash.fn with en := true, st := .starting, held := false, pend := false } })))))
  ∧ (∀ (s : State) (d : DieId) (n : Nat),
    let on := fun (f : Func) => { f with st := .on, status := 0 }
    let off := fun (f : Func) => { f with st := .off }
    let q := getQueue (getDie s d) n
    let c : CellLoc := { die := d, site := n }
    let k := (getCell s c).c.fn
    let p := getCp (getDie s d) n
    let f := s.hd.flash
    (n < 64 → q.fn.st = .starting → q.fn.held = false →
      let s1 := modQueue s d n (fun x => { x with fn := fnStarted x.fn, offReported := false })
      (getQueue (getDie s1 d) n).fn.st = .on → exec (.functionStartEnd (.queue d n)) s = .next (writeHeader s1 d n))
    ∧ (n < 64 → q.fn.st = .draining → q.fn.pend = false → q.entries = [] → q.started = [] →
      exec (.functionDrainEnd (.queue d n)) s =
        .next (writeHeader (modQueue s d n (fun x => { x with fn := off q.fn, offReported := false })) d n))
    ∧ (k.st = .starting →
      let s1 := modC s c (fun k => { k with fn := fnStarted k.fn, initBusy := false })
      cellStation s1 c = none → exec (.functionStartEnd (.cell d n)) s = .next s1)
    ∧ (k.st = .draining → k.pend = false → cellIdle s c = true →
      exec (.functionDrainEnd (.cell d n)) s = .next (modFn s c (fun _ => off k)))
    ∧ (p.st = .starting → exec (.functionStartEnd (.chainPort d n)) s = .next (setLink_ (modCp s d n fnStarted) d n true))
    ∧ (p.st = .draining → p.pend = false → cpDrained (getDie s d) n = true →
      exec (.functionDrainEnd (.chainPort d n)) s = .next (setLink_ (modCp s d n (fun _ => off p)) d n false))
    ∧ (f.fn.st = .starting → f.mapReady = false → hbmStopped (getDie s (hpaDie f.mapNow)) = false →
      exec .mapReady s = .next (modFlash (rebuildMap s) (fun x => readMarks { x with mapReady := true, scanned := none })))
    ∧ (f.fn.st = .starting → f.fn.held = false → f.mapReady = true →
      exec (.functionStartEnd .flash) s = .next (writeHeader
        (modFlash s (fun x => { x with fn := on f.fn, q := { f.q with offReported := false } })) .cd0 flQ))
    ∧ (f.fn.st = .draining → f.fn.pend = false → f.q.entries = [] → f.q.started = [] → readsOpen s = false →
      exec (.functionDrainEnd .flash) s = .next (writeHeader
        (modFlash s (fun x => { x with fn := off f.fn, mapReady := false, q := { f.q with offReported := false } })) .cd0 flQ)))

/-! ### Memory gates, translation and the die cache (11) -/

/-- A gate with room issues the transfer that is due and whose turn it is, under its level, and sends its lines for the peer die over the
bridge; a transfer that waits for nothing, of this module or of another, completes: it leaves the gate, with what its check symbols show,
and does what it does for its client. A page walk that the gate has issued leaves it when it ends, and is cached there where it succeeds. An invalidation begins when none is in progress, and its end removes
every entry of its range. The least recently used line of a full set that reads well leaves the die cache, written back where it is
dirty, and a clean line whose cache data is bad is fetched again and counted. -/
def Obligations.GatesAndTranslation : Prop :=
  ∀ (s : State) (d : DieId) (group agent part : Nat),
    let g := getGate (getDie s d) group
    let p := getPart (getDie s d) part
    (∀ client, group < 16 → reqHeld s d group client = false → reqDue s d group client = true → gateRoom g (reqLevel s d client) = true →
      gateTurn s d group client = true →
      let lines := reqLines s d group client
      let s1 := modGate s d group (fun g => { g with
        xfers := g.xfers ++ [{
          id := (getGate (getDie s d) group).nextXfer, level := reqLevel s d client, client := reqClient s d group client
          addrs := lines, lines := lines.length, since := timeOf s (some d) }]
        nextXfer := g.nextXfer + 1 })
      exec (.gateTransfer d group client) s =
        .next (afterIssue (countAsked (sendPeerLines s1 d group g.nextXfer lines) d client) d group client))
    ∧ (∀ xid x ecc, g.xfers.find? (fun x => x.id == xid) = some x → xferHeld s d x = false → xferAsks s d x = [] → reqWalk x.client = false →
      exec (.gateTransferComplete d group ⟨xid, ecc⟩) s = .next (arriveXfer
        (modGate (eccOf s d group x ecc) d group (fun g => { g with xfers := g.xfers.filter (fun y => y.id != xid) })) d group x))
    ∧ (∀ va write x, walkXfer s d group none part va write = some x →
      let t := modGate s d group (fun g => { g with xfers := g.xfers.filter (fun y => y.id != x.id) })
      (∀ k, walk s d part va = .error k → exec (.pageWalk d group none part va write) s = .next t)
      ∧ (∀ lv pte hpa, walk s d part va = .ok (lv, pte) → leafPlace s d part lv pte va write = .ok hpa → p.tlbBusy = false →
        exec (.pageWalk d group none part va write) s = .next (modGate (drawFree t 11).2 d group (fun g => { g with
          tlb := tlbAdd 2048 (drawFree t 11).1 g.tlb { part := part, vpage := va >>> levelShift lv, bits := levelShift lv, pte := pte } }))))
    ∧ (reachesDie s agent d = true → part < 16 → p.tlbBusy = false → exec (.tlbInvalidate agent d part) s =
        acked agent (modPart s d part (fun p => { p with tlbBusy := true, tlbNow := (p.tlbVa.toNat, p.tlbCount.toNat) })))
    ∧ (p.tlbBusy = true → p.tlbHeld = [] → exec (.tlbInvalidateDone d part) s =
        .next (modPart (tlbRemove s d part p.tlbNow.1 p.tlbNow.2) d part (fun p => { p with tlbBusy := false, tlbDone := true })))
    ∧ (∀ line, let l := hpaOf d (line * 256) / 256
      let x := getDie s d
      let gone := modDie s d (fun x => { x with cacheLines := x.cacheLines.erase l, cacheDirty := x.cacheDirty.filter (fun y => y != l) })
      x.cacheLines.contains l = true →
      (cacheVictim x.cacheLines l = some l → exec (.cacheEvict d line false) s = .next gone)
      ∧ (x.cacheDirty.contains l = false → exec (.cacheEvict d line true) s = .next (countSram gone (some d) false)))

/-- A controller that is ON counts a corrected patrol read of its channel and the polled on-die counts, and shows a request for refresh
management. A change to or from Quiet, the former once the fabric's voltage is there, puts the controllers that are ON in RATE_CHANGE; its
end brings back those of the stacks that retrained, and what waited for it goes on. A broadcast write reaches every clocked controller of the stack, and a region register that overlaps no other takes
its value. -/
def Obligations.Controllers : Prop :=
  ∀ (s : State) (d : DieId) (mc agent : Nat),
    let x := getDie s d
    let m := getMc x mc
    (∀ off, m.st = .on → m.patrolEn = true → off < capacity x → stackOf x off * 32 + channelOf x off = mc →
      exec (.patrolRead d mc off .corrected) s =
        .next (modMc s d mc (fun m => { m with corrected := BitVec.ofNat 16 (satAdd 16 m.corrected.toNat 1) })))
    ∧ (∀ n severe, m.st = .on → exec (.odeccPoll d mc n severe) s = .next (modMc s d mc (fun m =>
        { m with odecc := BitVec.ofNat 16 (satAdd 16 m.odecc.toNat n), odeccSev := m.odeccSev || severe })))
    ∧ (m.st = .on → exec (.refreshManagementRequest d mc) s = .next (modMc s d mc (fun m => { m with rfmSeen := true })))
    ∧ (∀ quiet, let on := (mcsOf x).filter (fun i => decide ((getMc x i).st = .on))
      s.hd.clk.changing = true → (s.hd.clk.modeReq == 2) = quiet → (quiet = true → slewed s d = true) → on.any (fun i => (getMc x i).rate != quiet) = true →
      exec (.hbmRateChange d quiet) s = .next (on.foldl (fun s i => modMc s d i (fun m => { m with st := .rateChange })) s))
    ∧ (hbmStopped x = true →
      let t := ((List.range 320).filter (fun i => decide ((getMc x i).st = .rateChange))).foldl (fun t i =>
        modMc t d i (fun m => { m with st := .on, rate := s.hd.clk.modeReq == 2 })) s
      exec (.hbmRateChangeEnd d 0) s = .next (runRings (runRings (serveHeldReqs t d) .cd0) .cd1))
    ∧ (∀ j off size (v : W64), regSized off size = true → off < 4096 → j < 10 → reachesDie s agent d = true →
      exec (.mcBroadcastWrite agent (.stack d j) off size v) s = acked agent
        (((mcsOf x).filter (fun i => i / 32 == j && mcClocked x i)).foldl (fun t i =>
          modMc t d i (fun m => mcWrite m (off / 8 * 8) (regW off size v.toNat))) s))
    ∧ (∀ i (v : W32), reachesDie s 0 d = true → i < 32 →
      (List.range 32).any (fun j => j != i && rgnOverlap (rgnOf v.toNat) (getRgn x j)) = false → (rgnOf v.toNat).host = false →
      exec (.hbmRgnWrite 0 d i v) s = acked 0 (modDie s d (fun x =>
        { setRgn x i (rgnOf v.toNat) with scrubMap := clearGranules x.scrubMap [] })))

/-! ### The flash store (12) -/

/-- A command written to the aperture of the ON store is accepted. A READ asks for its units and, when it is the oldest read at their
packages and all of them read, writes them to the buffer in order; a WRITE in order waits for its programs, each of which places the
next unit's bytes on a prepared place and makes the map name them, the last one ending the command with OK; a program that fails keeps
the bytes and retires the block; a TRIM in its turn clears MAPPED and UNCORR; a WRITE or TRIM cancels the moves of its units; a FLUSH makes every change durable. RESUME clears HALTED, and FLUSH
cancels what has not started. -/
def Obligations.FlashCommands : Prop :=
  ∀ (s : State) (agent off cseq : Nat) (data : List Byte) (c : Started),
    let f := s.hd.flash
    let s1 := flOpen s cseq
    let r := flRef cseq
    (reachesFlash s agent = true → off < 4096 → off % 64 = 0 → data.length = 64 → f.fn.st = .on → f.q.halted = false → f.q.free ≠ 0 →
      exec (.flCommandWrite agent off data) s = .next (writeHeader (modCmdQueue s .cd0 flQ (fun x =>
        { x with entries := x.entries ++ [leNat data], accSeq := x.accSeq + 1, free := x.free - 1 })) .cd0 flQ))
    ∧ (openCmd s1 .cd0 flQ cseq 0x01 = some c → flBlocked s1 c = false → flRange c = false →
      (c.phase = .fresh → exec (.flRead cseq) s = .next (askFor (waitCmd s1 .cd0 r) .cd0 flQ cseq (flUnit c) (flCount c)))
      ∧ ∀ bss s2, c.phase = .wait → readRun s1 (flUnit c) (flCount c) = (bss, none) →
        runTurn s1 .cd0 flQ cseq (flUnit c) (flCount c) = true → hostHeld s1 (cmdF c.word 0x18 8) (65536 * bss.length) = false →
        hostWrite (noteRun s1 (flUnit c) bss.length) (cmdF c.word 0x18 8) bss.flatten = (.ok [], s2) →
        exec (.flRead cseq) s = .next (flOk s2 cseq))
    ∧ (freshCmd s1 .cd0 flQ cseq 0x02 = some c → flBlocked s1 c = false → mapOpen s1 = true → flRange c = false →
      s1.hd.flash.health ≠ 2 → flPackage s1 c = false →
      exec (.flWrite cseq) s = .next (waitCmd (cancelMoves s1 (flUnit c) (flCount c)) .cd0 r))
    ∧ (∀ place bs s0 s3, openCmd s .cd0 flQ cseq 0x02 = some c → c.phase = .wait →
      let u := flUnit c + c.prog
      let pkg := unitPkg u
      pkgFailed s u = false → mapOpen s = true → hostHeld s (cmdF c.word 0x18 8 + 65536 * c.prog) 65536 = false →
      placeOk s pkg place = true → placeUsed s pkg place = false → noReads s pkg = true →
      olderWrite s c pkg = false → preparePlace s pkg place = some s0 →
      let s2 := modFlash s0 (fun x => { x with suspended := x.suspended.filter (fun y => y != pkg * 8 + fld place 2 0) })
      writeBytes s2 c = (.ok bs, s3) →
      let s4 := changeEntry (programUnit (modFlash s3 (fun x => { x with wbuf := tabSet [] x.wbuf cseq [] })) u place bs) u (entAt place)
      exec (.flashProgram cseq place true) s = .next (if c.prog + 1 = flCount c then flOk s4 cseq
        else modStarted s4 .cd0 flQ cseq (fun c => { c with prog := c.prog + 1 }))
      ∧ exec (.flashProgram cseq place false) s =
        .next (retireBlock (modFlash s3 (fun x => { x with wbuf := tabSet [] x.wbuf cseq bs })) pkg place))
    ∧ (freshCmd s1 .cd0 flQ cseq 0x03 = some c → flBlocked s1 c = false → mapOpen s1 = true → flRange c = false →
      flPackage s1 c = false → (∀ pkg < 16, runMeets (flUnit c) (flCount c) pkg = true → noReads s1 pkg = true ∧ olderWrite s1 c pkg = false) →
      exec (.flTrim cseq) s = .next (flOk ((List.range (flCount c)).foldl (fun s i =>
        changeEntry s (flUnit c + i) (setFld (mapEntry s (flUnit c + i)) 27 26 0)) (cancelMoves s1 (flUnit c) (flCount c))) cseq))
    ∧ (freshCmd s1 .cd0 flQ cseq 0x04 = some c → mapOpen s1 = true → exec (.flFlush cseq) s = .next (flOk (makeDurable s1) cseq))
    ∧ (reachesFlash s agent = true → f.q.halted = true → exec (.flQueueResume agent) s =
        acked agent (writeHeader (modCmdQueue s .cd0 flQ (fun x => { x with halted := false })) .cd0 flQ))
    ∧ (reachesFlash s agent = true → f.fn.st = .on → exec (.flQueueFlush agent) s = acked agent (flushQueue s .cd0 flQ))

/-- A unit whose turn it is and whose hard decode succeeds reaches its readers; one whose hard decode fails waits, with its map entry
captured, for its retries, which deliver it or mark it UNCORR, where the map still names the stripe, with a record. A move of a unit to a
prepared place of another block begins with its map entry captured; its end writes the stripe that was read there and changes the entry,
and a program that fails retires the block. A scan that is due marks the weak blocks and begins the moves of weak units. A write of an extent that overlaps no other takes
its value; the health state never falls, and a rise writes a record and an interrupt; a read that reaches a die on which a WRITE or
a move programs suspends the program. -/
def Obligations.FlashUnits : Prop :=
  ∀ (s : State) (unit place key : Nat) (x : Stripe) (bs : List Byte),
    let f := s.hd.flash
    (∀ ok, mapOpen s = true → unit < userUnits → tabGet 0 f.retries unit = 0 → unitTurn s unit ok = true →
      pkgFailed s unit = false → unitStripe s unit = some (key, x) →
      exec (.flashUnitRead unit ok) s = .next (if ok = true then deliverRead (noteRead s key) unit
        else modFlash (noteRead s key) (fun x => { x with retries := tabSet 0 x.retries unit (mapEntry s unit + 1) })))
    ∧ (let v := tabGet 0 f.retries unit
      let s1 := modFlash s (fun f => { f with retries := tabSet 0 f.retries unit 0 })
      mapOpen s = true → v ≠ 0 →
      exec (.readRetry unit true) s = .next (deliverRetried s1 unit (stripeRead s1 unit (v - 1)))
      ∧ exec (.readRetry unit false) s = .next
          (let e := mapEntry s1 unit
          let s2 := if entMapped e = true ∧ entPlace e = entPlace (v - 1) then changeEntry s1 unit (setFld (mapEntry s1 unit) 27 27 1) else s1
          deliverRetried (logErr s2 none {
            cls := 7, code := 1, part := unitOwner s2 unit, unitKind := 9, unitIndex := unitPkg unit, addrKind := 3, addr := unit * 65536
            pc := entPlace (v - 1), detail := unit }) unit .uncorr))
    ∧ (∀ s1 ok, f.moves.find? (fun m => m.unit == unit) = none → mapOpen s = true → unit < userUnits →
      placeOk s (unitPkg unit) place = true → placeUsed s (unitPkg unit) place = false → moveDue s unit = true →
      moveServed s (unitPkg unit) = true → preparePlace s (unitPkg unit) place = some s1 → unitStripe s unit = some (key, x) →
      blockOf key ≠ blockOf (stripeKey (unitPkg unit) place) →
      exec (.flashMove unit ⟨place, ok⟩) s = .next (modFlash s1 (fun x => { x with
        moves := x.moves ++ [{ unit := unit, place := place, ent := mapEntry s unit }] })))
    ∧ (∀ m, let pkg := unitPkg unit
      let s1 := modFlash s (fun x => { x with
        moves := x.moves.erase m, suspended := x.suspended.filter (fun y => y != pkg * 8 + fld place 2 0) })
      f.moves.find? (fun m => m.unit == unit) = some m → m.place = place → mapOpen s = true →
      f.suspended.contains (pkg * 8 + fld place 2 0) = false →
      (stripeRead s1 unit m.ent = .ok bs → exec (.flashMove unit ⟨place, true⟩) s = .next (changeEntry
        (programUnit (noteRead s1 (stripeKey pkg (entPlace m.ent))) unit place bs) unit (entAt place)))
      ∧ exec (.flashMove unit ⟨place, false⟩) s = .next (retireBlock s1 pkg place))
    ∧ (∀ weak, scanDue s = true → (∀ pkg < 16, levelFive s pkg = true) →
      exec (.flashScan weak) s = .next (weak.foldl (fun s x => beginMove s x.1 x.2) (markWeak s weak)))
    ∧ (∀ i (w : W64), let v := BitVec.ofNat 64 (setFld w.toNat 62 62 0)
      reachesFlash s 0 = true → i < 64 → (List.range 64).any (fun j => j != i && extOverlap v (tabGet 0 f.ext j)) = false →
      exec (.flExtWrite 0 i w) s = acked 0 (modFlash s (fun x => { x with ext := tabSet 0 x.ext i v })))
    ∧ (∀ stops first last, f.fn.st ≠ .off →
      let pk := f.failedPkg.toNat ||| pkgRun stops first last
      let st := max f.health.toNat (healthOf (spareLeast f) (eraseMost f) pk)
      let s1 := modFlash s (fun x => { x with
        health := BitVec.ofNat 3 st, failedPkg := BitVec.ofNat 16 pk, spareMin := BitVec.ofNat 7 (spareLeast f)
        peMax := BitVec.ofNat 16 (eraseMost f) })
      exec (.flashHealthChange stops first last) s = .next (if st = f.health.toNat then s1
        else queueIrq (logErr s1 none { cls := 7, code := 3, detail := st }) .cd0 flQ))
    ∧ (∀ pkg nand, pkg < 16 → nand < 8 → readsDie s pkg nand = true → f.suspended.contains (pkg * 8 + nand) = false →
      programsDie s pkg nand = true →
      exec (.programSuspend pkg nand) s = .next (modFlash s (fun x => { x with suspended := x.suspended ++ [pkg * 8 + nand] })))

/-- A running reader with fewer than 64 units outstanding asks for its next unit; a unit that has arrived leaves for the entry's route in
items, and into the sink's memory where the entry has one, once the memory gate has done its transfers. -/
def Obligations.FlashReaders : Prop :=
  ∀ (s : State) (d : DieId) (slot station u : Nat) (a : StAt) (bs : List Byte) (w : Work) (units : List (Nat × Nat × List Byte))
    (rest : List Work),
    let x := stGet s a 0
    let pop := fun (s : State) => stMod s a 0 (fun x => { x with units := units })
    let s1 := bump s d (setStationSet 8 a.place) 6 1
    stAt s d slot station = some a → readerRuns s a = true →
    (nextUnit x.work = some u → x.units.length < 64 → exec (.flashReq d slot station u) s =
      .next (askRun (stMod s a 0 (fun x => { x with work := askUnit x.work, units := x.units ++ [(u, 0, [])] }))
        { first := u, count := 1, by_ := .reader d slot station }))
    ∧ (x.units = (u, 1, bs) :: units → x.work = w :: rest →
      (w.sink = false → exec (.flashDlv d slot station) s = .next (passUnit (pop s1) a w rest bs))
      ∧ (∀ s2, w.sink = true → stepFetched a x = true → writeVA s1 d (stCaches s1 a) a.part (sinkVa w) bs = .ok s2 →
        exec (.flashDlv d slot station) s = .next (stAsks (passUnit (pop (stMod
          (stBytes (dropAnswers s2 d) a (sinkVa w) bs.length) a 0 (fun x => stepDone a x))) a w rest bs) a)))

/-! ### Links (13) -/

/-- A UCIe read or write of HBM of the die that takes accesses, inside one line, by a host agent, reads or writes it; a read of a queue's
aperture returns zeros; a command write reaches its aperture;
register accesses of the die's window read and write, and complete; a completion goes to the agent of its tag, and a message interrupt
to the IMSIC. A module that trains takes its state and repairs; a flit's retries are counted, and a transaction of reserved
type leaves a record. -/
def Obligations.UcieTransactions : Prop :=
  ∀ (s : State) (d : DieId) (agent tag addr : Nat),
    (∀ (rd : MemRead) bs s1, inLine addr rd.len = true → apertureAt d addr = none → addr < 2 ^ 40 → hpaDie addr = d →
      hostAgent agent = true → hostOk s addr rd.len = true → hbmHeld s d = false →
      hostRead (eccUnits s (units32 addr rd.len) rd.ecc) addr rd.len = (.ok bs, s1) →
      exec (.memRd d agent tag addr rd) s = .next (complete s1 d tag 0 bs))
    ∧ (∀ (rd : MemRead) q off, inLine addr rd.len = true → apertureAt d addr = some (q, off) → reachesQueue s agent d q = true →
      exec (.memRd d agent tag addr rd) s = .next (complete s d tag 0 (List.replicate rd.len 0)))
    ∧ (∀ data, inLine addr data.length = true → addr < 2 ^ 40 → hpaDie addr = d → hostAgent agent = true → apertureAt d addr = none →
      hbmHeld s d = false →
      exec (.memWr d agent addr data) s = .next (hostWrite s addr data).2)
    ∧ (∀ q off data, apertureAt d addr = some (q, off) → reachesQueue s agent d q = true →
      exec (.cmdWr d agent addr data) s = .next (judgeWrite s d q off data))
    ∧ (∀ size v s1, size = 4 ∨ size = 8 → readAt s agent (dieTarget s d agent addr) size = (.ok v, s1) →
      exec (.regRd d agent tag addr size) s = .next (complete s1 d tag 0 (leBytes size v)))
    ∧ (∀ size (v : W64) r s1, size = 4 ∨ size = 8 → writeAt s agent (dieTarget s d agent addr) size v.toNat = (.ok r, s1) →
      exec (.regWr d agent tag addr size v) s = .next (complete s1 d tag 0 []))
    ∧ (∀ status data, exec (.cpl d tag status data) s = .next (emit s (.cpl (dieNum d) tag status data)))
    ∧ (∀ eiid, hostReaches s d = true → exec (.msgIrq d addr eiid) s = .next (sendIrq s addr eiid))
    ∧ (∀ m state tx rx, training s d = true → m < 4 → state ≤ 2 → exec (.ucieTraining d m state tx rx) s = .next (modDie s d (fun x =>
        ucieSubst (setUcie x m { getUcie x m with st := BitVec.ofNat 2 state, txRep := BitVec.ofNat 3 (min 4 tx), rxRep := BitVec.ofNat 3 (min 4 rx) }))))
    ∧ (∀ m (flit : UcieFlit), let type := (Sys2Proof.ucieHeader flit.header).type
      let s1 := noteRetries s d m flit.retries
      m < 4 → (getUcie (getDie s d) m).st ≠ 0 → exec (.ucieReservedType d m flit) s = .next (if 0xA ≤ type then
        logErr s1 (some d) { cls := 8, code := 1, unitKind := 8, unitIndex := m, detail := type } else s1))

/-- A register read answers with its value and a write is acknowledged, with what the register does, where HBM that they reach takes
accesses; a load from command memory gives
zeros of its width. A running application core's stores to command memory gather in its buffer, and a fence sends what it holds. A BAR2 read of an enabled virtual function reads through
PT_ROOT of CD0, and a write writes. PERST_N of the endpoint follows its pin, and of the root port the PCIe controller. -/
def Obligations.HostAccesses : Prop :=
  ∀ (s : State) (agent addr size : Nat),
    let free := ∀ e ∈ targetDies (target s agent addr), hbmHeld s e = false
    (∀ v s1, commandLoad agent addr size = false → free → regRead s agent addr size = (.ok v, s1) →
      exec (.readClear agent addr size) s = .next (emit s1 (.readData agent (BitVec.ofNat 64 v))))
    ∧ (commandLoad agent addr size = true → exec (.readClear agent addr size) s = .next (emit s
        (if size ≤ 8 then .readData agent 0 else .memData agent (List.replicate size 0))))
    ∧ (∀ v r s1, commandMem addr = none → free → regWrite s agent addr size v.toNat = (.ok r, s1) →
      exec (.registerWrite agent addr size v) s = acked agent s1)
    ∧ (∀ core bs, coreRuns s core = true →
      exec (.commandMemoryStore core .fence) s = .next (flushGather s core)
      ∧ (bs ≠ [] → (List.range bs.length).all (fun i => (commandMem (addr + i)).isSome) = true →
          exec (.commandMemoryStore core (.store addr bs)) s = .next (gatherStore s core addr bs)))
    ∧ (∀ vf va, vfEnabled s vf = true → hostReaches s .cd0 = true →
      (∀ (rd : MemRead) bs, let us := rangeUnits s .cd0 [] vf va rd.len
        let s1 := touchUnits (eccUnits s us rd.ecc) us
        va + rd.len ≤ 2 ^ 36 → (∀ e ∈ rangeDies s .cd0 [] vf va rd.len false, hbmHeld s e = false) →
        readVA s1 .cd0 [] vf va rd.len = .ok bs →
        exec (.bar2Access vf va (.read rd)) s = .next (emit (dropAnswers s1 .cd0) (.memData (0x21 + vf) bs)))
      ∧ (∀ data s1, va + data.length ≤ 2 ^ 36 → (∀ e ∈ rangeDies s .cd0 [] vf va data.length true, hbmHeld s e = false) → writeVA s .cd0 [] vf va data = .ok s1 →
        exec (.bar2Access vf va (.write data)) s = .next (activatePart (dropAnswers s1 .cd0) vf)))
    ∧ (∀ level width speed, let go := s.hd.power.hostRails && s.hd.clk.enHd.toNat.testBit 25
      let s1 := modPower s (fun p => { p with perstN := level })
      (s.hd.power.role = true → exec (.perstN ⟨level, width, speed⟩) s =
        .next (modHlink s1 (fun l => pcieTrained l (level && go) width speed)))
      ∧ (s.hd.power.role = false → level = go → exec (.perstN ⟨level, width, speed⟩) s =
          .next (emit (modHlink s1 (fun l => pcieTrained l level width speed)) (.pin "PERST_N" level))))

/-- From stage SEC_FW on and outside NO_SERVICE the security core serves every management request whose check is good; GET_STATUS and
CAL_EXPORT answer in every stage of a powered module, FW_UPDATE and ATTEST answer BUSY until their result is there and then a piece of it,
and Set Endpoint ID sets the endpoint's number. Every answer carries its check, and a message whose check is wrong is dropped. -/
def Obligations.ManagementRequests : Prop :=
  ∀ (s : State) (m : MgmtMsg) (addr : Nat),
    let f := m.iface
    let up := mgmtUp s f
    let served := up && decide (3 ≤ s.hd.boot.stage.toNat) && s.hd.boot.stage != 0xF
    let ans := fun (s : State) (code status : Nat) (body : List Byte) => emit s (.mgmt (ifNum f) code status body
      (mgmtCheck m.src m.tag (Config.holtuthHeader ++ leBytes 1 code ++ leBytes 1 status ++ body)))
    let free := ∀ e ∈ targetDies (target s (ifAgent f) addr), hbmHeld s e = false
    (m.check = msgCheck s m 1 [] → up = true → exec (.getStatus m) s = .next (ans s 1 0 (statusBody s)))
    ∧ (m.check ≠ msgCheck s m 1 [] → exec (.getStatus m) s = .next s)
    ∧ (∀ v s1, m.check = msgCheck s m 2 (leBytes 8 addr) → served = true → free → regRead s (ifAgent f) addr 8 = (.ok v, s1) →
      exec (.regRead m addr) s = .next (ans s1 2 0 (leBytes 8 v)))
    ∧ (∀ (v : W64) r s1, m.check = msgCheck s m 3 (leBytes 8 addr ++ leBytes 8 v.toNat) → served = true → free →
      regWrite s (ifAgent f) addr 8 v.toNat = (.ok r, s1) → exec (.regWrite m addr v) s = .next (ans s1 3 0 []))
    ∧ (m.check = msgCheck s m 4 [] → served = true →
      exec (.telemetry m) s = .next (ans s 4 0 (tabRead 0 s.hd.clk.telemetry 0 64)))
    ∧ (∀ (r : FwReq), let q := mgmtService s 0 r.op (leBytes 128 addr) r.off
      m.check = msgCheck s m 6 (leBytes 128 addr ++ leBytes 1 r.op ++ leBytes 4 r.off) → served = true →
      (q.1 = none → exec (.fwUpdate m addr r) s = .next (ans q.2 6 mgBusy []))
      ∧ (∀ b, q.1 = some b → exec (.fwUpdate m addr r) s = .next (ans q.2 6 0 b)))
    ∧ (∀ off (r : CalRead), let s1 := readBoot s r.failed calBase 0x10000
      let set := (calSelected s1).getD []
      m.check = msgCheck s m 7 (leBytes 4 off) → up = true → exec (.calExport m off r) s =
        .next (ans s1 7 0 (leBytes 4 set.length ++ (set.drop off).take (min r.len 48))))
    ∧ (∀ code body, m.check = msgCheck s m code body → served = true → 7 < code →
      exec (.unsupportedCommand m ⟨code, body⟩) s = .next (ans s code mgUnsupported []))
    ∧ (∀ body, let q := mgmtService s 1 4 (body.take 128) (leNat (body.drop 128))
      m.check = msgCheck s m 5 body → served = true → body.length = 132 →
      (q.1 = none → exec (.unsupportedCommand m ⟨5, body⟩) s = .next (ans q.2 5 mgBusy []))
      ∧ (∀ b, q.1 = some b → exec (.unsupportedCommand m ⟨5, body⟩) s = .next (ans q.2 5 0 b)))
    ∧ (s.hd.power.hostRails = true → exec (.setEndpointId addr) s = .next (modHlink s (fun l => { l with eid := BitVec.ofNat 8 addr })))

/-- A TAP that is up takes the instruction of its code: IDCODE answers the identification, SAMPLE/PRELOAD of the host die samples and
preloads the boundary cells, EXTEST and CLAMP drive them, HIGHZ and BYPASS drive nothing, and Holtuth debug acts as BYPASS while no
token authorises it, and on a die that holds units of a confidential partition in any case; a reset selects IDCODE. -/
def Obligations.TestAccessPorts : Prop :=
  ∀ (s : State) (tap code : Nat), tapUp s tap = true →
    let out := s.hd.link.boundaryOut.toNat
    let drive := fun (c : Nat) => (.next (if tap = 0 then emit (setIr s tap c) (.tap tap out) else setIr s tap c) : Res)
    exec (.idcode tap) s = .next (emit (setIr s tap 1) (.tap tap (idcodeOf s tap)))
    ∧ (∀ pins preload, exec (.samplePreload 0 pins preload) s = (if tapUp s 0 then .next (emit
        (modHlink (setIr s 0 2) (fun l => { l with boundary := BitVec.ofNat 8 pins, boundaryOut := BitVec.ofNat 8 preload }))
        (.tap 0 (pins % 256))) else .next s))
    ∧ exec (.extest tap) s = drive 3 ∧ exec (.clamp tap) s = drive 4
    ∧ exec (.highz tap) s = .next (setIr s tap 5)
    ∧ (isBypass code = true → exec (.bypass tap code) s = .next (setIr s tap code))
    ∧ (0x10 ≤ code → code ≤ 0x1F → (s.hd.sec.debugScope.toNat.testBit tap = false ∨ tapConfidential s tap = true) →
        exec (.holtuthDebug tap code) s = .next (setIr s tap code))
    ∧ (∀ trst, exec (.tapReset trst) s = .next (modHlink (modPower s (fun p => { p with trstN := !trst })) (fun l => { l with ir := [] })))

/-- An accepted frame is counted and does what its type says: an ITEM joins the item it belongs to, a TOKEN is presented, a CREDIT moves
the totals on, an ACK frees what it acknowledges, a NACK then sends the rest again, a MARK is captured and taken as a reference, a
MEM_REQ is served, or waits in order while the die's memory controllers change their rate, and a MEM_RSP answers its transaction. A frame of reserved type is dropped and counted. -/
def Obligations.ChainFrames : Prop :=
  ∀ (s : State) (d : DieId) (port idx : Nat) (f : Frame),
    let x := getDie s d
    let s1 := bump (bump s d (setChain port) 1 1) d (setChain port) 3 (frameBytes (portForce x port).2.2.2.2 f)
    let s2 := if bit f.hflags 2 then freeAcked s1 d idx f.ackSeq else s1
    let p := getPeer (getDie s2 d) idx
    let s3 := modPeer s2 d idx (fun p => { p with rxExpect := p.rxExpect + 1, ackDue := true })
    portTakes x port = true → judgeFrame (getDie s1 d) port f = .ok idx →
    (f.seq % 2 ^ 32 = p.rxExpect.toNat →
      (f.type = 1 → exec (.item d port f) s = .next (recvItem s3 d port idx f))
      ∧ (f.type = 2 → exec (.token d port f) s = .next (chainPresent s3 d port idx f.chan
          (.token (BitVec.ofNat 32 (leNat (f.payload.take 4))) (BitVec.ofNat 64 (leNat ((f.payload.drop 4).take 8))))))
      ∧ (f.type = 7 → exec (.memReq d port f) s = .next (
          if hbmStopped (getDie s3 d) = false ∧ (getPeer (getDie s3 d) idx).reqHeld = [] then serveReq s3 d idx f
          else modPeer s3 d idx (fun p => { p with reqHeld := p.reqHeld ++ [f] })))
      ∧ (f.type = 8 → exec (.memRsp d port f) s = .next (recvRsp s3 d idx f)))
    ∧ (f.type = 3 → exec (.credit d port f) s = .next (recvCredit s2 d idx f))
    ∧ (f.type = 4 → exec (.ack d port f) s = .next s2)
    ∧ (f.type = 5 → let s4 := freeAcked s2 d idx f.ackSeq
        exec (.nack d port f) s = .next (retryPeer s4 d idx (decide (heldCount s4 d idx < heldCount s d idx))))
    ∧ (f.type = 6 → exec (.mark d port f) s = .next (recvMark s2 d port idx f))
    ∧ exec (.reservedFrameType d port f) s = .next (chainDrop (bump s d (setChain port) 1 1) d port)

/-- A VALID entry whose oldest frame has been unacknowledged for CP_CTL.RTO sends its frames again or, the eighth time in a row, becomes
FAILED; an UP entry that owes an acknowledgement sends an ACK, and one that an output names sends its credit totals. A port that is
open, with a destination and a partition that is not being scrubbed, sends its mark. A PEER_CFG write to an entry not VALID sets its
fields, and with VALID makes it VALID from sequence number 0; one to a VALID entry without VALID takes it out of use. The link of a port
that is ON or DRAINING goes down or comes back, and then every entry of the port sends what it holds ready. -/
def Obligations.ChainEntries : Prop :=
  ∀ (s : State) (d : DieId) (n agent : Nat) (v : W64),
    let x := getDie s d
    let p := getPeer x n
    (∀ h rest, p.unacked = h :: rest → p.valid = true → h.sentAt + rtoNs x ≤ timeOf s (some d) →
      exec (.rtoTimeout d n) s = .next (retryPeer s d n false))
    ∧ (p.ackDue = true → peerUp x n = true → exec (.standaloneAck d n) s = .next (sendPlain s d n 4 []))
    ∧ (peerUp x n = true → (List.range 4).any (fun c => (chainReceiver s d p.port.toNat n c).isSome) = true →
      exec (.creditPeriodic d n) s = .next (modPeer
        (sendPlain s d n 3 ((List.range 4).flatMap (fun c => leBytes 4 (tabGet 0 p.freed c)))) d n (fun q => { q with freedSent := q.freed })))
    ∧ (portTakes x n = true → tabGet 0 x.chain.markDst n ≠ 0 → portScrubbed s d n = false →
      let w := portForce x n
      let f0 : Frame := {
        dstMac := (tabGet 0 x.chain.markDst n).toNat, srcMac := w.2.1, etype := w.2.2.2.1, ver := 1, type := 6, srcId := w.2.2.1
        dstId := 0xFFFFFFFF, seq := 0, ackSeq := 0, chan := 0, hflags := 0, part := 0, ihdr := 0, payload := leBytes 8 x.clk.tb, check := 0 }
      exec (.markSend d n) s = .next (putFrame (captureTx s d n) d n w.2.2.2.2 { f0 with check := frameCheck w.2.2.2.2 f0 }))
    ∧ (reachesDie s agent d = true → n < 4096 → p.valid = false → bit v.toNat 61 = true →
      exec (.peerCfgWrite agent d n v) s = acked agent (modPeer (modPeer s d n (fun p => { p with
        mac := BitVec.ofNat 48 (fld v.toNat 47 0), port := BitVec.ofNat 4 (fld v.toNat 51 48), part := BitVec.ofNat 4 (fld v.toNat 55 52)
        farPart := BitVec.ofNat 4 (fld v.toNat 59 56), memEn := bit v.toNat 60 })) d n
        (fun p => { p with valid := true, failed := false, txNext := 0, rxExpect := 0, tries := 0, nackAt := none })))
    ∧ (n < 16 → ((getCp x n).st = .on ∨ (getCp x n).st = .draining) →
      exec (.chainLinkStateChange d n false) s = .next (setLink_ s d n false)
      ∧ (let t := setLink_ s d n true
        exec (.chainLinkStateChange d n true) s = .next
          (((getDie t d).peers.filter (fun e => e.2.port.toNat == n)).foldl (fun s e => sendEntry s d e.1) t)))

/-- A bridge line of a channel other than FLOOR that may be offered in its turn takes a credit, a sequence number and its place in
flight; a FLOOR line is the next of its station's input. An acknowledgement takes the oldest line out of flight and returns its credit,
answering a memory request, or hands a FLOOR line over; a retry or a time-out below the eighth in a row counts; a retraining readies the
segments that come up. -/
def Obligations.BridgeLines : Prop :=
  ∀ (s : State) (d : DieId) (seg : Nat),
    let g := getSeg (getDie s d) seg
    (s.hd.boot.brgWait = false → seg ≤ 15 →
      (∀ vc data, let l := waitingLine g vc data
        vc ≤ 3 → vc ≠ 2 → g.resend = [] → mayOffer g l = true → vcTurn s d seg vc = true →
        exec (.bridgeLine d seg vc none data) s = .next (modSeg s d seg (fun g => offer d seg (dropWaiting g vc) l)))
      ∧ (∀ slot station port data,
        exec (.bridgeLine d seg 2 (some (slot, station, port)) data) s = .next (offerFloor s d seg slot station port)))
    ∧ (∀ l rest, g.flight = l :: rest →
      (l.src = none → l.vc ≠ 2 → exec (.ackOk d seg) s = .next (crossMem (modSeg s d seg (fun g =>
        offerResend d seg (addCredit { g with flight := rest, tries := 0 } l 1))) d seg l))
      ∧ (∀ slot station port, l.src = some (slot, station, port) → l.vc = 2 → exec (.ackOk d seg) s = .next
          (crossLine (modSeg s d seg (fun g => offerResend d seg { g with flight := rest, tries := 0 })) d slot station port)))
    ∧ (g.flight ≠ [] → g.st = .up → g.tries < 7 →
      let t := modSeg s d seg (fun g => { g with
        tries := g.tries + 1, retries := BitVec.ofNat 16 (satAdd 16 g.retries.toNat g.flight.length) })
      exec (.ackRetry d seg) s = .next t ∧ exec (.bridgeAckTimeout d seg) s = .next t)
    ∧ (∀ up, s.hd.boot.brgWait = true → s.cd0.clk.running = true → s.cd1.clk.running = true →
      exec (.bridgeRetrain up) s = .next (retrainBridge s up))

/-! ### The security core (16) -/

/-- A request in progress whose argument block reads runs its service: LAYOUT_SET installs an image that passes every check, SCRUB of a
partition resets it and sets its granules to be zero-written, CONF_SET of a CLEAN partition stores the image with its measurement, ATTEST
writes the report, or keeps it for the management interface that asked, FW_STAGE of a bundle that passes writes it to the other slot,
FW_APPLY of a bundle that changes more than DM_FW resets the module, and else opens the next die's window or, after both, ends,
FW_DISCARD clears STAGED, KEY_REVOKE burns a slot that is not burnt yet and DEBUG_AUTH adds to the scope, each with a fresh nonce. The
Sparge takes a granule of the scrub in progress off its list and zero-writes it. CAL_CTL.COMMIT by an agent with management rights, while
none is under way, writes a staged set that passes into the boot region with RESULT 0. -/
def Obligations.SecurityServices : Prop :=
  (∀ (s s1 : State) (ch op : Nat) (b : List Byte) (failed : List BootPage), (getChan s ch).busy = true → (getChan s ch).op = op → ch < 2 →
    argHeld s ch = false → argBlock s ch = (.ok b, s1) →
    let p := argF b 1 1
    let done := fun (s : State) => (.next (finishSec s ch 0 0) : Res)
    let reads := fun (s : State) (pa n : Nat) (im : List Byte) (t : State) => hostHeld s pa n = false ∧ hostRead s pa n = (.ok im, t)
    let z := readBoot s1 failed 0 64
    let sel := selected z
    (∀ im s2, op = 1 → reads s1 (argF b 0 8) 4864 im s2 → layoutStatus s2 im = 0 → exec (.layoutSet ch) s = done (installLayout s2 im))
    ∧ (op = 2 → s1.hd.sec.scrub = none → argF b 0 1 = 0 → 1 ≤ p → p ≤ 15 → argF b 2 1 ≤ 1 → (getSec s1 p).st ≠ .absent →
        let s2 := beginScrub s1 p
        exec (.scrub ch) s = .next (endScrub (modHsec s2 (fun h => { h with scrub := some {
          part := some p, trim := bit (argF b 2 1) 0, left0 := scrubGranules s2 .cd0 (some p), left1 := scrubGranules s2 .cd1 (some p) } }))))
    ∧ (∀ im s2, let p := argF b 0 1
        let dst := argF b 0x18 8
        let len := argF b 0x10 8
        op = 3 → p ≤ 15 → len % 4096 = 0 → ownsRange s1 p dst len = true → (getSec s1 p).st = .clean →
        reads s1 (argF b 8 8) len im s2 →
        exec (.confSet ch) s = done (modSec
          (setPtRoot (setPtRoot (storeHbm s2 dst im) .cd0 p (argF b 0x20 8)) .cd1 p (argF b 0x28 8)) p
          (fun x => { x with conf := true, refusedOnce := false, ptMeas := some (digest512 im, dst, len) })))
    ∧ (∀ s2 o, let kind := argF b 0 1
        let r := report s1 kind p (argF b 0x40 64)
        op = 4 → 1 ≤ kind → kind ≤ 2 → p ≤ 15 →
        (∀ a, (getChan s1 ch).block = some a →
          exec (.attest ch) s = .next (finishSec (modChan s1 ch (fun c => { c with report := r })) ch 0 r.length))
        ∧ ((getChan s1 ch).block = none → r.length ≤ argF b 0x10 8 → hostHeld s1 (argF b 8 8) r.length = false →
          hostWrite s1 (argF b 8 8) r = (.ok o, s2) → exec (.attest ch) s = .next (finishSec s2 ch 0 r.length)))
    ∧ (∀ im s2, op = 5 → reads z (argF b 0 8) (argF b 8 4) im s2 → bundleStatus s2 im = 0 →
        exec (.fwStage ⟨ch, failed⟩) s = done (writeSelectors (writeBoot s2 (bundleBase (1 - (selected s2).1)) im) (selectorSeq s2)
          (selected s2).1 (1 - (selected s2).1)))
    ∧ (op = 6 → sel.2 ≠ 0xFF →
        let seq := (selectorSeq z + 1) % 2 ^ 32
        let n := z.hd.sec.applying
        (liveApply z sel.1 sel.2 = false → exec (.fwApply ⟨ch, failed⟩) s = .next (warmReset (writeSelectors z seq sel.2 0xFF) 2))
        ∧ (liveApply z sel.1 sel.2 = true → n < 2 →
          exec (.fwApply ⟨ch, failed⟩) s = .next (modHsec (resumeChecks z) (fun c => { c with applying := n + 1 })))
        ∧ (liveApply z sel.1 sel.2 = true → n = 2 → exec (.fwApply ⟨ch, failed⟩) s =
          done (writeSelectors (modHsec (resumeChecks z) (fun c => { c with applying := 0 })) seq sel.2 0xFF)))
    ∧ (op = 7 → exec (.fwDiscard ⟨ch, failed⟩) s = done (writeSelectors z (selectorSeq z) sel.1 0xFF))
    ∧ (∀ t s2 signer, let k := argF t 0x10 2
        op = 8 → reads s1 (argF b 0 8) 208 t s2 → tokenSlot s2 t "HOLTUTH-REVOKE" = some signer → k ≤ 3 →
        mayRevoke s2 signer k = true → bit s2.hd.ident.keyRevoked.toNat k = false →
        exec (.keyRevoke ch) s = done (freshNonce { s2 with
          hd := { s2.hd with ident := { s2.hd.ident with keyRevoked := s2.hd.ident.keyRevoked ||| BitVec.ofNat 4 (2 ^ k) } } }))
    ∧ (∀ t s2 signer, op = 9 → reads s1 (argF b 0 8) 208 t s2 → s2.hd.ident.debugDisable = false →
        tokenSlot s2 t "HOLTUTH-DEBUG" = some signer →
        exec (.debugAuth ch) s = done (freshNonce (modHsec s2 (fun c => { c with
          debugScope := c.debugScope ||| BitVec.ofNat 3 (argF t 0x10 2) })))))
  ∧ (∀ (s : State) (agent granule : Nat) (c : Scrub),
    (s.hd.sec.scrub = some c → hbmStopped (getDie s .cd0) = false → granule ∈ c.left0 → exec (.spargeZeroWrite .cd0 granule) s =
      .next (endScrub (modHsec (zeroGranule s .cd0 granule) (fun h => { h with scrub := some { c with left0 := c.left0.erase granule } }))))
    ∧ (s.hd.sec.scrub = some c → hbmStopped (getDie s .cd1) = false → granule ∈ c.left1 → exec (.spargeZeroWrite .cd1 granule) s =
      .next (endScrub (modHsec (zeroGranule s .cd1 granule) (fun h => { h with scrub := some { c with left1 := c.left1.erase granule } }))))
    ∧ (∀ head set s1 s2, let pa := s.hd.boot.calSrc.toNat * 4096
      let n := max 0x20 (min 0x10000 (argF head 8 4))
      let t := modBoot s (fun b => { b with calBusy := true, calPend := true })
      reachesHost s agent = true → mgmtAgent agent = true → s.hd.boot.calBusy = false → hostHeld s pa 0x20 = false →
      hostRead t pa 0x20 = (.ok head, s1) → hostHeld s pa n = false → hostRead s1 pa n = (.ok set, s2) →
      calCheck s.hd.ident.serial.toNat set = 0 →
      exec (.calCommit agent) s = acked agent (modBoot (writeBoot s2 calBase set) (fun b => { b with calPend := false, calResult := 0 }))))

/-! ### Clocks, power and thermal limits (14) -/

/-- A ramp takes one of eight steps toward its frequency; a trim window adjusts the code by its error. Y1 passing in stage ROM becomes
the source and every running island ramps; Y1 failing to pass keeps the islands on IOSC; losing Y1 drops the islands to their boot
frequencies on trimmed IOSC; and a retry that passes returns to Y1. -/
def Obligations.ClockSources : Prop :=
  ∀ (s : State) (agent n old new i : Nat),
    let c := s.hd.clk
    let f := (old * (7 - i) + new * (i + 1)) / 8
    (c.ramps.any (fun e => e.1 == n) = true → tabGet (0, 0, 0) c.ramps n = (old, new, i) →
      (i < 7 → exec (.clockRampStep n) s =
        .next (modClk s (fun c => { c with freq := tabSet 0 c.freq n f, ramps := tabSet (0, 0, 0) c.ramps n (old, new, i + 1) })))
      ∧ (i = 7 → tabGet 0 c.rampHeld n = 0 → exec (.clockRampStep n) s =
        .next (modClk s (fun c => { c with freq := tabSet 0 c.freq n f, ramps := tabKeep (fun k => k != n) c.ramps }))))
    ∧ (∀ count, s.hd.power.hostRails = true → c.trimEn = true → exec (.trimWindow count) s = .next (modClk s (fun c => trimWindow c count)))
    ∧ (s.hd.power.hostRails = true → s.hd.boot.stage = 2 → c.src = 0 → c.xtalGood = false → c.noXtal = false →
      exec .xtalGood s = .next (rampAll (modClk s (fun c => { c with src := 1, xtalGood := true })))
      ∧ exec .noXtal s = .next (modClk s (fun c => { c with noXtal := true })))
    ∧ (s.hd.power.hostRails = true → c.src = 1 → exec .xtalLost s = .next (rampAll (modClk (recClock s none 2) (fun c => { c with
        src := 2, xtalGood := false, xtalLost := true, ramps := [], rampHeld := []
        freq := (islands.filter (islandOn s)).foldl (fun t n => tabSet 0 t n (bootKhz n)) c.freq }))))
    ∧ (reachesHost s agent = true → c.src ≠ 1 →
      exec (.xtalRetry agent true) s = acked agent (rampAll (modClk s (fun c => { c with src := 1, xtalGood := true }))))

/-- A governor tick of a running die whose apply window is not open moves VDD toward the lowest of the four terms, with its rate the
lowest of the beat monitors, and a duty tick the throttle's DUTY, with the power voltage at 0.55 V below 15; a PWR_CTL write
of another mode by an agent with management rights begins the change, which ends when both dies have reached it. Samples of a
powered die's sensors move its limits, a trip turns every regulator off, and telemetry is refreshed. -/
def Obligations.PowerAndHeat : Prop :=
  ∀ (s : State) (d : DieId) (agent : Nat) (v : W32) (ts reports : List Int),
    let c := s.hd.clk
    ((getDie s d).clk.running = true →
      (inApply s d = false → (∀ g, exec (.governorTick d g) s = .next (governorTick s d g)
          ∧ (getDie (governorTick s d g) d).clk.rate = BitVec.ofNat 12 (lowestMonitor (g.monitors.take 16)))
        ∧ (∀ w, exec (.dutyTick d w) s = .next (modDclk s d (fun x => { x with
            power := w, duty2 := nextDuty x w, powerV := if nextDuty x w < 15 then 0 else x.powerV }))))
      ∧ exec (.thermalSample (some d) ts reports) s = .next (sampleDie s d ts reports))
    ∧ (∀ m : BitVec 2, reachesHost s agent = true → mgmtAgent agent = true → m = BitVec.ofNat 2 v.toNat → m ≠ 3 → m ≠ c.mode → c.changing = false →
      exec (.pwrCtlWrite agent v) s = acked agent (modClk s (fun c => { c with modeCtl := m, modeReq := m, changing := true })))
    ∧ (c.changing = true → modeReached s .cd0 = true → modeReached s .cd1 = true → c.heldMode = none →
      exec .powerModeChangeEnd s = .next (modClk s (fun c =>
        { c with mode := c.modeReq, changing := false, powerHeld := s.hd.time.tb + 1000000 })))
    ∧ (s.hd.power.hostRails = true →
      exec (.thermalSample none ts reports) s = .next (modClk s (fun c => sampleHost c ts))
      ∧ exec .thermalTrip s = .next (modPower (powerOff s) (fun p => { p with tripLatch := true }))
      ∧ (∀ block, exec (.telemetryRefresh block) s =
          .next (modClk s (fun c => { c with telemetry := tabWrite 0 [] 0 (telemetryBytes s block) }))))

/-- A compute die's timebase follows the host die's a nanosecond at a time and never runs backward. A PPS edge in mode 3 is a reference
against PPS_TOD, which moves on by a second; sixteen intervals without a reference set HOLDOVER; and START arms both captures on a port.
With no command waiting a step lets one nanosecond pass and then serves the accesses that wait (assumption 14): a running timebase
counts one while no slew is due, the boot region's second copy takes what it still has to, each cell's INIT has ended, and every ring
link carries a line; and nothing else changes but the slew. -/
def Obligations.TimeKeeping : Prop :=
  (∀ (s : State) (d : DieId) (agent port : Nat) (e : Int),
    let t := s.hd.time
    (dieTimed (getDie s d) = true → e.natAbs ≤ 4 →
      exec (.timebaseFollow d e) s = .next (modDclk s d (fun c => { c with tb := if c.tb < t.tb then c.tb + 1 else c.tb })))
    ∧ (s.hd.power.hostRails = true → t.mode = 3 → exec (.ppsEdge e) s = .next (modTime
        (takeReference s ((t.tb : Int) + e - t.delay.toNat - t.ppsTod.toNat)) (fun t => { t with ppsTod := t.ppsTod + 1000000000 })))
    ∧ (s.hd.power.hostRails = true → (t.mode = 2 ∨ t.mode = 3) → t.lastRef + holdoverNs t.mode ≤ t.tb →
      exec .tbHoldover s = .next (modTime s (fun t => { t with holdover := true, slew := 0 })))
    ∧ (reachesDie s agent d = true → exec (.tbMeasStart agent d port) s = acked agent (modDclk s d (fun c =>
        { c with measPort := BitVec.ofNat 4 port, measDone := false, measTx := true, measRx := true }))))
  ∧ (∀ (s : State), s.pending = [] →
    let u := settleBoot s
    let rings := fun (s : State) => tickRing (tickRing s .cd0) .cd1
    step s = .next (serveWaiting (serveAccesses (idleTick s)))
    ∧ (s.hd.flash.bootLater = [] → s.hd.boot.calBusy = false → u = s)
    ∧ (s.hd.power.hostRails = true → -100 < s.hd.time.slew → s.hd.time.slew < 100 →
      idleTick s = rings { u with
        hd := { u.hd with time := { u.hd.time with tb := (u.hd.time.tb + 1) % 2 ^ 64 } }, cd0 := tickDie 1 u.cd0, cd1 := tickDie 1 u.cd1 })
    ∧ (s.hd.power.hostRails = false → idleTick s = rings { u with cd0 := tickDie 1 u.cd0, cd1 := tickDie 1 u.cd1 }))

/-! ### Boot and resets (15) -/

/-- A boot goes through its stages: MOD_EN with 48 V in range, or 48 V coming into range, starts the rails; the ROM accepts a bundle once
Y1 is decided; the security core starts and trains the links; the service floor is tested; and core 0 runs the bootloader. -/
def Obligations.BootStages : Prop :=
  ∀ (s : State),
    let p := s.hd.power
    let b := s.hd.boot
    (∀ role addr, p.modEn = false → p.pwr48 = .inRange → p.tripLatch = false →
      exec (.modEnRise role addr) s = .next (startPower (modPower s (fun p => { p with
        modEn := true, rolePin := role, addrPin := BitVec.ofNat 2 addr, role := role, addr := BitVec.ofNat 2 addr, bootPending := true }))))
    ∧ (p.pwr48 ≠ .inRange → p.modEn = true → p.hostRails = false → p.bootPending = true →
      (p.tripLatch = false ∨ p.pwr48 = .absent) →
      exec .pwr48Threshold s = .next (startPower (modPower s (fun p => { p with pwr48 := .inRange, tripLatch := false }))))
    ∧ (∀ c0 c1 : BootRead, let t := failPages s (c0.failed ++ c1.failed)
      b.stage = 2 → xtalDecided s = true → (romTakes t 0 c0 || romTakes t 1 c1) = true →
      exec (.firmwareVerify c0 c1) s = .next (modBoot t (fun b => { b with
        stage := 3, copy := !romTakes t 0 c0
        degraded := b.degraded ||| BitVec.ofNat 16 (2 ^ 9 * b2n (!(c0.readable && c1.readable)) + 2 ^ 8 * b2n t.hd.clk.noXtal) })))
    ∧ (∀ r, b.stage = 3 → exec (.secFwStart r) s = .next (secFwStart s r))
    ∧ (∀ r, b.stage = 4 → let s1 := trainDie (trainDie s r .cd0) r .cd1
      let s2 := saveSeeds (if s1.hd.boot.brgWait then retrainBridge s1 r.segs else s1)
      exec (.linkTraining r) s =
        .next (modBoot s2 (fun b => { b with stage := 5, degraded := b.degraded ||| BitVec.ofNat 16 (trainDegraded s2 r.segs) })))
    ∧ (∀ r, b.stage = 5 → exec (.serviceFloorTest r) s = .next (bootFloor s r))
    ∧ (b.stage = 6 → s.hd.clk.enHd.toNat.testBit 0 = false →
      let s1 := modSec (modClk s (fun c => { c with enHd := c.enHd ||| 1 })) 0 (fun x => { x with st := .active })
      exec .hostStart s = .next { s1 with
        hd := { s1.hd with ident := { s1.hd.ident with fwSvn := max s1.hd.ident.fwSvn (min 64 (activeSvn s1)) } } })

/-- MOD_EN falling, and a voltage or regulator fault of a powered module, turn every rail off; 100 ms after such a turn-off the module
restarts. The management agent's reset of a partition, of a die without host memory and of the module run. -/
def Obligations.TurnOffsAndResets : Prop :=
  ∀ (s : State) (agent part : Nat) (d : DieId),
    let p := s.hd.power
    let off := modPower (powerOff s) (fun p => { p with restartDue := true })
    (p.modEn = true → exec .modEnFall s = .next (modPower (powerOff s) (fun p => { p with modEn := false, tripLatch := false })))
    ∧ (p.hostRails = true → exec .undervoltage s = .next (modPower off (fun p => { p with pwr48 := .low }))
      ∧ exec .overvoltage s = .next (modPower off (fun p => { p with pwr48 := .high })) ∧ exec .regulatorFault s = .next off)
    ∧ (p.restartDue = true → p.pwr48 = .inRange → p.modEn = true → p.tripLatch = false → exec .turnOffRestart s = .next (startPower s))
    ∧ (reachesHost s agent = true → mgmtAgent agent = true →
      (part < 16 → exec (.partRst agent part) s = acked agent (startPartRst (modBoot s (fun b => { b with prPart := BitVec.ofNat 4 part })) part))
      ∧ (s.hd.boot.stage ≠ 0xF → p.computeRails = true → (getDie s d).clk.stage = 0 → holdsHost (getDie s d) = false →
          exec (.dieReset agent d) s = acked agent (beginDieReset s d))
      ∧ (s.hd.boot.stage ≠ 0xF → exec (.warmReset agent) s = acked agent (warmReset s 1)))

/-! ### Counters and trace (17) -/

/-- An enabled counter of a set whose unit runs, at its largest value, passes to 0. CLEAR zeroes a set, HOLD holds it, and a snapshot whose
time has come, or which is triggered, holds every set of the die. -/
def Obligations.CounterSets : Prop :=
  ∀ (s : State) (d : DieId) (agent k n : Nat) (hold : Bool),
    let x := getDie s d
    (∀ m, setSize k = some m → n < m → beatCounter k n = false → unitRuns x k = true → (getSet x k).en = true →
      (setOwner s d k).any (confidential s) = false → (tabGet {} (getSet x k).counters n).count.toNat = 2 ^ 48 - 1 →
      exec (.counterWrap d k n) s = .next (bump s d k n 1))
    ∧ (reachesSet s agent d k = true →
      exec (.cntClear agent d k) s = acked agent (modSet s d k (fun c => { c with counters := [] }))
      ∧ exec (.cntHold agent d k hold) s = acked agent (modSet s d k (fun c => holdSet c hold)))
    ∧ (reachesDie s agent d = true → exec (.cntSnapArm agent d) s = acked agent (if x.obs.snapTime.toNat ≤ x.clk.tb then takeSnap s d
        else modDie s d (fun x => { x with obs := { x.obs with snapArmed := true } })))
    ∧ (x.clk.running = true → x.obs.snapArmed = true → x.obs.snapTime.toNat ≤ x.clk.tb → exec (.cntSnapTrigger d) s = .next (takeSnap s d))

/-- A Tap whose source has a record to emit gives the trace unit that record; a cause that is due triggers it; a write of TRC_MARK emits a MARK record; a
write of TRC_CTL with EN starts a unit that is off; and RD_SEQ moves a log's read place. A word of a reserved opcode raises
ILLEGAL_OP. -/
def Obligations.TraceAndLogs : Prop :=
  ∀ (s : State) (d : DieId) (agent : Nat),
    let t := getTrace s d
    (∀ r data, let p := recPlace r
      tapData s d r = some data → (getDie s d).clk.running = true → tapEmits s d r = true → trigMatch t r.kind r.cls p.1 = false →
      (r.lost = false ∨ t.st = 0) →
      exec (.tapRecord d r) s = .next (traceRec s d r.kind r.cls p.1 p.2 ((recSource s d r).1.getD 0) data))
    ∧ (∀ cause, (getDie s d).clk.running = true → trigReady t = true → cause ≠ 0 → cause = causesDue s d →
      exec (.traceTrigger d cause) s = .next (takeTrigger s d cause))
    ∧ (∀ v, reachesDie s agent d = true → exec (.trcMarkWrite agent d v) s =
        acked agent (if bit t.kinds.toNat 0xF then emitRec s d 0xF 6 0 0 0 v.toNat else s))
    ∧ (∀ v : W64, reachesDie s agent d = true → t.en = false → bit v.toNat 0 = true → bit v.toNat 3 = false →
      exec (.traceEnable agent d v) s = acked agent (traceStart (modTrace s d (fun t => { t with
        mode := BitVec.ofNat 2 (fld v.toNat 2 1), part := BitVec.ofNat 4 (fld v.toNat 7 4), groups := BitVec.ofNat 16 (fld v.toNat 31 16)
        kinds := BitVec.ofNat 16 (fld v.toNat 47 32) })) d))
    ∧ (∀ v, (reachesDie s agent d = true → exec (.rdSeqWrite agent (some d) v) s = acked agent (writeRdSeq s (some d) v))
      ∧ (reachesHost s agent = true → exec (.rdSeqWrite agent none v) s = acked agent (writeRdSeq s none v)))
    ∧ (∀ (l : StreamLoc) (w : Nat), canIssue s l = true → (isExec l.stream || (getCell s (cellOf l)).c.grant.isNone) = true →
      wordAt s l (getStream s l).pc.toNat = some w → opcodeAssigned (opcode w) = false →
      exec (.reservedOpcodeIssue l) s = .next (raiseIssue s l xIllegalOp))

/-! ### Whole-machine rules -/

/-- Right after reset no command waits, HBM holds nothing listed and so reads as zero (assumption 11), MOD_EN is low and no rail is up,
the boot is in stage POWER, no die manager runs, no Bill is ACTIVE, every interrupt file is empty and every stream is IDLE. -/
def Obligations.ResetState : Prop :=
  let s := State.reset
  s.pending = [] ∧ canonical s = true ∧ (∀ a, tabGet 0 s.hbm a = 0) ∧ s.hd.power.modEn = false ∧ s.hd.power.hostRails = false
    ∧ s.hd.power.computeRails = false ∧ s.hd.boot.stage = 1 ∧ s.imsic = []
    ∧ (∀ d, (getDie s d).clk.running = false ∧ (∀ p, (getPart (getDie s d) p).active = none))
    ∧ (∀ l : StreamLoc, (getStream s l).st = .idle ∧ ∀ r, getReg (getStream s l) r = 0)

/-- A block-scale code from 0 to 254 is 2^(code − 127), neither negative nor zero, and 0xFF is NaN (R36). A sum of two LX values of equal
windows is exact where it lies in the format's range, and else is stored modulo 2^width with LX_OVF (R53). A NaN converts to the canonical
NaN of its format with its sign, of E4M3 under either SAT, and makes the scale of a block 0xFF (R47, R34). -/
def Obligations.NumberFormats : Prop :=
  (∀ c, c < 255 → decodeScale c = .fin false 1 ((c : Int) - 127)) ∧ decodeScale 0xFF = .nan false
  ∧ (∀ (w : Nat) (x y : Int), w = 128 ∨ w = 64 →
      ((-(2 ^ (w - 1) : Int) ≤ x + y ∧ x + y < 2 ^ (w - 1)) → lxAdd w x y = (x + y, false))
      ∧ ((x + y < -(2 ^ (w - 1) : Int) ∨ 2 ^ (w - 1) ≤ x + y) → ∃ z : Int, lxAdd w x y = (z, true)
          ∧ -(2 ^ (w - 1) : Int) ≤ z ∧ z < 2 ^ (w - 1) ∧ (2 ^ w : Int) ∣ x + y - z))
  ∧ (∀ (r : Rnd) (sat neg : Bool) (u : Nat) (p : Fmt × Nat × Nat),
      p ∈ [(Fmt.fp32, 0x7FC00000, 0xFFC00000), (.fp19, 0x7FC00000, 0xFFC00000), (.bf16, 0x7FC0, 0xFFC0), (.fp16, 0x7E00, 0xFE00),
        (.e4m3, 0x7F, 0xFF), (.e5m2, 0x7E, 0xFE)] →
      conv p.1 r sat u (.nan neg) = (if neg then p.2.2 else p.2.1, { nonfinite := true }))
  ∧ (∀ (f : Fmt) (r : Rnd) (vs : List Val) (us : List Nat), (∃ neg, Val.nan neg ∈ vs) → (convBlock f r vs us).1 = 0xFF)

/-- Every step keeps HBM and both dies' tables of cells in their canonical form: addresses strictly rising, and no entry equal to what
an unlisted address reads as. -/
def Obligations.StatesStayCanonical : Prop := ∀ (s t : State), canonical s = true → step s = .next t → canonical t = true

/-- A write of HBM that is accepted reads back whole through the same path, and leaves every byte outside it; it keeps the form. -/
def Obligations.MemoryReadsBack : Prop :=
  ∀ (s t : State) (d : DieId) (hpa : Nat) (bs : List Byte), Memory.wf s.hbm = true → writePhys s d hpa bs = .ok t →
    readPhys t d hpa bs.length = .ok bs ∧ Memory.wf t.hbm = true
    ∧ (∀ a, (a < hpa ∨ hpa + bs.length ≤ a) → tabGet 0 t.hbm a = tabGet 0 s.hbm a)

/-- Every command answers a next state in every state, but Holtuth debug of a powered TAP that a debug token authorises, of a
die that holds no unit of a confidential partition, which is refused under its own name. -/
def Obligations.EveryCommandRuns : Prop :=
  ∀ (c : Instr) (s : State), (∃ t, exec c s = .next t)
    ∨ ∃ tap code, c = .holtuthDebug tap code ∧ tapUp s tap = true ∧ 0x10 ≤ code ∧ code ≤ 0x1F
      ∧ s.hd.sec.debugScope.toNat.testBit tap = true ∧ tapConfidential s tap = false ∧ exec c s = .refused .debugUnspecified

/-- No command changes the queue of waiting commands: what a command sets off inside the module is its own effect. -/
def Obligations.QueueUntouched : Prop := ∀ (c : Instr) (s t : State), exec c s = .next t → t.pending = s.pending

/-- In a canonical state, an instruction that works on scalar registers and the loop stack alone, whatever it comes to, leaves memory, the host die, the other
die, every other cell, the store and tiles of its own cell, and every other stream of it. -/
def Obligations.ScalarFrame : Prop :=
  ∀ (s t : State) (l : StreamLoc) (f : StreamLoc → Instr),
    f ∈ [Instr.nop, .halt, .loop, .loopi, .scrr, .scrw, .add, .sub, .and, .or, .xor, .sll, .srl, .sra, .mul, .slt, .sltu, .li, .lih,
      .beq, .bne, .blt, .bge, .bltu, .bgeu, .jal, .jr] →
    canonical s = true → exec (f l) s = .next t →
    t.hbm = s.hbm ∧ t.hbmBad = s.hbmBad ∧ t.hd = s.hd ∧ getDie t (otherDie l.die) = getDie s (otherDie l.die)
    ∧ (∀ c : CellLoc, c ≠ cellOf l → getCell t c = getCell s c)
    ∧ (getCell t (cellOf l)).m = (getCell s (cellOf l)).m
    ∧ (∀ k : StreamLoc, cellOf k = cellOf l → k.stream < 6 → l.stream < 6 → k.stream ≠ l.stream → getStream t k = getStream s k)

/-- An END that is not a positive multiple of 8 raises PC_RANGE; a LOOP or LOOPI that would push a fifth level raises LOOP_DEPTH; a
branch, jump, LOOP, LOOPI or HALT at the end address of an active level raises LOOP_END where no lower exception code holds. The stream
takes the exception with its place and its loop stack as they were. An instruction that issues moves its stream on under the loop stack:
the end of the innermost level, and of every level that ends there with it, counts down: a level with iterations left starts its body
again, and a level whose last iteration ends is popped (R152). -/
def Obligations.LoopExceptions : Prop :=
  (∀ (s : State) (l : StreamLoc) (w : Nat),
    let t := getStream s l
    let pc := t.pc.toNat
    let atEnd := atLoopEnd t.loops pc = true
    let goes := fun (c : Nat) => (.next (raiseIssue s l c) : Res)
    let loops := fun (o : Nat) (i : Instr) (count : Nat) => ready s l o w = true →
      ((fIMMs w ≤ 0 ∨ fIMMs w % 8 ≠ 0) → exec i s = goes xPcRange)
      ∧ (0 < fIMMs w → fIMMs w % 8 = 0 →
          (0 < count → 4 ≤ t.loops.length → exec i s = goes xLoopDepth)
          ∧ ((count = 0 ∨ t.loops.length < 4) → atEnd → exec i s = goes xLoopEnd))
    let branches := fun (o : Nat) (i : Instr) => ready s l o w = true → pcPlus pc (fIMMs w) % 8 = 0 → atEnd → exec i s = goes xLoopEnd
    loops 0x05 (.loop l) (regFld t (fRS1 w) 31 0) ∧ loops 0x06 (.loopi l) (fld w 31 8)
    ∧ branches 0x20 (.beq l) ∧ branches 0x21 (.bne l) ∧ branches 0x22 (.blt l) ∧ branches 0x23 (.bge l) ∧ branches 0x24 (.bltu l)
    ∧ branches 0x25 (.bgeu l) ∧ branches 0x26 (.jal l)
    ∧ (ready s l 0x27 w = true → unsigned 32 (((getReg t (fRS1 w)).toNat : Int) + fIMMs w) % 8 = 0 → atEnd → exec (.jr l) s = goes xLoopEnd)
    ∧ (ready s l 0x01 w = true → atEnd → exec (.halt l) s = goes xLoopEnd)
    ∧ (∀ c, canonical s = true → l.stream < 6 → getStream (raiseIssue s l c) l =
        { t with st := .exception, exc := c, excPc := t.pc, excOp := none, excAt := some (beatNow s l), wait := .none })
    ∧ (∀ u : State, let p := loopBack (getStream u l).loops pc
      canonical u = true → l.stream < 6 → issued s l u = .next (moveOn u l pc)
        ∧ getStream (moveOn u l pc) l = { getStream u l with loops := p.1, pc := BitVec.ofNat 32 p.2, wait := .none }))
  ∧ (∀ (v : LoopLevel) (r : List LoopLevel) (pc : Nat),
    loopBack [] pc = ([], (pc + 8) % 2 ^ 32)
    ∧ (v.last ≠ pc → loopBack (v :: r) pc = (v :: r, (pc + 8) % 2 ^ 32))
    ∧ (v.last = pc → 1 < v.left → loopBack (v :: r) pc = ({ v with left := v.left - 1, iter := v.iter + 1 } :: r, v.first))
    ∧ (v.last = pc → v.left ≤ 1 → loopBack (v :: r) pc = loopBack r pc))

/-- BILL_UNLOAD of the partition's own slot: a LOADED slot that no select names becomes EMPTY and the command is done with OK; a slot in
any other state but EMPTY, or named by a held select (Table 7.17), is done with BILL_SLOT_BUSY; an EMPTY slot is done with OK. -/
def Obligations.BillUnload : Prop :=
  ∀ (s : State) (d : DieId) (q cseq : Nat) (c : Started),
    let r : CmdRef := { q := q, cseq := cseq }
    let p := queuePart s d q
    let slot := cmdF c.word 0x10 1
    let st := (getSlot (getDie s d) slot).st
    freshCmd s d q cseq 0x11 = some c → ownerSlot s d slot = some p →
    (st = .loaded → slotNamed s d p slot = false →
      exec (.billUnload d q cseq) s = .next (modSlot (doneCmd s d r 0 0) d slot (fun x => { st := .empty, lastStatus := x.lastStatus })))
    ∧ (st = .empty → exec (.billUnload d q cseq) s = .next (doneCmd s d r 0 0))
    ∧ (st ≠ .empty → (st ≠ .loaded ∨ slotNamed s d p slot = true) → exec (.billUnload d q cseq) s = .next (failCmd s d r 0x29))

/-- An error record takes the next SEQ and lies in the slot of its SEQ modulo 1,024; into a full log it overwrites the oldest unread
record, RD_SEQ advances by 1 and LOST counts; so a log never shows more than 1,024 unread records; and a record into an empty log
whose interrupt is enabled sends it. -/
def Obligations.ErrorLog : Prop :=
  ∀ (s : State) (w : Option DieId) (r : ErrRec),
    let e := getLog s w
    let full := (e.wr - e.rd).toNat = 1024
    let redact := r.part.any (confidential s)
    let word := packErr (timeOf s w) e.wr.toNat (logNum w) redact r
    let e1 := { e with recs := tabSet 0 e.recs (e.wr.toNat % 1024) word, wr := e.wr + 1 }
    (¬ full → getLog (logErr s w r) w = e1)
    ∧ (full → getLog (logErr s w r) w = { e1 with rd := e.rd + 1, lost := BitVec.ofNat 32 (satAdd 32 e.lost.toNat 1) })
    ∧ fld word 95 64 = e.wr.toNat
    ∧ ((e.wr - e.rd).toNat ≤ 1024 → ((getLog (logErr s w r) w).wr - (getLog (logErr s w r) w).rd).toNat ≤ 1024)
    ∧ (e.wr = e.rd → e.irqEn = true → logErr s w r = sendIrq (setLog s w e1) (e.irqAddr.toNat * 4) e.irqEiid.toNat)
end

