-- ==== Sys2Proof/Laws/Exec.lean ====
section
/-! SUPPORT. exec of each command is its meaning. -/

namespace Sys2Proof.Machine

theorem exec_nop (l : StreamLoc) (s : State) : exec (.nop l) s = execNop l s := rfl
theorem exec_halt (l : StreamLoc) (s : State) : exec (.halt l) s = execHalt l s := rfl
theorem exec_haltComplete (l : StreamLoc) (s : State) : exec (.haltComplete l) s = execHaltComplete l s := rfl
theorem exec_fence (l : StreamLoc) (s : State) : exec (.fence l) s = execFence l s := rfl
theorem exec_semacq (l : StreamLoc) (s : State) : exec (.semacq l) s = execSemacq l s := rfl
theorem exec_semrel (l : StreamLoc) (s : State) : exec (.semrel l) s = execSemrel l s := rfl
theorem exec_semrelApply (c : CellLoc) (op : Nat) (s : State) : exec (.semrelApply c op) s = execSemrelApply c op s := rfl
theorem exec_loop (l : StreamLoc) (s : State) : exec (.loop l) s = execLoop l s := rfl
theorem exec_loopi (l : StreamLoc) (s : State) : exec (.loopi l) s = execLoopi l s := rfl
theorem exec_tcfg (l : StreamLoc) (s : State) : exec (.tcfg l) s = execTcfg l s := rfl
theorem exec_tcfgApply (c : CellLoc) (op : Nat) (s : State) : exec (.tcfgApply c op) s = execTcfgApply c op s := rfl
theorem exec_scrr (l : StreamLoc) (s : State) : exec (.scrr l) s = execScrr l s := rfl
theorem exec_scrw (l : StreamLoc) (s : State) : exec (.scrw l) s = execScrw l s := rfl
theorem exec_add (l : StreamLoc) (s : State) : exec (.add l) s = execAdd l s := rfl
theorem exec_sub (l : StreamLoc) (s : State) : exec (.sub l) s = execSub l s := rfl
theorem exec_and (l : StreamLoc) (s : State) : exec (.and l) s = execAnd l s := rfl
theorem exec_or (l : StreamLoc) (s : State) : exec (.or l) s = execOr l s := rfl
theorem exec_xor (l : StreamLoc) (s : State) : exec (.xor l) s = execXor l s := rfl
theorem exec_sll (l : StreamLoc) (s : State) : exec (.sll l) s = execSll l s := rfl
theorem exec_srl (l : StreamLoc) (s : State) : exec (.srl l) s = execSrl l s := rfl
theorem exec_sra (l : StreamLoc) (s : State) : exec (.sra l) s = execSra l s := rfl
theorem exec_mul (l : StreamLoc) (s : State) : exec (.mul l) s = execMul l s := rfl
theorem exec_slt (l : StreamLoc) (s : State) : exec (.slt l) s = execSlt l s := rfl
theorem exec_sltu (l : StreamLoc) (s : State) : exec (.sltu l) s = execSltu l s := rfl
theorem exec_li (l : StreamLoc) (s : State) : exec (.li l) s = execLi l s := rfl
theorem exec_lih (l : StreamLoc) (s : State) : exec (.lih l) s = execLih l s := rfl
theorem exec_beq (l : StreamLoc) (s : State) : exec (.beq l) s = execBeq l s := rfl
theorem exec_bne (l : StreamLoc) (s : State) : exec (.bne l) s = execBne l s := rfl
theorem exec_blt (l : StreamLoc) (s : State) : exec (.blt l) s = execBlt l s := rfl
theorem exec_bge (l : StreamLoc) (s : State) : exec (.bge l) s = execBge l s := rfl
theorem exec_bltu (l : StreamLoc) (s : State) : exec (.bltu l) s = execBltu l s := rfl
theorem exec_bgeu (l : StreamLoc) (s : State) : exec (.bgeu l) s = execBgeu l s := rfl
theorem exec_jal (l : StreamLoc) (s : State) : exec (.jal l) s = execJal l s := rfl
theorem exec_jr (l : StreamLoc) (s : State) : exec (.jr l) s = execJr l s := rfl
theorem exec_tfetch (l : StreamLoc) (s : State) : exec (.tfetch l) s = execTfetch l s := rfl
theorem exec_tfetchRowCommit (c : CellLoc) (op : Nat) (s : State) : exec (.tfetchRowCommit c op) s = execTfetchRowCommit c op s := rfl
theorem exec_tstore (l : StreamLoc) (s : State) : exec (.tstore l) s = execTstore l s := rfl
theorem exec_tstoreRowAccept (c : CellLoc) (op : Reader) (s : State) : exec (.tstoreRowAccept c op) s = execTstoreRowAccept c op s := rfl
theorem exec_transferFault (c : CellLoc) (op : Nat) (s : State) : exec (.transferFault c op) s = execTransferFault c op s := rfl
theorem exec_tld (l : StreamLoc) (s : State) : exec (.tld l) s = execTld l s := rfl
theorem exec_tst (l : StreamLoc) (s : State) : exec (.tst l) s = execTst l s := rfl
theorem exec_xfetch (l : StreamLoc) (s : State) : exec (.xfetch l) s = execXfetch l s := rfl
theorem exec_xfetchFault (c : CellLoc) (op : Nat) (s : State) : exec (.xfetchFault c op) s = execXfetchFault c op s := rfl
theorem exec_caskld (l : StreamLoc) (s : State) : exec (.caskld l) s = execCaskld l s := rfl
theorem exec_caskst (l : StreamLoc) (s : State) : exec (.caskst l) s = execCaskst l s := rfl
theorem exec_dqpush (l : StreamLoc) (s : State) : exec (.dqpush l) s = execDqpush l s := rfl
theorem exec_dqpop (l : StreamLoc) (s : State) : exec (.dqpop l) s = execDqpop l s := rfl
theorem exec_waitv (l : StreamLoc) (s : State) : exec (.waitv l) s = execWaitv l s := rfl
theorem exec_opa (l : StreamLoc) (s : State) : exec (.opa l) s = execOpa l s := rfl
theorem exec_accOpen (l : StreamLoc) (s : State) : exec (.accOpen l) s = execAccOpen l s := rfl
theorem exec_accClose (l : StreamLoc) (s : State) : exec (.accClose l) s = execAccClose l s := rfl
theorem exec_drain (l : StreamLoc) (s : State) : exec (.drain l) s = execDrain l s := rfl
theorem exec_ewCvt (l : EwAt) (s : State) : exec (.ewCvt l) s = execEwCvt l s := rfl
theorem exec_ewAdd (l : EwAt) (s : State) : exec (.ewAdd l) s = execEwAdd l s := rfl
theorem exec_ewSub (l : EwAt) (s : State) : exec (.ewSub l) s = execEwSub l s := rfl
theorem exec_ewMul (l : EwAt) (s : State) : exec (.ewMul l) s = execEwMul l s := rfl
theorem exec_ewFma (l : EwAt) (s : State) : exec (.ewFma l) s = execEwFma l s := rfl
theorem exec_ewMax (l : EwAt) (s : State) : exec (.ewMax l) s = execEwMax l s := rfl
theorem exec_ewMin (l : EwAt) (s : State) : exec (.ewMin l) s = execEwMin l s := rfl
theorem exec_ewAbs (l : EwAt) (s : State) : exec (.ewAbs l) s = execEwAbs l s := rfl
theorem exec_ewNeg (l : EwAt) (s : State) : exec (.ewNeg l) s = execEwNeg l s := rfl
theorem exec_ewClamp (l : EwAt) (s : State) : exec (.ewClamp l) s = execEwClamp l s := rfl
theorem exec_ewSel (l : EwAt) (s : State) : exec (.ewSel l) s = execEwSel l s := rfl
theorem exec_ewAxpby (l : EwAt) (s : State) : exec (.ewAxpby l) s = execEwAxpby l s := rfl
theorem exec_ewDiv (l : EwAt) (s : State) : exec (.ewDiv l) s = execEwDiv l s := rfl
theorem exec_ewSqrt (l : EwAt) (s : State) : exec (.ewSqrt l) s = execEwSqrt l s := rfl
theorem exec_ewRsqrt (l : EwAt) (s : State) : exec (.ewRsqrt l) s = execEwRsqrt l s := rfl
theorem exec_ewRecip (l : EwAt) (s : State) : exec (.ewRecip l) s = execEwRecip l s := rfl
theorem exec_ewExp (l : EwAt) (s : State) : exec (.ewExp l) s = execEwExp l s := rfl
theorem exec_ewLog (l : EwAt) (s : State) : exec (.ewLog l) s = execEwLog l s := rfl
theorem exec_ewFn (l : EwAt) (s : State) : exec (.ewFn l) s = execEwFn l s := rfl
theorem exec_ewDfn (l : EwAt) (s : State) : exec (.ewDfn l) s = execEwDfn l s := rfl
theorem exec_ewRsum (l : EwAt) (s : State) : exec (.ewRsum l) s = execEwRsum l s := rfl
theorem exec_ewRsumsq (l : EwAt) (s : State) : exec (.ewRsumsq l) s = execEwRsumsq l s := rfl
theorem exec_ewRmax (l : EwAt) (s : State) : exec (.ewRmax l) s = execEwRmax l s := rfl
theorem exec_ewCsum (l : EwAt) (s : State) : exec (.ewCsum l) s = execEwCsum l s := rfl
theorem exec_red (l : StreamLoc) (s : State) : exec (.red l) s = execRed l s := rfl
theorem exec_spill (l : StreamLoc) (s : State) : exec (.spill l) s = execSpill l s := rfl
theorem exec_resume (l : StreamLoc) (s : State) : exec (.resume l) s = execResume l s := rfl
theorem exec_taskPlacement (c : CellLoc) (op : Nat) (s : State) : exec (.taskPlacement c op) s = execTaskPlacement c op s := rfl
theorem exec_taskReady (c : CellLoc) (op : Nat) (s : State) : exec (.taskReady c op) s = execTaskReady c op s := rfl
theorem exec_taskChoice (c : CellLoc) (eng : Nat) (s : State) : exec (.taskChoice c eng) s = execTaskChoice c eng s := rfl
theorem exec_slotEntry (c : CellLoc) (eng : Nat) (sideB : Bool) (s : State) : exec (.slotEntry c eng sideB) s = execSlotEntry c eng sideB s := rfl
theorem exec_rankOneStep (c : CellLoc) (eng : Nat) (s : State) : exec (.rankOneStep c eng) s = execRankOneStep c eng s := rfl
theorem exec_spillPoint (c : CellLoc) (eng : Nat) (s : State) : exec (.spillPoint c eng) s = execSpillPoint c eng s := rfl
theorem exec_lastSlice (c : CellLoc) (eng : Nat) (s : State) : exec (.lastSlice c eng) s = execLastSlice c eng s := rfl
theorem exec_drainRead (c : CellLoc) (op : Reader) (s : State) : exec (.drainRead c op) s = execDrainRead c op s := rfl
theorem exec_drainResultWrite (c : CellLoc) (op : Nat) (s : State) : exec (.drainResultWrite c op) s = execDrainResultWrite c op s := rfl
theorem exec_groupFetch (c : CellLoc) (eng : Nat) (sideB : Bool) (perr : Bool) (s : State) : exec (.groupFetch c eng sideB perr) s = execGroupFetch c eng sideB perr s := rfl
theorem exec_parityRetryWrite (c : CellLoc) (eng : Nat) (sideB : Bool) (s : State) : exec (.parityRetryWrite c eng sideB) s = execParityRetryWrite c eng sideB s := rfl
theorem exec_streamStart (agent : Nat) (l : StreamLoc) (s : State) : exec (.streamStart agent l) s = execStreamStart agent l s := rfl
theorem exec_streamRetry (agent : Nat) (l : StreamLoc) (s : State) : exec (.streamRetry agent l) s = execStreamRetry agent l s := rfl
theorem exec_streamSkip (agent : Nat) (l : StreamLoc) (s : State) : exec (.streamSkip agent l) s = execStreamSkip agent l s := rfl
theorem exec_streamStop (agent : Nat) (l : StreamLoc) (s : State) : exec (.streamStop agent l) s = execStreamStop agent l s := rfl
theorem exec_streamResume (agent : Nat) (l : StreamLoc) (s : State) : exec (.streamResume agent l) s = execStreamResume agent l s := rfl
theorem exec_sfltResume (agent : Nat) (l : StreamLoc) (s : State) : exec (.sfltResume agent l) s = execSfltResume agent l s := rfl
theorem exec_sfltCancel (agent : Nat) (l : StreamLoc) (s : State) : exec (.sfltCancel agent l) s = execSfltCancel agent l s := rfl
theorem exec_streamPcWrite (agent : Nat) (l : StreamLoc) (v : W64) (s : State) : exec (.streamPcWrite agent l v) s = execStreamPcWrite agent l v s := rfl
theorem exec_srStateWrite (agent : Nat) (l : StreamLoc) (v : W64) (s : State) : exec (.srStateWrite agent l v) s = execSrStateWrite agent l v s := rfl
theorem exec_schedCtlWrite (agent : Nat) (c : CellLoc) (v : W32) (s : State) : exec (.schedCtlWrite agent c v) s = execSchedCtlWrite agent c v s := rfl
theorem exec_engCtlWrite (agent : Nat) (c : CellLoc) (v : W32) (s : State) : exec (.engCtlWrite agent c v) s = execEngCtlWrite agent c v s := rfl
theorem exec_dtabWrite (agent : Nat) (c : CellLoc) (deriv : Bool) (idx : Nat) (v : W32) (s : State) : exec (.dtabWrite agent c deriv idx v) s = execDtabWrite agent c deriv idx v s := rfl
theorem exec_grantStart (d : DieId) (group : Nat) (r : GrantReq) (s : State) : exec (.grantStart d group r) s = execGrantStart d group r s := rfl
theorem exec_grantEnd (d : DieId) (group : Nat) (s : State) : exec (.grantEnd d group) s = execGrantEnd d group s := rfl
theorem exec_minGapExpiry (c : CellLoc) (s : State) : exec (.minGapExpiry c) s = execMinGapExpiry c s := rfl
theorem exec_maskLineFill (l : StreamLoc) (s : State) : exec (.maskLineFill l) s = execMaskLineFill l s := rfl
theorem exec_sectorCheck (d : DieId) (sec : Nat) (answers : Bool) (s : State) : exec (.sectorCheck d sec answers) s = execSectorCheck d sec answers s := rfl
theorem exec_sectorFailed (d : DieId) (sec : Nat) (s : State) : exec (.sectorFailed d sec) s = execSectorFailed d sec s := rfl
theorem exec_broadcastWrite (agent : Nat) (d : DieId) (sector : Bool) (mask : Nat) (off : Nat) (size : Nat) (v : W64) (s : State) : exec (.broadcastWrite agent d sector mask off size v) s = execBroadcastWrite agent d sector mask off size v s := rfl
theorem exec_lineSend (d : DieId) (slot : Nat) (route : Reader) (s : State) : exec (.lineSend d slot route) s = execLineSend d slot route s := rfl
theorem exec_itemPresent (d : DieId) (slot : Nat) (route : Nat) (s : State) : exec (.itemPresent d slot route) s = execItemPresent d slot route s := rfl
theorem exec_creditReturn (d : DieId) (slot : Nat) (route : Nat) (s : State) : exec (.creditReturn d slot route) s = execCreditReturn d slot route s := rfl
theorem exec_microBatchBegin (d : DieId) (slot : Nat) (station : Nat) (ctx : Nat) (s : State) : exec (.microBatchBegin d slot station ctx) s = execMicroBatchBegin d slot station ctx s := rfl
theorem exec_microBatchEnd (d : DieId) (slot : Nat) (station : Nat) (ctx : Nat) (s : State) : exec (.microBatchEnd d slot station ctx) s = execMicroBatchEnd d slot station ctx s := rfl
theorem exec_routeRelease (d : DieId) (slot : Nat) (route : Nat) (s : State) : exec (.routeRelease d slot route) s = execRouteRelease d slot route s := rfl
theorem exec_drainStageItem (d : DieId) (slot : Nat) (station : Nat) (s : State) : exec (.drainStageItem d slot station) s = execDrainStageItem d slot station s := rfl
theorem exec_billLoadBegin (d : DieId) (s : State) : exec (.billLoadBegin d) s = execBillLoadBegin d s := rfl
theorem exec_billLoadComplete (d : DieId) (s : State) : exec (.billLoadComplete d) s = execBillLoadComplete d s := rfl
theorem exec_switchQuiescence (d : DieId) (part : Nat) (s : State) : exec (.switchQuiescence d part) s = execSwitchQuiescence d part s := rfl
theorem exec_switchClose (d : DieId) (part : Nat) (s : State) : exec (.switchClose d part) s = execSwitchClose d part s := rfl
theorem exec_switchReset (d : DieId) (part : Nat) (s : State) : exec (.switchReset d part) s = execSwitchReset d part s := rfl
theorem exec_switchConfigure (d : DieId) (part : Nat) (s : State) : exec (.switchConfigure d part) s = execSwitchConfigure d part s := rfl
theorem exec_switchTables (d : DieId) (part : Nat) (s : State) : exec (.switchTables d part) s = execSwitchTables d part s := rfl
theorem exec_switchOpen (d : DieId) (part : Nat) (s : State) : exec (.switchOpen d part) s = execSwitchOpen d part s := rfl
theorem exec_heldSelectStart (d : DieId) (part : Nat) (s : State) : exec (.heldSelectStart d part) s = execHeldSelectStart d part s := rfl
theorem exec_commandWrite (agent : Nat) (d : DieId) (q : Nat) (off : Nat) (data : List Byte) (s : State) : exec (.commandWrite agent d q off data) s = execCommandWrite agent d q off data s := rfl
theorem exec_commandStart (d : DieId) (q : Nat) (s : State) : exec (.commandStart d q) s = execCommandStart d q s := rfl
theorem exec_commandComplete (d : DieId) (q : Nat) (cseq : Nat) (s : State) : exec (.commandComplete d q cseq) s = execCommandComplete d q cseq s := rfl
theorem exec_run (d : DieId) (q : Nat) (cseq : Nat) (s : State) : exec (.run d q cseq) s = execRun d q cseq s := rfl
theorem exec_billLoad (d : DieId) (q : Nat) (cseq : Nat) (s : State) : exec (.billLoad d q cseq) s = execBillLoad d q cseq s := rfl
theorem exec_billUnload (d : DieId) (q : Nat) (cseq : Nat) (s : State) : exec (.billUnload d q cseq) s = execBillUnload d q cseq s := rfl
theorem exec_billSelect (d : DieId) (q : Nat) (cseq : Nat) (s : State) : exec (.billSelect d q cseq) s = execBillSelect d q cseq s := rfl
theorem exec_descCreate (d : DieId) (q : Nat) (cseq : Nat) (s : State) : exec (.descCreate d q cseq) s = execDescCreate d q cseq s := rfl
theorem exec_descUpdate (d : DieId) (q : Nat) (cseq : Nat) (s : State) : exec (.descUpdate d q cseq) s = execDescUpdate d q cseq s := rfl
theorem exec_descFree (d : DieId) (q : Nat) (cseq : Nat) (s : State) : exec (.descFree d q cseq) s = execDescFree d q cseq s := rfl
theorem exec_copy (d : DieId) (q : Nat) (cseq : Nat) (s : State) : exec (.copy d q cseq) s = execCopy d q cseq s := rfl
theorem exec_stepCommit (d : DieId) (q : Nat) (cseq : Nat) (s : State) : exec (.stepCommit d q cseq) s = execStepCommit d q cseq s := rfl
theorem exec_stepAbandon (d : DieId) (q : Nat) (cseq : Nat) (s : State) : exec (.stepAbandon d q cseq) s = execStepAbandon d q cseq s := rfl
theorem exec_stepSettleEnd (d : DieId) (eg : Nat) (s : State) : exec (.stepSettleEnd d eg) s = execStepSettleEnd d eg s := rfl
theorem exec_barrierVerdict (d : DieId) (eg : Nat) (s : State) : exec (.barrierVerdict d eg) s = execBarrierVerdict d eg s := rfl
theorem exec_barrierTimeout (d : DieId) (eg : Nat) (s : State) : exec (.barrierTimeout d eg) s = execBarrierTimeout d eg s := rfl
theorem exec_versionWait (d : DieId) (q : Nat) (cseq : Nat) (s : State) : exec (.versionWait d q cseq) s = execVersionWait d q cseq s := rfl
theorem exec_streamCtl (d : DieId) (q : Nat) (cseq : Nat) (s : State) : exec (.streamCtl d q cseq) s = execStreamCtl d q cseq s := rfl
theorem exec_queueResume (agent : Nat) (d : DieId) (q : Nat) (s : State) : exec (.queueResume agent d q) s = execQueueResume agent d q s := rfl
theorem exec_queueFlush (agent : Nat) (d : DieId) (q : Nat) (s : State) : exec (.queueFlush agent d q) s = execQueueFlush agent d q s := rfl
theorem exec_queueEnable (agent : Nat) (d : DieId) (q : Nat) (en : Bool) (irqEn : Bool) (s : State) : exec (.queueEnable agent d q en irqEn) s = execQueueEnable agent d q en irqEn s := rfl
theorem exec_cellEnable (agent : Nat) (c : CellLoc) (en : Bool) (s : State) : exec (.cellEnable agent c en) s = execCellEnable agent c en s := rfl
theorem exec_cellInit (agent : Nat) (c : CellLoc) (s : State) : exec (.cellInit agent c) s = execCellInit agent c s := rfl
theorem exec_cpFnEnable (agent : Nat) (d : DieId) (port : Nat) (en : Bool) (s : State) : exec (.cpFnEnable agent d port en) s = execCpFnEnable agent d port en s := rfl
theorem exec_flEnable (agent : Nat) (v : W32) (s : State) : exec (.flEnable agent v) s = execFlEnable agent v s := rfl
theorem exec_functionStartEnd (f : FnId) (s : State) : exec (.functionStartEnd f) s = execFunctionStartEnd f s := rfl
theorem exec_functionDrainEnd (f : FnId) (s : State) : exec (.functionDrainEnd f) s = execFunctionDrainEnd f s := rfl
theorem exec_redItemJudge (d : DieId) (slot : Nat) (route : Nat) (s : State) : exec (.redItemJudge d slot route) s = execRedItemJudge d slot route s := rfl
theorem exec_redFold (d : DieId) (slot : Nat) (station : Nat) (s : State) : exec (.redFold d slot station) s = execRedFold d slot station s := rfl
theorem exec_redEmit (d : DieId) (slot : Nat) (station : Nat) (tag : Nat) (s : State) : exec (.redEmit d slot station tag) s = execRedEmit d slot station tag s := rfl
theorem exec_bucketTimeout (d : DieId) (place : Nat) (tag : Nat) (s : State) : exec (.bucketTimeout d place tag) s = execBucketTimeout d place tag s := rfl
theorem exec_rlCtlWrite (agent : Nat) (d : DieId) (place : Nat) (v : W32) (s : State) : exec (.rlCtlWrite agent d place v) s = execRlCtlWrite agent d place v s := rfl
theorem exec_relayItem (d : DieId) (slot : Nat) (station : Nat) (s : State) : exec (.relayItem d slot station) s = execRelayItem d slot station s := rfl
theorem exec_gateTransfer (d : DieId) (group : Nat) (client : GateReq) (s : State) : exec (.gateTransfer d group client) s = execGateTransfer d group client s := rfl
theorem exec_gateTransferComplete (d : DieId) (group : Nat) (x : XferEnd) (s : State) : exec (.gateTransferComplete d group x) s = execGateTransferComplete d group x s := rfl
theorem exec_pageWalk (d : DieId) (group : Nat) (site : Option Nat) (part : Nat) (va : Nat) (write : Bool) (s : State) : exec (.pageWalk d group site part va write) s = execPageWalk d group site part va write s := rfl
theorem exec_tlbInvalidate (agent : Nat) (d : DieId) (part : Nat) (s : State) : exec (.tlbInvalidate agent d part) s = execTlbInvalidate agent d part s := rfl
theorem exec_tlbInvalidateDone (d : DieId) (part : Nat) (s : State) : exec (.tlbInvalidateDone d part) s = execTlbInvalidateDone d part s := rfl
theorem exec_scheduleDelivery (d : DieId) (slot : Nat) (station : Nat) (s : State) : exec (.scheduleDelivery d slot station) s = execScheduleDelivery d slot station s := rfl
theorem exec_cacheEvict (d : DieId) (line : Nat) (bad : Bool) (s : State) : exec (.cacheEvict d line bad) s = execCacheEvict d line bad s := rfl
theorem exec_patrolRead (d : DieId) (mc : Nat) (off : Nat) (r : EccResult) (s : State) : exec (.patrolRead d mc off r) s = execPatrolRead d mc off r s := rfl
theorem exec_odeccPoll (d : DieId) (mc : Nat) (corrected : Nat) (severe : Bool) (s : State) : exec (.odeccPoll d mc corrected severe) s = execOdeccPoll d mc corrected severe s := rfl
theorem exec_hbmRateChange (d : DieId) (quiet : Bool) (s : State) : exec (.hbmRateChange d quiet) s = execHbmRateChange d quiet s := rfl
theorem exec_hbmRateChangeEnd (d : DieId) (failed : Nat) (s : State) : exec (.hbmRateChangeEnd d failed) s = execHbmRateChangeEnd d failed s := rfl
theorem exec_mcBroadcastWrite (agent : Nat) (t : McTarget) (off : Nat) (size : Nat) (v : W64) (s : State) : exec (.mcBroadcastWrite agent t off size v) s = execMcBroadcastWrite agent t off size v s := rfl
theorem exec_hbmRgnWrite (agent : Nat) (d : DieId) (k : Nat) (v : W32) (s : State) : exec (.hbmRgnWrite agent d k v) s = execHbmRgnWrite agent d k v s := rfl
theorem exec_moverBlock (d : DieId) (slot : Nat) (station : Nat) (s : State) : exec (.moverBlock d slot station) s = execMoverBlock d slot station s := rfl
theorem exec_flashUnitRead (unit : Nat) (decodes : Bool) (s : State) : exec (.flashUnitRead unit decodes) s = execFlashUnitRead unit decodes s := rfl
theorem exec_readRetry (unit : Nat) (decodes : Bool) (s : State) : exec (.readRetry unit decodes) s = execReadRetry unit decodes s := rfl
theorem exec_flashProgram (cseq : Nat) (place : Nat) (ok : Bool) (s : State) : exec (.flashProgram cseq place ok) s = execFlashProgram cseq place ok s := rfl
theorem exec_flashMove (unit : Nat) (p : Programmed) (s : State) : exec (.flashMove unit p) s = execFlashMove unit p s := rfl
theorem exec_flashScan (weak : List (Nat × Nat)) (s : State) : exec (.flashScan weak) s = execFlashScan weak s := rfl
theorem exec_mapReady (s : State) : exec .mapReady s = execMapReady s := rfl
theorem exec_flashHealthChange (stops : Bool) (first last : Nat) (s : State) :
    exec (.flashHealthChange stops first last) s = execFlashHealthChange stops first last s := rfl
theorem exec_flCommandWrite (agent : Nat) (off : Nat) (data : List Byte) (s : State) : exec (.flCommandWrite agent off data) s = execFlCommandWrite agent off data s := rfl
theorem exec_flRead (cseq : Nat) (s : State) : exec (.flRead cseq) s = execFlRead cseq s := rfl
theorem exec_flWrite (cseq : Nat) (s : State) : exec (.flWrite cseq) s = execFlWrite cseq s := rfl
theorem exec_flTrim (cseq : Nat) (s : State) : exec (.flTrim cseq) s = execFlTrim cseq s := rfl
theorem exec_flFlush (cseq : Nat) (s : State) : exec (.flFlush cseq) s = execFlFlush cseq s := rfl
theorem exec_flQueueResume (agent : Nat) (s : State) : exec (.flQueueResume agent) s = execFlQueueResume agent s := rfl
theorem exec_flQueueFlush (agent : Nat) (s : State) : exec (.flQueueFlush agent) s = execFlQueueFlush agent s := rfl
theorem exec_flExtWrite (agent : Nat) (k : Nat) (v : W64) (s : State) : exec (.flExtWrite agent k v) s = execFlExtWrite agent k v s := rfl
theorem exec_programSuspend (pkg : Nat) (nand : Nat) (s : State) : exec (.programSuspend pkg nand) s = execProgramSuspend pkg nand s := rfl
theorem exec_commandMemoryStore (core : Nat) (st : CoreStore) (s : State) : exec (.commandMemoryStore core st) s = execCommandMemoryStore core st s := rfl
theorem exec_memRd (d : DieId) (agent : Nat) (tag : Nat) (addr : Nat) (rd : MemRead) (s : State) : exec (.memRd d agent tag addr rd) s = execMemRd d agent tag addr rd s := rfl
theorem exec_memWr (d : DieId) (agent : Nat) (addr : Nat) (data : List Byte) (s : State) : exec (.memWr d agent addr data) s = execMemWr d agent addr data s := rfl
theorem exec_cmdWr (d : DieId) (agent : Nat) (addr : Nat) (data : List Byte) (s : State) : exec (.cmdWr d agent addr data) s = execCmdWr d agent addr data s := rfl
theorem exec_regRd (d : DieId) (agent : Nat) (tag : Nat) (addr : Nat) (size : Nat) (s : State) : exec (.regRd d agent tag addr size) s = execRegRd d agent tag addr size s := rfl
theorem exec_regWr (d : DieId) (agent : Nat) (tag : Nat) (addr : Nat) (size : Nat) (v : W64) (s : State) : exec (.regWr d agent tag addr size v) s = execRegWr d agent tag addr size v s := rfl
theorem exec_cpl (d : DieId) (tag : Nat) (status : Nat) (data : List Byte) (s : State) : exec (.cpl d tag status data) s = execCpl d tag status data s := rfl
theorem exec_msgIrq (d : DieId) (addr : Nat) (eiid : Nat) (s : State) : exec (.msgIrq d addr eiid) s = execMsgIrq d addr eiid s := rfl
theorem exec_flashReq (d : DieId) (slot : Nat) (station : Nat) (unit : Nat) (s : State) : exec (.flashReq d slot station unit) s = execFlashReq d slot station unit s := rfl
theorem exec_flashDlv (d : DieId) (slot : Nat) (station : Nat) (s : State) : exec (.flashDlv d slot station) s = execFlashDlv d slot station s := rfl
theorem exec_ucieReservedType (d : DieId) (module : Nat) (type : UcieFlit) (s : State) : exec (.ucieReservedType d module type) s = execUcieReservedType d module type s := rfl
theorem exec_ucieTraining (d : DieId) (module : Nat) (state : Nat) (tx : Nat) (rx : Nat) (s : State) : exec (.ucieTraining d module state tx rx) s = execUcieTraining d module state tx rx s := rfl
theorem exec_bridgeLine (d : DieId) (seg : Nat) (vc : Nat) (src : Option (Nat × Nat × Nat)) (data : List Byte) (s : State) : exec (.bridgeLine d seg vc src data) s = execBridgeLine d seg vc src data s := rfl
theorem exec_ackOk (d : DieId) (seg : Nat) (s : State) : exec (.ackOk d seg) s = execAckOk d seg s := rfl
theorem exec_ackRetry (d : DieId) (seg : Nat) (s : State) : exec (.ackRetry d seg) s = execAckRetry d seg s := rfl
theorem exec_bridgeAckTimeout (d : DieId) (seg : Nat) (s : State) : exec (.bridgeAckTimeout d seg) s = execBridgeAckTimeout d seg s := rfl
theorem exec_bridgeRetrain (up : Nat) (s : State) : exec (.bridgeRetrain up) s = execBridgeRetrain up s := rfl
theorem exec_item (d : DieId) (port : Nat) (f : Frame) (s : State) : exec (.item d port f) s = execItem d port f s := rfl
theorem exec_token (d : DieId) (port : Nat) (f : Frame) (s : State) : exec (.token d port f) s = execToken d port f s := rfl
theorem exec_credit (d : DieId) (port : Nat) (f : Frame) (s : State) : exec (.credit d port f) s = execCredit d port f s := rfl
theorem exec_ack (d : DieId) (port : Nat) (f : Frame) (s : State) : exec (.ack d port f) s = execAck d port f s := rfl
theorem exec_nack (d : DieId) (port : Nat) (f : Frame) (s : State) : exec (.nack d port f) s = execNack d port f s := rfl
theorem exec_mark (d : DieId) (port : Nat) (f : Frame) (s : State) : exec (.mark d port f) s = execMark d port f s := rfl
theorem exec_memReq (d : DieId) (port : Nat) (f : Frame) (s : State) : exec (.memReq d port f) s = execMemReq d port f s := rfl
theorem exec_memRsp (d : DieId) (port : Nat) (f : Frame) (s : State) : exec (.memRsp d port f) s = execMemRsp d port f s := rfl
theorem exec_rtoTimeout (d : DieId) (peer : Nat) (s : State) : exec (.rtoTimeout d peer) s = execRtoTimeout d peer s := rfl
theorem exec_standaloneAck (d : DieId) (peer : Nat) (s : State) : exec (.standaloneAck d peer) s = execStandaloneAck d peer s := rfl
theorem exec_creditPeriodic (d : DieId) (peer : Nat) (s : State) : exec (.creditPeriodic d peer) s = execCreditPeriodic d peer s := rfl
theorem exec_markSend (d : DieId) (port : Nat) (s : State) : exec (.markSend d port) s = execMarkSend d port s := rfl
theorem exec_peerCfgWrite (agent : Nat) (d : DieId) (n : Nat) (v : W64) (s : State) : exec (.peerCfgWrite agent d n v) s = execPeerCfgWrite agent d n v s := rfl
theorem exec_bar2Access (vf : Nat) (va : Nat) (acc : Bar2) (s : State) : exec (.bar2Access vf va acc) s = execBar2Access vf va acc s := rfl
theorem exec_perstN (p : PcieReset) (s : State) : exec (.perstN p) s = execPerstN p s := rfl
theorem exec_getStatus (m : MgmtMsg) (s : State) : exec (.getStatus m) s = execGetStatus m s := rfl
theorem exec_regRead (m : MgmtMsg) (addr : Nat) (s : State) : exec (.regRead m addr) s = execRegRead m addr s := rfl
theorem exec_regWrite (m : MgmtMsg) (addr : Nat) (v : W64) (s : State) : exec (.regWrite m addr v) s = execRegWrite m addr v s := rfl
theorem exec_telemetry (m : MgmtMsg) (s : State) : exec (.telemetry m) s = execTelemetry m s := rfl
theorem exec_fwUpdate (m : MgmtMsg) (arg : Nat) (op : FwReq) (s : State) : exec (.fwUpdate m arg op) s = execFwUpdate m arg op s := rfl
theorem exec_calExport (m : MgmtMsg) (off : Nat) (len : CalRead) (s : State) : exec (.calExport m off len) s = execCalExport m off len s := rfl
theorem exec_idcode (tap : Nat) (s : State) : exec (.idcode tap) s = execIdcode tap s := rfl
theorem exec_samplePreload (tap : Nat) (pins : Nat) (preload : Nat) (s : State) : exec (.samplePreload tap pins preload) s = execSamplePreload tap pins preload s := rfl
theorem exec_extest (tap : Nat) (s : State) : exec (.extest tap) s = execExtest tap s := rfl
theorem exec_clamp (tap : Nat) (s : State) : exec (.clamp tap) s = execClamp tap s := rfl
theorem exec_highz (tap : Nat) (s : State) : exec (.highz tap) s = execHighz tap s := rfl
theorem exec_holtuthDebug (tap : Nat) (code : Nat) (s : State) : exec (.holtuthDebug tap code) s = execHoltuthDebug tap code s := rfl
theorem exec_bypass (tap : Nat) (code : Nat) (s : State) : exec (.bypass tap code) s = execBypass tap code s := rfl
theorem exec_layoutSet (ch : Nat) (s : State) : exec (.layoutSet ch) s = execLayoutSet ch s := rfl
theorem exec_scrub (ch : Nat) (s : State) : exec (.scrub ch) s = execScrub ch s := rfl
theorem exec_spargeZeroWrite (d : DieId) (granule : Nat) (s : State) : exec (.spargeZeroWrite d granule) s = execSpargeZeroWrite d granule s := rfl
theorem exec_confSet (ch : Nat) (s : State) : exec (.confSet ch) s = execConfSet ch s := rfl
theorem exec_attest (ch : Nat) (s : State) : exec (.attest ch) s = execAttest ch s := rfl
theorem exec_fwStage (ch : SecReq) (s : State) : exec (.fwStage ch) s = execFwStage ch s := rfl
theorem exec_fwApply (ch : SecReq) (s : State) : exec (.fwApply ch) s = execFwApply ch s := rfl
theorem exec_fwDiscard (ch : SecReq) (s : State) : exec (.fwDiscard ch) s = execFwDiscard ch s := rfl
theorem exec_keyRevoke (ch : Nat) (s : State) : exec (.keyRevoke ch) s = execKeyRevoke ch s := rfl
theorem exec_debugAuth (ch : Nat) (s : State) : exec (.debugAuth ch) s = execDebugAuth ch s := rfl
theorem exec_calCommit (agent : Nat) (s : State) : exec (.calCommit agent) s = execCalCommit agent s := rfl
theorem exec_xtalGood  (s : State) : exec (.xtalGood) s = execXtalGood s := rfl
theorem exec_noXtal  (s : State) : exec (.noXtal) s = execNoXtal s := rfl
theorem exec_xtalLost  (s : State) : exec (.xtalLost) s = execXtalLost s := rfl
theorem exec_xtalRetry (agent : Nat) (passes : Bool) (s : State) : exec (.xtalRetry agent passes) s = execXtalRetry agent passes s := rfl
theorem exec_clockRampStep (island : Nat) (s : State) : exec (.clockRampStep island) s = execClockRampStep island s := rfl
theorem exec_trimWindow (count : Nat) (s : State) : exec (.trimWindow count) s = execTrimWindow count s := rfl
theorem exec_governorTick (d : DieId) (rate : GovIn) (s : State) : exec (.governorTick d rate) s = execGovernorTick d rate s := rfl
theorem exec_dutyTick (d : DieId) (power : Nat) (s : State) : exec (.dutyTick d power) s = execDutyTick d power s := rfl
theorem exec_pwrCtlWrite (agent : Nat) (v : W32) (s : State) : exec (.pwrCtlWrite agent v) s = execPwrCtlWrite agent v s := rfl
theorem exec_powerModeChangeEnd  (s : State) : exec (.powerModeChangeEnd) s = execPowerModeChangeEnd s := rfl
theorem exec_thermalSample (where_ : Option DieId) (sensors : List Int) (stackTs : List Int) (s : State) : exec (.thermalSample where_ sensors stackTs) s = execThermalSample where_ sensors stackTs s := rfl
theorem exec_thermalTrip  (s : State) : exec (.thermalTrip) s = execThermalTrip s := rfl
theorem exec_telemetryRefresh (block : List Byte) (s : State) : exec (.telemetryRefresh block) s = execTelemetryRefresh block s := rfl
theorem exec_timebaseFollow (d : DieId) (diverged : Int) (s : State) : exec (.timebaseFollow d diverged) s = execTimebaseFollow d diverged s := rfl
theorem exec_ppsEdge (error : Int) (s : State) : exec (.ppsEdge error) s = execPpsEdge error s := rfl
theorem exec_tbHoldover  (s : State) : exec (.tbHoldover) s = execTbHoldover s := rfl
theorem exec_tbMeasStart (agent : Nat) (d : DieId) (port : Nat) (s : State) : exec (.tbMeasStart agent d port) s = execTbMeasStart agent d port s := rfl
theorem exec_modEnRise (role : Bool) (addr : Nat) (s : State) : exec (.modEnRise role addr) s = execModEnRise role addr s := rfl
theorem exec_pwr48Threshold  (s : State) : exec (.pwr48Threshold) s = execPwr48Threshold s := rfl
theorem exec_firmwareVerify (copy0 copy1 : BootRead) (s : State) : exec (.firmwareVerify copy0 copy1) s = execFirmwareVerify copy0 copy1 s := rfl
theorem exec_secFwStart (r : SecStart) (s : State) : exec (.secFwStart r) s = execSecFwStart r s := rfl
theorem exec_linkTraining (r : LinkTrain) (s : State) : exec (.linkTraining r) s = execLinkTraining r s := rfl
theorem exec_serviceFloorTest (r : FloorTest) (s : State) : exec (.serviceFloorTest r) s = execServiceFloorTest r s := rfl
theorem exec_hostStart  (s : State) : exec (.hostStart) s = execHostStart s := rfl
theorem exec_modEnFall  (s : State) : exec (.modEnFall) s = execModEnFall s := rfl
theorem exec_undervoltage  (s : State) : exec (.undervoltage) s = execUndervoltage s := rfl
theorem exec_overvoltage  (s : State) : exec (.overvoltage) s = execOvervoltage s := rfl
theorem exec_regulatorFault  (s : State) : exec (.regulatorFault) s = execRegulatorFault s := rfl
theorem exec_partRst (agent : Nat) (part : Nat) (s : State) : exec (.partRst agent part) s = execPartRst agent part s := rfl
theorem exec_dieReset (agent : Nat) (d : DieId) (s : State) : exec (.dieReset agent d) s = execDieReset agent d s := rfl
theorem exec_warmReset (agent : Nat) (s : State) : exec (.warmReset agent) s = execWarmReset agent s := rfl
theorem exec_counterWrap (d : DieId) (set : Nat) (n : Nat) (s : State) : exec (.counterWrap d set n) s = execCounterWrap d set n s := rfl
theorem exec_cntClear (agent : Nat) (d : DieId) (set : Nat) (s : State) : exec (.cntClear agent d set) s = execCntClear agent d set s := rfl
theorem exec_cntHold (agent : Nat) (d : DieId) (set : Nat) (hold : Bool) (s : State) : exec (.cntHold agent d set hold) s = execCntHold agent d set hold s := rfl
theorem exec_cntSnapArm (agent : Nat) (d : DieId) (s : State) : exec (.cntSnapArm agent d) s = execCntSnapArm agent d s := rfl
theorem exec_cntSnapTrigger (d : DieId) (s : State) : exec (.cntSnapTrigger d) s = execCntSnapTrigger d s := rfl
theorem exec_tapRecord (d : DieId) (r : TapRec) (s : State) : exec (.tapRecord d r) s = execTapRecord d r s := rfl
theorem exec_traceEnable (agent : Nat) (d : DieId) (v : W64) (s : State) : exec (.traceEnable agent d v) s = execTraceEnable agent d v s := rfl
theorem exec_traceTrigger (d : DieId) (cause : Nat) (s : State) : exec (.traceTrigger d cause) s = execTraceTrigger d cause s := rfl
theorem exec_trcMarkWrite (agent : Nat) (d : DieId) (v : W64) (s : State) : exec (.trcMarkWrite agent d v) s = execTrcMarkWrite agent d v s := rfl
theorem exec_rdSeqWrite (agent : Nat) (log : Option DieId) (v : W32) (s : State) : exec (.rdSeqWrite agent log v) s = execRdSeqWrite agent log v s := rfl
theorem exec_readClear (agent : Nat) (addr : Nat) (size : Nat) (s : State) : exec (.readClear agent addr size) s = execReadClear agent addr size s := rfl
theorem exec_registerWrite (agent : Nat) (addr : Nat) (size : Nat) (v : W64) (s : State) : exec (.registerWrite agent addr size v) s = execRegisterWrite agent addr size v s := rfl
theorem exec_reservedOpcodeIssue (l : StreamLoc) (s : State) : exec (.reservedOpcodeIssue l) s = execReservedOpcodeIssue l s := rfl
theorem exec_internalAccess (c : CellLoc) (op : Nat) (perr : Bool) (s : State) : exec (.internalAccess c op perr) s = execInternalAccess c op perr s := rfl
theorem exec_reservedFrameType (d : DieId) (port : Nat) (f : Frame) (s : State) : exec (.reservedFrameType d port f) s = execReservedFrameType d port f s := rfl
theorem exec_chainLinkStateChange (d : DieId) (port : Nat) (up : Bool) (s : State) : exec (.chainLinkStateChange d port up) s = execChainLinkStateChange d port up s := rfl
theorem exec_refreshManagementRequest (d : DieId) (mc : Nat) (s : State) : exec (.refreshManagementRequest d mc) s = execRefreshManagementRequest d mc s := rfl
theorem exec_setEndpointId (eid : Nat) (s : State) : exec (.setEndpointId eid) s = execSetEndpointId eid s := rfl
theorem exec_unsupportedCommand (m : MgmtMsg) (cmd : UnknownCmd) (s : State) :
    exec (.unsupportedCommand m cmd) s = execUnsupportedCommand m cmd s := rfl
theorem exec_tapReset (trst : Bool) (s : State) : exec (.tapReset trst) s = execTapReset trst s := rfl
theorem exec_turnOffRestart  (s : State) : exec (.turnOffRestart) s = execTurnOffRestart s := rfl

end Sys2Proof.Machine
end

