-- ==== Sys2Proof/Laws/Issue.lean ====
section
/-! SUPPORT. What the issue of an instruction comes to, by the outcome of its body. -/

namespace Sys2Proof.Machine

/-- Where no exception of a list is due, none is raised. -/
theorem lowestExc_none {xs : List (Bool × Nat)} (h : noExc xs = true) : lowestExc xs = none := by
  induction xs with
  | nil => rfl
  | cons p r ih =>
    obtain ⟨b, c⟩ := p
    simp only [noExc, List.all_cons, Bool.and_eq_true] at h
    have hb : b = false := by simpa using h.1
    simp [lowestExc, ih (by simpa [noExc] using h.2), hb]

theorem orElse_noExc {xs : List (Bool × Nat)} (h : noExc xs = true) (r : Issue) : orElse xs r = r := by
  simp [orElse, lowestExc_none h]

/-- A ready instruction issues as its body says. -/
theorem issue_ready {s : State} {l : StreamLoc} {o w : Nat} (h : ready s l o w = true) (mine : Nat → Bool) (hm : mine w = true)
    (body : Nat → Issue) : issue s l mine body = finishIssue s l (getStream s l).pc.toNat (body w) := by
  simp only [ready, Bool.and_eq_true, Bool.or_eq_true, beq_iff_eq, Option.isNone_iff_eq_none] at h
  obtain ⟨⟨⟨⟨⟨⟨h1, h2⟩, h3⟩, h4⟩, h5⟩, h6⟩, h7⟩ := h
  have hg : (!isExec l.stream && (getCell s (cellOf l)).c.grant.isSome) = false := by
    rcases h2 with h2 | h2 <;> simp [h2]
  simp [issue, h1, hg, h3, hm, h4, h5, h6, h7]

theorem ready_opcode {s : State} {l : StreamLoc} {o w : Nat} (h : ready s l o w = true) : opcode w = o := by
  simp only [ready, Bool.and_eq_true, beq_iff_eq] at h
  exact h.1.1.1.2

theorem issue_isOp {s : State} {l : StreamLoc} {o w : Nat} (h : ready s l o w = true) (body : Nat → Issue) :
    issue s l (isOp o) body = finishIssue s l (getStream s l).pc.toNat (body w) :=
  issue_ready h _ (by simp [isOp, ready_opcode h]) body

/-- What a function of the stream does to it depends on the stream alone. -/
theorem modStream_const (s : State) (l : StreamLoc) (f : Stream → Stream) :
    modStream s l f = modStream s l (fun _ => f (getStream s l)) := rfl

/-- An instruction that takes effect and moves on. -/
theorem finish_done (s t : State) (l : StreamLoc) :
    Host.Outcome.next (ρ := Refusal) (φ := Fault) (finishIssue s l (getStream s l).pc.toNat (.done t)) = issued s l t := rfl

/-- An instruction that writes a scalar register by a function of its stream. -/
theorem finish_reg (s : State) (l : StreamLoc) (r : Nat) (g : Stream → W64) :
    Host.Outcome.next (ρ := Refusal) (φ := Fault)
      (finishIssue s l (getStream s l).pc.toNat (.done (modStream s l (fun t => setReg t r (g t))))) = writesReg s l r (g (getStream s l)) := rfl

end Sys2Proof.Machine
end

