-- ==== Sys2Proof/Laws/State.lean ====
section
/-! SUPPORT. What each named update of the state leaves alone and what it sets: one lemma per field per update. -/

namespace Sys2Proof.Machine

@[simp] theorem setDie_pending (s : State) (d : DieId) (x : Die) : (setDie s d x).pending = s.pending := by cases d <;> rfl
@[simp] theorem setDie_hd (s : State) (d : DieId) (x : Die) : (setDie s d x).hd = s.hd := by cases d <;> rfl
@[simp] theorem setDie_hbm (s : State) (d : DieId) (x : Die) : (setDie s d x).hbm = s.hbm := by cases d <;> rfl
@[simp] theorem setDie_hbmBad (s : State) (d : DieId) (x : Die) : (setDie s d x).hbmBad = s.hbmBad := by cases d <;> rfl
@[simp] theorem setDie_out (s : State) (d : DieId) (x : Die) : (setDie s d x).out = s.out := by cases d <;> rfl
@[simp] theorem setDie_imsic (s : State) (d : DieId) (x : Die) : (setDie s d x).imsic = s.imsic := by cases d <;> rfl
@[simp] theorem setDie_fresh (s : State) (d : DieId) (x : Die) : (setDie s d x).fresh = s.fresh := by cases d <;> rfl
@[simp] theorem setDie_held (s : State) (d : DieId) (x : Die) : (setDie s d x).held = s.held := by cases d <;> rfl
@[simp] theorem getDie_setDie (s : State) (d : DieId) (x : Die) : getDie (setDie s d x) d = x := by cases d <;> rfl
@[simp] theorem getDie_setDie_other (s : State) (d : DieId) (x : Die) : getDie (setDie s d x) (otherDie d) = getDie s (otherDie d) := by
  cases d <;> rfl
theorem getDie_setDie_ne (s : State) (d e : DieId) (x : Die) (h : e ≠ d) : getDie (setDie s d x) e = getDie s e := by
  cases d <;> cases e <;> first | rfl | exact absurd rfl h
@[simp] theorem modDie_pending (s : State) (d : DieId) (g : Die → Die) : (modDie s d g).pending = s.pending := by simp [modDie]
@[simp] theorem modDie_hd (s : State) (d : DieId) (g : Die → Die) : (modDie s d g).hd = s.hd := by simp [modDie]
@[simp] theorem modDie_hbm (s : State) (d : DieId) (g : Die → Die) : (modDie s d g).hbm = s.hbm := by simp [modDie]
@[simp] theorem modDie_hbmBad (s : State) (d : DieId) (g : Die → Die) : (modDie s d g).hbmBad = s.hbmBad := by simp [modDie]
@[simp] theorem modDie_out (s : State) (d : DieId) (g : Die → Die) : (modDie s d g).out = s.out := by simp [modDie]
@[simp] theorem modDie_imsic (s : State) (d : DieId) (g : Die → Die) : (modDie s d g).imsic = s.imsic := by simp [modDie]
@[simp] theorem modDie_fresh (s : State) (d : DieId) (g : Die → Die) : (modDie s d g).fresh = s.fresh := by simp [modDie]
@[simp] theorem modDie_held (s : State) (d : DieId) (g : Die → Die) : (modDie s d g).held = s.held := by simp [modDie]
@[simp] theorem getDie_modDie (s : State) (d : DieId) (g : Die → Die) : getDie (modDie s d g) d = g (getDie s d) := by simp [modDie]
@[simp] theorem getDie_modDie_other (s : State) (d : DieId) (g : Die → Die) : getDie (modDie s d g) (otherDie d) = getDie s (otherDie d) := by
  simp [modDie]

@[simp] theorem setCell_pending (s : State) (c : CellLoc) (x : CellAll) : (setCell s c x).pending = s.pending := by simp [setCell]
@[simp] theorem setCell_hd (s : State) (c : CellLoc) (x : CellAll) : (setCell s c x).hd = s.hd := by simp [setCell]
@[simp] theorem setCell_hbm (s : State) (c : CellLoc) (x : CellAll) : (setCell s c x).hbm = s.hbm := by simp [setCell]
@[simp] theorem setCell_hbmBad (s : State) (c : CellLoc) (x : CellAll) : (setCell s c x).hbmBad = s.hbmBad := by simp [setCell]
@[simp] theorem setCell_out (s : State) (c : CellLoc) (x : CellAll) : (setCell s c x).out = s.out := by simp [setCell]
@[simp] theorem setCell_imsic (s : State) (c : CellLoc) (x : CellAll) : (setCell s c x).imsic = s.imsic := by simp [setCell]
@[simp] theorem setCell_fresh (s : State) (c : CellLoc) (x : CellAll) : (setCell s c x).fresh = s.fresh := by simp [setCell]
@[simp] theorem setCell_held (s : State) (c : CellLoc) (x : CellAll) : (setCell s c x).held = s.held := by simp [setCell]
@[simp] theorem setCell_otherDie (s : State) (c : CellLoc) (x : CellAll) : getDie (setCell s c x) (otherDie c.die) = getDie s (otherDie c.die) := by simp [setCell]
@[simp] theorem modCell_pending (s : State) (c : CellLoc) (g : CellAll → CellAll) : (modCell s c g).pending = s.pending := by simp [modCell]
@[simp] theorem modCell_hd (s : State) (c : CellLoc) (g : CellAll → CellAll) : (modCell s c g).hd = s.hd := by simp [modCell]
@[simp] theorem modCell_hbm (s : State) (c : CellLoc) (g : CellAll → CellAll) : (modCell s c g).hbm = s.hbm := by simp [modCell]
@[simp] theorem modCell_hbmBad (s : State) (c : CellLoc) (g : CellAll → CellAll) : (modCell s c g).hbmBad = s.hbmBad := by simp [modCell]
@[simp] theorem modCell_out (s : State) (c : CellLoc) (g : CellAll → CellAll) : (modCell s c g).out = s.out := by simp [modCell]
@[simp] theorem modCell_imsic (s : State) (c : CellLoc) (g : CellAll → CellAll) : (modCell s c g).imsic = s.imsic := by simp [modCell]
@[simp] theorem modCell_fresh (s : State) (c : CellLoc) (g : CellAll → CellAll) : (modCell s c g).fresh = s.fresh := by simp [modCell]
@[simp] theorem modCell_held (s : State) (c : CellLoc) (g : CellAll → CellAll) : (modCell s c g).held = s.held := by simp [modCell]
@[simp] theorem modCell_otherDie (s : State) (c : CellLoc) (g : CellAll → CellAll) : getDie (modCell s c g) (otherDie c.die) = getDie s (otherDie c.die) := by simp [modCell]
@[simp] theorem modC_pending (s : State) (c : CellLoc) (g : Cell → Cell) : (modC s c g).pending = s.pending := by simp [modC]
@[simp] theorem modC_hd (s : State) (c : CellLoc) (g : Cell → Cell) : (modC s c g).hd = s.hd := by simp [modC]
@[simp] theorem modC_hbm (s : State) (c : CellLoc) (g : Cell → Cell) : (modC s c g).hbm = s.hbm := by simp [modC]
@[simp] theorem modC_hbmBad (s : State) (c : CellLoc) (g : Cell → Cell) : (modC s c g).hbmBad = s.hbmBad := by simp [modC]
@[simp] theorem modC_out (s : State) (c : CellLoc) (g : Cell → Cell) : (modC s c g).out = s.out := by simp [modC]
@[simp] theorem modC_imsic (s : State) (c : CellLoc) (g : Cell → Cell) : (modC s c g).imsic = s.imsic := by simp [modC]
@[simp] theorem modC_fresh (s : State) (c : CellLoc) (g : Cell → Cell) : (modC s c g).fresh = s.fresh := by simp [modC]
@[simp] theorem modC_held (s : State) (c : CellLoc) (g : Cell → Cell) : (modC s c g).held = s.held := by simp [modC]
@[simp] theorem modC_otherDie (s : State) (c : CellLoc) (g : Cell → Cell) : getDie (modC s c g) (otherDie c.die) = getDie s (otherDie c.die) := by simp [modC]
@[simp] theorem modM_pending (s : State) (c : CellLoc) (g : CellMem → CellMem) : (modM s c g).pending = s.pending := by simp [modM]
@[simp] theorem modM_hd (s : State) (c : CellLoc) (g : CellMem → CellMem) : (modM s c g).hd = s.hd := by simp [modM]
@[simp] theorem modM_hbm (s : State) (c : CellLoc) (g : CellMem → CellMem) : (modM s c g).hbm = s.hbm := by simp [modM]
@[simp] theorem modM_hbmBad (s : State) (c : CellLoc) (g : CellMem → CellMem) : (modM s c g).hbmBad = s.hbmBad := by simp [modM]
@[simp] theorem modM_out (s : State) (c : CellLoc) (g : CellMem → CellMem) : (modM s c g).out = s.out := by simp [modM]
@[simp] theorem modM_imsic (s : State) (c : CellLoc) (g : CellMem → CellMem) : (modM s c g).imsic = s.imsic := by simp [modM]
@[simp] theorem modM_fresh (s : State) (c : CellLoc) (g : CellMem → CellMem) : (modM s c g).fresh = s.fresh := by simp [modM]
@[simp] theorem modM_held (s : State) (c : CellLoc) (g : CellMem → CellMem) : (modM s c g).held = s.held := by simp [modM]
@[simp] theorem modM_otherDie (s : State) (c : CellLoc) (g : CellMem → CellMem) : getDie (modM s c g) (otherDie c.die) = getDie s (otherDie c.die) := by simp [modM]
@[simp] theorem modStream_pending (s : State) (l : StreamLoc) (g : Stream → Stream) : (modStream s l g).pending = s.pending := by simp [modStream, cellOf]
@[simp] theorem modStream_hd (s : State) (l : StreamLoc) (g : Stream → Stream) : (modStream s l g).hd = s.hd := by simp [modStream, cellOf]
@[simp] theorem modStream_hbm (s : State) (l : StreamLoc) (g : Stream → Stream) : (modStream s l g).hbm = s.hbm := by simp [modStream, cellOf]
@[simp] theorem modStream_hbmBad (s : State) (l : StreamLoc) (g : Stream → Stream) : (modStream s l g).hbmBad = s.hbmBad := by simp [modStream, cellOf]
@[simp] theorem modStream_out (s : State) (l : StreamLoc) (g : Stream → Stream) : (modStream s l g).out = s.out := by simp [modStream, cellOf]
@[simp] theorem modStream_imsic (s : State) (l : StreamLoc) (g : Stream → Stream) : (modStream s l g).imsic = s.imsic := by simp [modStream, cellOf]
@[simp] theorem modStream_fresh (s : State) (l : StreamLoc) (g : Stream → Stream) : (modStream s l g).fresh = s.fresh := by simp [modStream, cellOf]
@[simp] theorem modStream_held (s : State) (l : StreamLoc) (g : Stream → Stream) : (modStream s l g).held = s.held := by simp [modStream, cellOf]
@[simp] theorem modStream_otherDie (s : State) (l : StreamLoc) (g : Stream → Stream) : getDie (modStream s l g) (otherDie l.die) = getDie s (otherDie l.die) := by simpa [modStream, cellOf] using modC_otherDie s (cellOf l) _
@[simp] theorem modQueue_pending (s : State) (d : DieId) (i : Nat) (g : Queue → Queue) : (modQueue s d i g).pending = s.pending := by simp [modQueue]
@[simp] theorem modQueue_hd (s : State) (d : DieId) (i : Nat) (g : Queue → Queue) : (modQueue s d i g).hd = s.hd := by simp [modQueue]
@[simp] theorem modQueue_hbm (s : State) (d : DieId) (i : Nat) (g : Queue → Queue) : (modQueue s d i g).hbm = s.hbm := by simp [modQueue]
@[simp] theorem modQueue_hbmBad (s : State) (d : DieId) (i : Nat) (g : Queue → Queue) : (modQueue s d i g).hbmBad = s.hbmBad := by simp [modQueue]
@[simp] theorem modQueue_out (s : State) (d : DieId) (i : Nat) (g : Queue → Queue) : (modQueue s d i g).out = s.out := by simp [modQueue]
@[simp] theorem modQueue_imsic (s : State) (d : DieId) (i : Nat) (g : Queue → Queue) : (modQueue s d i g).imsic = s.imsic := by simp [modQueue]
@[simp] theorem modQueue_fresh (s : State) (d : DieId) (i : Nat) (g : Queue → Queue) : (modQueue s d i g).fresh = s.fresh := by simp [modQueue]
@[simp] theorem modQueue_held (s : State) (d : DieId) (i : Nat) (g : Queue → Queue) : (modQueue s d i g).held = s.held := by simp [modQueue]
@[simp] theorem modQueue_otherDie (s : State) (d : DieId) (i : Nat) (g : Queue → Queue) : getDie (modQueue s d i g) (otherDie d) = getDie s (otherDie d) := by simp [modQueue]
@[simp] theorem modSlot_pending (s : State) (d : DieId) (i : Nat) (g : BillSlot → BillSlot) : (modSlot s d i g).pending = s.pending := by simp [modSlot]
@[simp] theorem modSlot_hd (s : State) (d : DieId) (i : Nat) (g : BillSlot → BillSlot) : (modSlot s d i g).hd = s.hd := by simp [modSlot]
@[simp] theorem modSlot_hbm (s : State) (d : DieId) (i : Nat) (g : BillSlot → BillSlot) : (modSlot s d i g).hbm = s.hbm := by simp [modSlot]
@[simp] theorem modSlot_hbmBad (s : State) (d : DieId) (i : Nat) (g : BillSlot → BillSlot) : (modSlot s d i g).hbmBad = s.hbmBad := by simp [modSlot]
@[simp] theorem modSlot_out (s : State) (d : DieId) (i : Nat) (g : BillSlot → BillSlot) : (modSlot s d i g).out = s.out := by simp [modSlot]
@[simp] theorem modSlot_imsic (s : State) (d : DieId) (i : Nat) (g : BillSlot → BillSlot) : (modSlot s d i g).imsic = s.imsic := by simp [modSlot]
@[simp] theorem modSlot_fresh (s : State) (d : DieId) (i : Nat) (g : BillSlot → BillSlot) : (modSlot s d i g).fresh = s.fresh := by simp [modSlot]
@[simp] theorem modSlot_held (s : State) (d : DieId) (i : Nat) (g : BillSlot → BillSlot) : (modSlot s d i g).held = s.held := by simp [modSlot]
@[simp] theorem modSlot_otherDie (s : State) (d : DieId) (i : Nat) (g : BillSlot → BillSlot) : getDie (modSlot s d i g) (otherDie d) = getDie s (otherDie d) := by simp [modSlot]
@[simp] theorem modPart_pending (s : State) (d : DieId) (i : Nat) (g : PartDie → PartDie) : (modPart s d i g).pending = s.pending := by simp [modPart]
@[simp] theorem modPart_hd (s : State) (d : DieId) (i : Nat) (g : PartDie → PartDie) : (modPart s d i g).hd = s.hd := by simp [modPart]
@[simp] theorem modPart_hbm (s : State) (d : DieId) (i : Nat) (g : PartDie → PartDie) : (modPart s d i g).hbm = s.hbm := by simp [modPart]
@[simp] theorem modPart_hbmBad (s : State) (d : DieId) (i : Nat) (g : PartDie → PartDie) : (modPart s d i g).hbmBad = s.hbmBad := by simp [modPart]
@[simp] theorem modPart_out (s : State) (d : DieId) (i : Nat) (g : PartDie → PartDie) : (modPart s d i g).out = s.out := by simp [modPart]
@[simp] theorem modPart_imsic (s : State) (d : DieId) (i : Nat) (g : PartDie → PartDie) : (modPart s d i g).imsic = s.imsic := by simp [modPart]
@[simp] theorem modPart_fresh (s : State) (d : DieId) (i : Nat) (g : PartDie → PartDie) : (modPart s d i g).fresh = s.fresh := by simp [modPart]
@[simp] theorem modPart_held (s : State) (d : DieId) (i : Nat) (g : PartDie → PartDie) : (modPart s d i g).held = s.held := by simp [modPart]
@[simp] theorem modPart_otherDie (s : State) (d : DieId) (i : Nat) (g : PartDie → PartDie) : getDie (modPart s d i g) (otherDie d) = getDie s (otherDie d) := by simp [modPart]
@[simp] theorem modEpoch_pending (s : State) (d : DieId) (i : Nat) (g : Epoch → Epoch) : (modEpoch s d i g).pending = s.pending := by simp [modEpoch]
@[simp] theorem modEpoch_hd (s : State) (d : DieId) (i : Nat) (g : Epoch → Epoch) : (modEpoch s d i g).hd = s.hd := by simp [modEpoch]
@[simp] theorem modEpoch_hbm (s : State) (d : DieId) (i : Nat) (g : Epoch → Epoch) : (modEpoch s d i g).hbm = s.hbm := by simp [modEpoch]
@[simp] theorem modEpoch_hbmBad (s : State) (d : DieId) (i : Nat) (g : Epoch → Epoch) : (modEpoch s d i g).hbmBad = s.hbmBad := by simp [modEpoch]
@[simp] theorem modEpoch_out (s : State) (d : DieId) (i : Nat) (g : Epoch → Epoch) : (modEpoch s d i g).out = s.out := by simp [modEpoch]
@[simp] theorem modEpoch_imsic (s : State) (d : DieId) (i : Nat) (g : Epoch → Epoch) : (modEpoch s d i g).imsic = s.imsic := by simp [modEpoch]
@[simp] theorem modEpoch_fresh (s : State) (d : DieId) (i : Nat) (g : Epoch → Epoch) : (modEpoch s d i g).fresh = s.fresh := by simp [modEpoch]
@[simp] theorem modEpoch_held (s : State) (d : DieId) (i : Nat) (g : Epoch → Epoch) : (modEpoch s d i g).held = s.held := by simp [modEpoch]
@[simp] theorem modEpoch_otherDie (s : State) (d : DieId) (i : Nat) (g : Epoch → Epoch) : getDie (modEpoch s d i g) (otherDie d) = getDie s (otherDie d) := by simp [modEpoch]
@[simp] theorem modGate_pending (s : State) (d : DieId) (i : Nat) (g : Gate → Gate) : (modGate s d i g).pending = s.pending := by simp [modGate]
@[simp] theorem modGate_hd (s : State) (d : DieId) (i : Nat) (g : Gate → Gate) : (modGate s d i g).hd = s.hd := by simp [modGate]
@[simp] theorem modGate_hbm (s : State) (d : DieId) (i : Nat) (g : Gate → Gate) : (modGate s d i g).hbm = s.hbm := by simp [modGate]
@[simp] theorem modGate_hbmBad (s : State) (d : DieId) (i : Nat) (g : Gate → Gate) : (modGate s d i g).hbmBad = s.hbmBad := by simp [modGate]
@[simp] theorem modGate_out (s : State) (d : DieId) (i : Nat) (g : Gate → Gate) : (modGate s d i g).out = s.out := by simp [modGate]
@[simp] theorem modGate_imsic (s : State) (d : DieId) (i : Nat) (g : Gate → Gate) : (modGate s d i g).imsic = s.imsic := by simp [modGate]
@[simp] theorem modGate_fresh (s : State) (d : DieId) (i : Nat) (g : Gate → Gate) : (modGate s d i g).fresh = s.fresh := by simp [modGate]
@[simp] theorem modGate_held (s : State) (d : DieId) (i : Nat) (g : Gate → Gate) : (modGate s d i g).held = s.held := by simp [modGate]
@[simp] theorem modGate_otherDie (s : State) (d : DieId) (i : Nat) (g : Gate → Gate) : getDie (modGate s d i g) (otherDie d) = getDie s (otherDie d) := by simp [modGate]
@[simp] theorem modMc_pending (s : State) (d : DieId) (i : Nat) (g : Mc → Mc) : (modMc s d i g).pending = s.pending := by simp [modMc]
@[simp] theorem modMc_hd (s : State) (d : DieId) (i : Nat) (g : Mc → Mc) : (modMc s d i g).hd = s.hd := by simp [modMc]
@[simp] theorem modMc_hbm (s : State) (d : DieId) (i : Nat) (g : Mc → Mc) : (modMc s d i g).hbm = s.hbm := by simp [modMc]
@[simp] theorem modMc_hbmBad (s : State) (d : DieId) (i : Nat) (g : Mc → Mc) : (modMc s d i g).hbmBad = s.hbmBad := by simp [modMc]
@[simp] theorem modMc_out (s : State) (d : DieId) (i : Nat) (g : Mc → Mc) : (modMc s d i g).out = s.out := by simp [modMc]
@[simp] theorem modMc_imsic (s : State) (d : DieId) (i : Nat) (g : Mc → Mc) : (modMc s d i g).imsic = s.imsic := by simp [modMc]
@[simp] theorem modMc_fresh (s : State) (d : DieId) (i : Nat) (g : Mc → Mc) : (modMc s d i g).fresh = s.fresh := by simp [modMc]
@[simp] theorem modMc_held (s : State) (d : DieId) (i : Nat) (g : Mc → Mc) : (modMc s d i g).held = s.held := by simp [modMc]
@[simp] theorem modMc_otherDie (s : State) (d : DieId) (i : Nat) (g : Mc → Mc) : getDie (modMc s d i g) (otherDie d) = getDie s (otherDie d) := by simp [modMc]
@[simp] theorem modLink_pending (s : State) (d : DieId) (i : Nat) (g : Link → Link) : (modLink s d i g).pending = s.pending := by simp [modLink]
@[simp] theorem modLink_hd (s : State) (d : DieId) (i : Nat) (g : Link → Link) : (modLink s d i g).hd = s.hd := by simp [modLink]
@[simp] theorem modLink_hbm (s : State) (d : DieId) (i : Nat) (g : Link → Link) : (modLink s d i g).hbm = s.hbm := by simp [modLink]
@[simp] theorem modLink_hbmBad (s : State) (d : DieId) (i : Nat) (g : Link → Link) : (modLink s d i g).hbmBad = s.hbmBad := by simp [modLink]
@[simp] theorem modLink_out (s : State) (d : DieId) (i : Nat) (g : Link → Link) : (modLink s d i g).out = s.out := by simp [modLink]
@[simp] theorem modLink_imsic (s : State) (d : DieId) (i : Nat) (g : Link → Link) : (modLink s d i g).imsic = s.imsic := by simp [modLink]
@[simp] theorem modLink_fresh (s : State) (d : DieId) (i : Nat) (g : Link → Link) : (modLink s d i g).fresh = s.fresh := by simp [modLink]
@[simp] theorem modLink_held (s : State) (d : DieId) (i : Nat) (g : Link → Link) : (modLink s d i g).held = s.held := by simp [modLink]
@[simp] theorem modLink_otherDie (s : State) (d : DieId) (i : Nat) (g : Link → Link) : getDie (modLink s d i g) (otherDie d) = getDie s (otherDie d) := by simp [modLink]
@[simp] theorem modPeer_pending (s : State) (d : DieId) (i : Nat) (g : Peer → Peer) : (modPeer s d i g).pending = s.pending := by simp [modPeer]
@[simp] theorem modPeer_hd (s : State) (d : DieId) (i : Nat) (g : Peer → Peer) : (modPeer s d i g).hd = s.hd := by simp [modPeer]
@[simp] theorem modPeer_hbm (s : State) (d : DieId) (i : Nat) (g : Peer → Peer) : (modPeer s d i g).hbm = s.hbm := by simp [modPeer]
@[simp] theorem modPeer_hbmBad (s : State) (d : DieId) (i : Nat) (g : Peer → Peer) : (modPeer s d i g).hbmBad = s.hbmBad := by simp [modPeer]
@[simp] theorem modPeer_out (s : State) (d : DieId) (i : Nat) (g : Peer → Peer) : (modPeer s d i g).out = s.out := by simp [modPeer]
@[simp] theorem modPeer_imsic (s : State) (d : DieId) (i : Nat) (g : Peer → Peer) : (modPeer s d i g).imsic = s.imsic := by simp [modPeer]
@[simp] theorem modPeer_fresh (s : State) (d : DieId) (i : Nat) (g : Peer → Peer) : (modPeer s d i g).fresh = s.fresh := by simp [modPeer]
@[simp] theorem modPeer_held (s : State) (d : DieId) (i : Nat) (g : Peer → Peer) : (modPeer s d i g).held = s.held := by simp [modPeer]
@[simp] theorem modPeer_otherDie (s : State) (d : DieId) (i : Nat) (g : Peer → Peer) : getDie (modPeer s d i g) (otherDie d) = getDie s (otherDie d) := by simp [modPeer]
@[simp] theorem modSeg_pending (s : State) (d : DieId) (i : Nat) (g : Seg → Seg) : (modSeg s d i g).pending = s.pending := by simp [modSeg]
@[simp] theorem modSeg_hd (s : State) (d : DieId) (i : Nat) (g : Seg → Seg) : (modSeg s d i g).hd = s.hd := by simp [modSeg]
@[simp] theorem modSeg_hbm (s : State) (d : DieId) (i : Nat) (g : Seg → Seg) : (modSeg s d i g).hbm = s.hbm := by simp [modSeg]
@[simp] theorem modSeg_hbmBad (s : State) (d : DieId) (i : Nat) (g : Seg → Seg) : (modSeg s d i g).hbmBad = s.hbmBad := by simp [modSeg]
@[simp] theorem modSeg_out (s : State) (d : DieId) (i : Nat) (g : Seg → Seg) : (modSeg s d i g).out = s.out := by simp [modSeg]
@[simp] theorem modSeg_imsic (s : State) (d : DieId) (i : Nat) (g : Seg → Seg) : (modSeg s d i g).imsic = s.imsic := by simp [modSeg]
@[simp] theorem modSeg_fresh (s : State) (d : DieId) (i : Nat) (g : Seg → Seg) : (modSeg s d i g).fresh = s.fresh := by simp [modSeg]
@[simp] theorem modSeg_held (s : State) (d : DieId) (i : Nat) (g : Seg → Seg) : (modSeg s d i g).held = s.held := by simp [modSeg]
@[simp] theorem modSeg_otherDie (s : State) (d : DieId) (i : Nat) (g : Seg → Seg) : getDie (modSeg s d i g) (otherDie d) = getDie s (otherDie d) := by simp [modSeg]
@[simp] theorem modStation_pending (s : State) (d : DieId) (i j k : Nat) (g : Station → Station) : (modStation s d i j k g).pending = s.pending := by simp [modStation]
@[simp] theorem modStation_hd (s : State) (d : DieId) (i j k : Nat) (g : Station → Station) : (modStation s d i j k g).hd = s.hd := by simp [modStation]
@[simp] theorem modStation_hbm (s : State) (d : DieId) (i j k : Nat) (g : Station → Station) : (modStation s d i j k g).hbm = s.hbm := by simp [modStation]
@[simp] theorem modStation_hbmBad (s : State) (d : DieId) (i j k : Nat) (g : Station → Station) : (modStation s d i j k g).hbmBad = s.hbmBad := by simp [modStation]
@[simp] theorem modStation_out (s : State) (d : DieId) (i j k : Nat) (g : Station → Station) : (modStation s d i j k g).out = s.out := by simp [modStation]
@[simp] theorem modStation_imsic (s : State) (d : DieId) (i j k : Nat) (g : Station → Station) : (modStation s d i j k g).imsic = s.imsic := by simp [modStation]
@[simp] theorem modStation_fresh (s : State) (d : DieId) (i j k : Nat) (g : Station → Station) : (modStation s d i j k g).fresh = s.fresh := by simp [modStation]
@[simp] theorem modStation_held (s : State) (d : DieId) (i j k : Nat) (g : Station → Station) : (modStation s d i j k g).held = s.held := by simp [modStation]
@[simp] theorem modStation_otherDie (s : State) (d : DieId) (i j k : Nat) (g : Station → Station) : getDie (modStation s d i j k g) (otherDie d) = getDie s (otherDie d) := by simp [modStation]
@[simp] theorem modRoute_pending (s : State) (d : DieId) (i j : Nat) (g : Route → Route) : (modRoute s d i j g).pending = s.pending := by simp [modRoute]
@[simp] theorem modRoute_hd (s : State) (d : DieId) (i j : Nat) (g : Route → Route) : (modRoute s d i j g).hd = s.hd := by simp [modRoute]
@[simp] theorem modRoute_hbm (s : State) (d : DieId) (i j : Nat) (g : Route → Route) : (modRoute s d i j g).hbm = s.hbm := by simp [modRoute]
@[simp] theorem modRoute_hbmBad (s : State) (d : DieId) (i j : Nat) (g : Route → Route) : (modRoute s d i j g).hbmBad = s.hbmBad := by simp [modRoute]
@[simp] theorem modRoute_out (s : State) (d : DieId) (i j : Nat) (g : Route → Route) : (modRoute s d i j g).out = s.out := by simp [modRoute]
@[simp] theorem modRoute_imsic (s : State) (d : DieId) (i j : Nat) (g : Route → Route) : (modRoute s d i j g).imsic = s.imsic := by simp [modRoute]
@[simp] theorem modRoute_fresh (s : State) (d : DieId) (i j : Nat) (g : Route → Route) : (modRoute s d i j g).fresh = s.fresh := by simp [modRoute]
@[simp] theorem modRoute_held (s : State) (d : DieId) (i j : Nat) (g : Route → Route) : (modRoute s d i j g).held = s.held := by simp [modRoute]
@[simp] theorem modRoute_otherDie (s : State) (d : DieId) (i j : Nat) (g : Route → Route) : getDie (modRoute s d i j g) (otherDie d) = getDie s (otherDie d) := by simp [modRoute]
@[simp] theorem modSec_pending (s : State) (p : Nat) (g : PartSec → PartSec) : (modSec s p g).pending = s.pending := rfl
@[simp] theorem modSec_hbm (s : State) (p : Nat) (g : PartSec → PartSec) : (modSec s p g).hbm = s.hbm := rfl
@[simp] theorem modSec_hbmBad (s : State) (p : Nat) (g : PartSec → PartSec) : (modSec s p g).hbmBad = s.hbmBad := rfl
@[simp] theorem modSec_out (s : State) (p : Nat) (g : PartSec → PartSec) : (modSec s p g).out = s.out := rfl
@[simp] theorem modSec_imsic (s : State) (p : Nat) (g : PartSec → PartSec) : (modSec s p g).imsic = s.imsic := rfl
@[simp] theorem modSec_fresh (s : State) (p : Nat) (g : PartSec → PartSec) : (modSec s p g).fresh = s.fresh := rfl
@[simp] theorem modSec_held (s : State) (p : Nat) (g : PartSec → PartSec) : (modSec s p g).held = s.held := rfl
@[simp] theorem modSec_cd0 (s : State) (p : Nat) (g : PartSec → PartSec) : (modSec s p g).cd0 = s.cd0 := rfl
@[simp] theorem modSec_cd1 (s : State) (p : Nat) (g : PartSec → PartSec) : (modSec s p g).cd1 = s.cd1 := rfl
@[simp] theorem emit_pending (s : State) (o : Out) : (emit s o).pending = s.pending := rfl
@[simp] theorem emit_hd (s : State) (o : Out) : (emit s o).hd = s.hd := rfl
@[simp] theorem emit_hbm (s : State) (o : Out) : (emit s o).hbm = s.hbm := rfl
@[simp] theorem emit_hbmBad (s : State) (o : Out) : (emit s o).hbmBad = s.hbmBad := rfl
@[simp] theorem emit_imsic (s : State) (o : Out) : (emit s o).imsic = s.imsic := rfl
@[simp] theorem emit_fresh (s : State) (o : Out) : (emit s o).fresh = s.fresh := rfl
@[simp] theorem emit_held (s : State) (o : Out) : (emit s o).held = s.held := rfl
@[simp] theorem emit_cd0 (s : State) (o : Out) : (emit s o).cd0 = s.cd0 := rfl
@[simp] theorem emit_cd1 (s : State) (o : Out) : (emit s o).cd1 = s.cd1 := rfl
@[simp] theorem emit_out (s : State) (o : Out) : (emit s o).out = o :: s.out := rfl
@[simp] theorem getDie_emit (s : State) (o : Out) (d : DieId) : getDie (emit s o) d = getDie s d := by cases d <;> rfl
@[simp] theorem sendIrq_pending (s : State) (a e : Nat) : (sendIrq s a e).pending = s.pending := by unfold sendIrq; dsimp only; split <;> rfl
@[simp] theorem sendIrq_hd (s : State) (a e : Nat) : (sendIrq s a e).hd = s.hd := by unfold sendIrq; dsimp only; split <;> rfl
@[simp] theorem sendIrq_hbm (s : State) (a e : Nat) : (sendIrq s a e).hbm = s.hbm := by unfold sendIrq; dsimp only; split <;> rfl
@[simp] theorem sendIrq_hbmBad (s : State) (a e : Nat) : (sendIrq s a e).hbmBad = s.hbmBad := by unfold sendIrq; dsimp only; split <;> rfl
@[simp] theorem sendIrq_fresh (s : State) (a e : Nat) : (sendIrq s a e).fresh = s.fresh := by unfold sendIrq; dsimp only; split <;> rfl
@[simp] theorem sendIrq_held (s : State) (a e : Nat) : (sendIrq s a e).held = s.held := by unfold sendIrq; dsimp only; split <;> rfl
@[simp] theorem sendIrq_cd0 (s : State) (a e : Nat) : (sendIrq s a e).cd0 = s.cd0 := by unfold sendIrq; dsimp only; split <;> rfl
@[simp] theorem sendIrq_cd1 (s : State) (a e : Nat) : (sendIrq s a e).cd1 = s.cd1 := by unfold sendIrq; dsimp only; split <;> rfl
@[simp] theorem getDie_sendIrq (s : State) (a e : Nat) (d : DieId) : getDie (sendIrq s a e) d = getDie s d := by cases d <;> simp [getDie]
@[simp] theorem drawFree_pending (s : State) (w : Nat) : (drawFree s w).2.pending = s.pending := rfl
@[simp] theorem drawFree_hd (s : State) (w : Nat) : (drawFree s w).2.hd = s.hd := rfl
@[simp] theorem drawFree_hbm (s : State) (w : Nat) : (drawFree s w).2.hbm = s.hbm := rfl
@[simp] theorem drawFree_hbmBad (s : State) (w : Nat) : (drawFree s w).2.hbmBad = s.hbmBad := rfl
@[simp] theorem drawFree_out (s : State) (w : Nat) : (drawFree s w).2.out = s.out := rfl
@[simp] theorem drawFree_imsic (s : State) (w : Nat) : (drawFree s w).2.imsic = s.imsic := rfl
@[simp] theorem drawFree_cd0 (s : State) (w : Nat) : (drawFree s w).2.cd0 = s.cd0 := rfl
@[simp] theorem drawFree_cd1 (s : State) (w : Nat) : (drawFree s w).2.cd1 = s.cd1 := rfl
@[simp] theorem drawFree_fresh (s : State) (w : Nat) : (drawFree s w).2.fresh = s.fresh + 1 := rfl
@[simp] theorem drawFree_held (s : State) (w : Nat) : (drawFree s w).2.held = s.held := rfl
@[simp] theorem getDie_drawFree (s : State) (w : Nat) (d : DieId) : getDie (drawFree s w).2 d = getDie s d := by cases d <;> rfl

@[simp] theorem setLog_pending (s : State) (w : Option DieId) (e : Elog) : (setLog s w e).pending = s.pending := by cases w <;> simp [setLog]
@[simp] theorem logErr_pending (s : State) (w : Option DieId) (r : ErrRec) : (logErr s w r).pending = s.pending := by unfold logErr; dsimp only; split <;> simp
@[simp] theorem countSram_pending (s : State) (w : Option DieId) (b : Bool) : (countSram s w b).pending = s.pending := by simp [countSram]
@[simp] theorem setLog_hbm (s : State) (w : Option DieId) (e : Elog) : (setLog s w e).hbm = s.hbm := by cases w <;> simp [setLog]
@[simp] theorem logErr_hbm (s : State) (w : Option DieId) (r : ErrRec) : (logErr s w r).hbm = s.hbm := by unfold logErr; dsimp only; split <;> simp
@[simp] theorem countSram_hbm (s : State) (w : Option DieId) (b : Bool) : (countSram s w b).hbm = s.hbm := by simp [countSram]
@[simp] theorem setLog_hbmBad (s : State) (w : Option DieId) (e : Elog) : (setLog s w e).hbmBad = s.hbmBad := by cases w <;> simp [setLog]
@[simp] theorem logErr_hbmBad (s : State) (w : Option DieId) (r : ErrRec) : (logErr s w r).hbmBad = s.hbmBad := by unfold logErr; dsimp only; split <;> simp
@[simp] theorem countSram_hbmBad (s : State) (w : Option DieId) (b : Bool) : (countSram s w b).hbmBad = s.hbmBad := by simp [countSram]
@[simp] theorem setLog_fresh (s : State) (w : Option DieId) (e : Elog) : (setLog s w e).fresh = s.fresh := by cases w <;> simp [setLog]
@[simp] theorem setLog_held (s : State) (w : Option DieId) (e : Elog) : (setLog s w e).held = s.held := by cases w <;> simp [setLog]
@[simp] theorem logErr_fresh (s : State) (w : Option DieId) (r : ErrRec) : (logErr s w r).fresh = s.fresh := by unfold logErr; dsimp only; split <;> simp
@[simp] theorem logErr_held (s : State) (w : Option DieId) (r : ErrRec) : (logErr s w r).held = s.held := by unfold logErr; dsimp only; split <;> simp
@[simp] theorem countSram_fresh (s : State) (w : Option DieId) (b : Bool) : (countSram s w b).fresh = s.fresh := by simp [countSram]
@[simp] theorem countSram_held (s : State) (w : Option DieId) (b : Bool) : (countSram s w b).held = s.held := by simp [countSram]
@[simp] theorem sendOverflow_pending (s : State) (d : DieId) (k i : Nat) : (sendOverflow s d k i).pending = s.pending := by unfold sendOverflow; split <;> rfl
@[simp] theorem bump_pending (s : State) (d : DieId) (k i n : Nat) : (bump s d k i n).pending = s.pending := by
  unfold bump
  split
  · rfl
  · simp; split <;> simp
@[simp] theorem sendOverflow_hd (s : State) (d : DieId) (k i : Nat) : (sendOverflow s d k i).hd = s.hd := by unfold sendOverflow; split <;> rfl
@[simp] theorem bump_hd (s : State) (d : DieId) (k i n : Nat) : (bump s d k i n).hd = s.hd := by
  unfold bump
  split
  · rfl
  · simp; split <;> simp
@[simp] theorem sendOverflow_hbm (s : State) (d : DieId) (k i : Nat) : (sendOverflow s d k i).hbm = s.hbm := by unfold sendOverflow; split <;> rfl
@[simp] theorem bump_hbm (s : State) (d : DieId) (k i n : Nat) : (bump s d k i n).hbm = s.hbm := by
  unfold bump
  split
  · rfl
  · simp; split <;> simp
@[simp] theorem sendOverflow_hbmBad (s : State) (d : DieId) (k i : Nat) : (sendOverflow s d k i).hbmBad = s.hbmBad := by unfold sendOverflow; split <;> rfl
@[simp] theorem bump_hbmBad (s : State) (d : DieId) (k i n : Nat) : (bump s d k i n).hbmBad = s.hbmBad := by
  unfold bump
  split
  · rfl
  · simp; split <;> simp
@[simp] theorem sendOverflow_imsic (s : State) (d : DieId) (k i : Nat) : (sendOverflow s d k i).imsic = s.imsic := by unfold sendOverflow; split <;> rfl
@[simp] theorem bump_imsic (s : State) (d : DieId) (k i n : Nat) : (bump s d k i n).imsic = s.imsic := by
  unfold bump
  split
  · rfl
  · simp; split <;> simp
@[simp] theorem sendOverflow_fresh (s : State) (d : DieId) (k i : Nat) : (sendOverflow s d k i).fresh = s.fresh := by unfold sendOverflow; split <;> rfl
@[simp] theorem sendOverflow_held (s : State) (d : DieId) (k i : Nat) : (sendOverflow s d k i).held = s.held := by unfold sendOverflow; split <;> rfl
@[simp] theorem bump_fresh (s : State) (d : DieId) (k i n : Nat) : (bump s d k i n).fresh = s.fresh := by
  unfold bump
  split
  · rfl
  · simp; split <;> simp
@[simp] theorem bump_held (s : State) (d : DieId) (k i n : Nat) : (bump s d k i n).held = s.held := by
  unfold bump
  split
  · rfl
  · simp; split <;> simp
@[simp] theorem getDie_sendOverflow (s : State) (d : DieId) (k i : Nat) (e : DieId) : getDie (sendOverflow s d k i) e = getDie s e := by
  unfold sendOverflow; split <;> simp
@[simp] theorem bump_otherDie (s : State) (d : DieId) (k i n : Nat) : getDie (bump s d k i n) (otherDie d) = getDie s (otherDie d) := by
  unfold bump
  split
  · rfl
  · simp; split <;> simp

/-- An update of a die that leaves its cells leaves every cell. -/
theorem getCell_modDie (s : State) (d : DieId) (g : Die → Die) (c : CellLoc) (h : (g (getDie s d)).cells = (getDie s d).cells) :
    getCell (modDie s d g) c = getCell s c := by
  cases d <;> cases hc : c.die <;> simp_all [getCell, modDie, setDie, getDie]
@[simp] theorem getCell_modQueue (s : State) (d : DieId) (i : Nat) (g : Queue → Queue) (c : CellLoc) : getCell (modQueue s d i g) c = getCell s c :=
  getCell_modDie s d _ c rfl
@[simp] theorem getCell_modSlot (s : State) (d : DieId) (i : Nat) (g : BillSlot → BillSlot) (c : CellLoc) : getCell (modSlot s d i g) c = getCell s c :=
  getCell_modDie s d _ c rfl
@[simp] theorem getCell_modPart (s : State) (d : DieId) (i : Nat) (g : PartDie → PartDie) (c : CellLoc) : getCell (modPart s d i g) c = getCell s c :=
  getCell_modDie s d _ c rfl
@[simp] theorem getCell_modEpoch (s : State) (d : DieId) (i : Nat) (g : Epoch → Epoch) (c : CellLoc) : getCell (modEpoch s d i g) c = getCell s c :=
  getCell_modDie s d _ c rfl
@[simp] theorem getCell_modGate (s : State) (d : DieId) (i : Nat) (g : Gate → Gate) (c : CellLoc) : getCell (modGate s d i g) c = getCell s c :=
  getCell_modDie s d _ c rfl
@[simp] theorem getCell_modMc (s : State) (d : DieId) (i : Nat) (g : Mc → Mc) (c : CellLoc) : getCell (modMc s d i g) c = getCell s c :=
  getCell_modDie s d _ c rfl
@[simp] theorem getCell_modLink (s : State) (d : DieId) (i : Nat) (g : Link → Link) (c : CellLoc) : getCell (modLink s d i g) c = getCell s c :=
  getCell_modDie s d _ c rfl
@[simp] theorem getCell_modPeer (s : State) (d : DieId) (i : Nat) (g : Peer → Peer) (c : CellLoc) : getCell (modPeer s d i g) c = getCell s c :=
  getCell_modDie s d _ c rfl
@[simp] theorem getCell_modSeg (s : State) (d : DieId) (i : Nat) (g : Seg → Seg) (c : CellLoc) : getCell (modSeg s d i g) c = getCell s c :=
  getCell_modDie s d _ c rfl
@[simp] theorem getCell_modStation (s : State) (d : DieId) (i j k : Nat) (g : Station → Station) (c : CellLoc) :
    getCell (modStation s d i j k g) c = getCell s c := getCell_modDie s d _ c rfl
@[simp] theorem getCell_modRoute (s : State) (d : DieId) (i j : Nat) (g : Route → Route) (c : CellLoc) :
    getCell (modRoute s d i j g) c = getCell s c := getCell_modDie s d _ c rfl
@[simp] theorem getCell_emit (s : State) (o : Out) (c : CellLoc) : getCell (emit s o) c = getCell s c := by simp [getCell]
@[simp] theorem getCell_sendIrq (s : State) (a e : Nat) (c : CellLoc) : getCell (sendIrq s a e) c = getCell s c := by simp [getCell]

end Sys2Proof.Machine
end

