-- ==== Sys2Proof/Laws/Tab.lean ====
section
/-! SUPPORT. Laws of sparse tables: what a write sets, what it leaves, and that it keeps the canonical form. -/

namespace Sys2Proof.Machine

variable {α : Type}

theorem tabAbove_mono {n m : Nat} (h : n ≤ m) : ∀ t : Tab α, tabAbove m t = true → tabAbove n t = true
  | [] => fun _ => rfl
  | (a, v) :: r => by
    intro hm
    simp only [tabAbove, Bool.and_eq_true, decide_eq_true_eq] at hm ⊢
    exact ⟨by omega, tabAbove_mono h r hm.2⟩

/-- A key below every listed key reads as the default. -/
theorem tabGet_of_above (d : α) {k : Nat} : ∀ t : Tab α, tabAbove (k + 1) t = true → tabGet d t k = d
  | [] => fun _ => rfl
  | (a, v) :: r => by
    intro h
    simp only [tabAbove, Bool.and_eq_true, decide_eq_true_eq] at h
    have : a ≠ k := by omega
    simp [tabGet, this, tabGet_of_above d r h.2]

variable [DecidableEq α]

/-- A write leaves every other key as it was. -/
theorem tabGet_tabSet_ne (d : α) {k j : Nat} (h : j ≠ k) (v : α) : ∀ t : Tab α, tabGet d (tabSet d t k v) j = tabGet d t j
  | [] => by
    unfold tabSet
    split <;> simp [tabGet, h.symm]
  | (a, x) :: r => by
    unfold tabSet
    split
    · split
      · rfl
      · simp [tabGet, h.symm]
    · split
      · rename_i hk
        subst hk
        split <;> simp [tabGet, h.symm]
      · simp [tabGet, tabGet_tabSet_ne d h v r]

/-- In a canonical table a write is what the key then reads as. -/
theorem tabGet_tabSet_self (d : α) (k : Nat) (v : α) : ∀ t : Tab α, tabWf d t = true → tabGet d (tabSet d t k v) k = v
  | [] => by
    intro _
    unfold tabSet
    split <;> simp_all [tabGet]
  | (a, x) :: r => by
    intro hw
    simp only [tabWf, Bool.and_eq_true, decide_eq_true_eq] at hw
    unfold tabSet
    split
    · rename_i hk
      split
      · rename_i hv
        have h1 : a ≠ k := by omega
        have h2 : tabAbove (k + 1) r = true := tabAbove_mono (by omega) r hw.1.2
        simp [tabGet, h1, hv, tabGet_of_above d r h2]
      · simp [tabGet]
    · split
      · rename_i hk
        subst hk
        split
        · rename_i hv
          rw [hv]
          exact tabGet_of_above d r hw.1.2
        · simp [tabGet]
      · rename_i hk
        have h1 : a ≠ k := fun h => hk h.symm
        simp [tabGet, h1, tabGet_tabSet_self d k v r hw.2]

theorem tabAbove_tabSet (d : α) {n k : Nat} (h : n ≤ k) (v : α) : ∀ t : Tab α, tabAbove n t = true → tabAbove n (tabSet d t k v) = true
  | [] => by
    intro _
    unfold tabSet
    split <;> simp [tabAbove, h]
  | (a, x) :: r => by
    intro hm
    have hm' := hm
    simp only [tabAbove, Bool.and_eq_true, decide_eq_true_eq] at hm'
    unfold tabSet
    split
    · split
      · exact hm
      · simp [tabAbove, h, hm']
    · split
      · split
        · exact hm'.2
        · simp [tabAbove, hm']
      · simp [tabAbove, hm'.1, tabAbove_tabSet d h v r hm'.2]

/-- A write keeps the canonical form. -/
theorem tabWf_tabSet (d : α) (k : Nat) (v : α) : ∀ t : Tab α, tabWf d t = true → tabWf d (tabSet d t k v) = true
  | [] => by
    intro _
    unfold tabSet
    split <;> simp_all [tabWf, tabAbove]
  | (a, x) :: r => by
    intro hw
    have hw' := hw
    simp only [tabWf, Bool.and_eq_true, decide_eq_true_eq] at hw'
    unfold tabSet
    split
    · rename_i hk
      split
      · exact hw
      · rename_i hv
        simp only [tabWf, tabAbove, Bool.and_eq_true, decide_eq_true_eq]
        exact ⟨⟨hv, by omega, tabAbove_mono (by omega) r hw'.1.2⟩, hw'⟩
    · rename_i hk
      split
      · split
        · exact hw'.2
        · rename_i hv
          simp only [tabWf, Bool.and_eq_true, decide_eq_true_eq]
          exact ⟨⟨hv, hw'.1.2⟩, hw'.2⟩
      · simp only [tabWf, Bool.and_eq_true, decide_eq_true_eq]
        exact ⟨⟨hw'.1.1, tabAbove_tabSet d (by omega) v r hw'.1.2⟩, tabWf_tabSet d k v r hw'.2⟩

/-- A run of writes keeps the canonical form. -/
theorem tabWf_tabWrite (d : α) : ∀ (vs : List α) (t : Tab α) (k : Nat), tabWf d t = true → tabWf d (tabWrite d t k vs) = true
  | [], _, _, h => h
  | v :: vs, t, k, h => tabWf_tabWrite d vs (tabSet d t k v) (k + 1) (tabWf_tabSet d k v t h)

/-- A run of writes leaves the keys outside it. -/
theorem tabGet_tabWrite_out (d : α) : ∀ (vs : List α) (t : Tab α) (k j : Nat), (j < k ∨ k + vs.length ≤ j) →
    tabGet d (tabWrite d t k vs) j = tabGet d t j
  | [], _, _, _, _ => rfl
  | v :: vs, t, k, j, h => by
    have h1 : j ≠ k := by
      simp only [List.length_cons] at h
      omega
    have h2 : j < k + 1 ∨ k + 1 + vs.length ≤ j := by
      simp only [List.length_cons] at h
      omega
    rw [tabWrite, tabGet_tabWrite_out d vs _ _ _ h2, tabGet_tabSet_ne d h1]

end Sys2Proof.Machine
end

