-- ==== Sys2Proof/Laws/Memory.lean ====
section
/-! SUPPORT. The canonical form of HBM: reset has it, and every operation that changes memory keeps it. -/

namespace Sys2Proof.Machine

/-! ### What is kept of a table -/

theorem tabAbove_tabKeep {α : Type} (p : Nat → Bool) {n : Nat} : ∀ t : Tab α, tabAbove n t = true → tabAbove n (tabKeep p t) = true
  | [], h => h
  | (a, v) :: r, h => by
    simp only [tabAbove, Bool.and_eq_true] at h
    simp only [tabKeep]
    split
    · simp [tabAbove, h.1, tabAbove_tabKeep p r h.2]
    · exact tabAbove_tabKeep p r h.2

/-- Dropping entries keeps the canonical form. -/
theorem tabWf_tabKeep {α : Type} [DecidableEq α] (d : α) (p : Nat → Bool) : ∀ t : Tab α, tabWf d t = true → tabWf d (tabKeep p t) = true
  | [], h => h
  | (a, v) :: r, h => by
    simp only [tabWf, Bool.and_eq_true] at h
    simp only [tabKeep]
    split
    · simp [tabWf, h.1.1, tabAbove_tabKeep p r h.1.2, tabWf_tabKeep d p r h.2]
    · exact tabWf_tabKeep d p r h.2

theorem tabAbove_tabMap {α : Type} [DecidableEq α] (d : α) (f : α → α) {n : Nat} :
    ∀ t : Tab α, tabAbove n t = true → tabAbove n (tabMap d f t) = true
  | [], _ => rfl
  | (a, v) :: r, h => by
    simp only [tabAbove, Bool.and_eq_true] at h
    simp only [tabMap]
    split
    · exact tabAbove_tabMap d f r h.2
    · simp [tabAbove, h.1, tabAbove_tabMap d f r h.2]

/-- Changing every entry keeps the form. -/
theorem tabWf_tabMap {α : Type} [DecidableEq α] (d : α) (f : α → α) : ∀ t : Tab α, tabWf d t = true → tabWf d (tabMap d f t) = true
  | [], _ => rfl
  | (a, v) :: r, h => by
    simp only [tabWf, Bool.and_eq_true] at h
    simp only [tabMap]
    split
    · exact tabWf_tabMap d f r h.2
    · rename_i hf
      simp [tabWf, hf, tabAbove_tabMap d f r h.1.2, tabWf_tabMap d f r h.2]

/-- A dropped key reads as the default. -/
theorem tabGet_tabKeep_out {α : Type} (d : α) (p : Nat → Bool) (k : Nat) (h : p k = false) : ∀ t : Tab α, tabGet d (tabKeep p t) k = d
  | [] => rfl
  | (a, v) :: r => by
    simp only [tabKeep]
    split
    · rename_i ha
      have : a ≠ k := fun e => by simp [e, h] at ha
      simp [tabGet, this, tabGet_tabKeep_out d p k h r]
    · exact tabGet_tabKeep_out d p k h r

/-! ### Writes -/

theorem reset_memory_wf : Memory.wf State.reset.hbm = true := rfl

/-- A run of writes of bytes keeps the form. -/
theorem memWrite_wf (m : List Host.Cell) (k : Nat) (bs : List Byte) (h : Memory.wf m = true) : Memory.wf (tabWrite 0 m k bs) = true :=
  tabWf_tabWrite 0 bs m k h

/-- A store writes its bytes, and nothing else of memory. -/
theorem storeHbm_hbm (s : State) (hpa : Nat) (bs : List Byte) : (storeHbm s hpa bs).hbm = tabWrite 0 s.hbm hpa bs := by simp [storeHbm]

theorem storeHbm_wf (s : State) (hpa : Nat) (bs : List Byte) (h : Memory.wf s.hbm = true) : Memory.wf (storeHbm s hpa bs).hbm = true := by
  rw [storeHbm_hbm]
  exact memWrite_wf s.hbm hpa bs h

/-- A physical write that is accepted is a store. -/
theorem writePhys_ok {s t : State} {d : DieId} {hpa : Nat} {bs : List Byte} (h : writePhys s d hpa bs = .ok t) : t = storeHbm s hpa bs := by
  unfold writePhys at h
  dsimp only at h
  repeat' split at h
  all_goals cases h
  rfl

theorem writePieces_wf (d : DieId) : ∀ (pl : List (Place2 × Nat)) (s t : State) (bs : List Byte),
    Memory.wf s.hbm = true → writePieces d s pl bs = .ok t → Memory.wf t.hbm = true
  | [], s, t, _, hs, h => by
    cases h
    exact hs
  | (.here hpa, n) :: r, s, t, bs, hs, h => by
    simp only [writePieces] at h
    split at h
    · cases h
    · rename_i u hu
      refine writePieces_wf d r u t _ ?_ h
      rw [writePhys_ok hu]
      exact storeHbm_wf s hpa _ hs
  | (.peer idx hpa, n) :: r, s, t, bs, hs, h => by
    simp only [writePieces] at h
    split at h
    · cases h
    · split at h
      · exact writePieces_wf d r s t _ hs h
      · cases h
      · cases h

/-- A write by partition virtual address keeps the form. -/
theorem writeVA_wf (s t : State) (d : DieId) (caches : List Tlb) (part va : Nat) (bs : List Byte) (hs : Memory.wf s.hbm = true)
    (h : writeVA s d caches part va bs = .ok t) : Memory.wf t.hbm = true := by
  unfold writeVA at h
  split at h
  · cases h
  · exact writePieces_wf d _ s t bs hs h

@[simp] theorem recUncorr_hbm (s : State) (d : DieId) (part : Option Nat) (a b c e f g i : Nat) :
    (recUncorr s d part a b c e f g i).hbm = s.hbm := by
  simp [recUncorr]

@[simp] theorem refuseConf_hbm (s : State) (p : Nat) : (refuseConf s p).hbm = s.hbm := by
  unfold refuseConf
  repeat' split
  all_goals simp [modSec]

/-- A write by host physical address keeps the form. -/
theorem hostWrite_wf (s : State) (addr : Nat) (bs : List Byte) (h : Memory.wf s.hbm = true) : Memory.wf (hostWrite s addr bs).2.hbm = true := by
  unfold hostWrite
  repeat' split
  · exact h
  · simpa using h
  · simpa [recHostUncorr] using h
  · exact storeHbm_wf s addr bs h

/-! ### The map of the flash store, zero writes, and loss of power -/

theorem setMapEntry_wf (s : State) (u v : Nat) (h : Memory.wf s.hbm = true) : Memory.wf (setMapEntry s u v).hbm = true :=
  storeHbm_wf s _ _ h

theorem setMapEntries_wf (f : Nat → Nat) : ∀ (es : Tab Nat) (s : State), Memory.wf s.hbm = true →
    Memory.wf (es.foldl (fun s e => setMapEntry s e.1 (f e.2)) s).hbm = true
  | [], _, h => h
  | e :: r, s, h => setMapEntries_wf f r (setMapEntry s e.1 (f e.2)) (setMapEntry_wf s e.1 (f e.2) h)

theorem rebuildMap_wf (s : State) (h : Memory.wf s.hbm = true) : Memory.wf (rebuildMap s).hbm = true := by
  unfold rebuildMap
  exact setMapEntries_wf (fun x => x - 1) _ _ (setMapEntries_wf (fun x => x) _ _ (tabWf_tabKeep 0 _ _ h))

theorem zeroRange_wf (s : State) (d : DieId) (g n : Nat) (h : Memory.wf s.hbm = true) : Memory.wf (zeroRange s d g n).hbm = true := by
  simp only [zeroRange, modDie_hbm]
  exact tabWf_tabKeep 0 _ _ h

theorem zeroGranule_wf (s : State) (d : DieId) (g : Nat) (h : Memory.wf s.hbm = true) : Memory.wf (zeroGranule s d g).hbm = true := by
  simpa [zeroGranule] using zeroRange_wf s d g 1 h

theorem zeroBoot_wf (s : State) (d : DieId) (h : Memory.wf s.hbm = true) : Memory.wf (zeroBoot s d).hbm = true := zeroRange_wf s d 0 4 h

theorem powerOff_wf (s : State) : Memory.wf (powerOff s).hbm = true := by
  unfold powerOff
  dsimp only
  split <;> rfl

@[simp] theorem recLost_hbm (s : State) (d : DieId) (line detail : Nat) : (recLost s d line detail).hbm = s.hbm := by simp [recLost]

/-- A line that leaves the die cache keeps the form. -/
theorem cacheEvict_wf (s t : State) (d : DieId) (line : Nat) (bad : Bool) (hs : Memory.wf s.hbm = true)
    (h : execCacheEvict d line bad s = .next t) : Memory.wf t.hbm = true := by
  unfold execCacheEvict at h
  dsimp only [nx] at h
  repeat' split at h
  all_goals cases h
  all_goals first
    | (dsimp only
       generalize leBytes 256 _ = bs
       exact memWrite_wf _ _ bs (by simpa using hs))
    | simpa using hs

end Sys2Proof.Machine
end

