-- ==== Sys2Proof/WellFormed.lean ====
section
/-! DEFINITION. Which commands are well formed: every operand names something the module can have. A command that is not well
formed names nothing, and its meaning changes nothing or answers a bus error. -/

namespace Sys2Proof

/-- A cell site of a die (R14). -/
def wfCell (c : CellLoc) : Bool := decide (c.site < 272)

/-- One of the six streams of a cell (R120). -/
def wfStream (l : StreamLoc) : Bool := decide (l.site < 272) && decide (l.stream < 6)

/-- A tile slot named by a parity error (R91). -/
def wfSlot (t : Option Nat) : Bool := t.all (fun n => decide (n < 64))

/-- A function of the module (R399). -/
def wfFn : FnId → Bool
  | .queue _ q => decide (q < 64)
  | .cell _ site => decide (site < 272)
  | .chainPort _ port => decide (port < 16)
  | .flash => true

/-- A grant's requester (R134). -/
def wfGrant : GrantReq → Bool
  | .xfetch site _ => decide (site < 272)
  | .delivery slot _ => decide (slot < 8)
  | .moverRead site => decide (site < 272)
  | .moverWrite site => decide (site < 272)

/-- A gate's requester (R307). -/
def wfGate : GateReq → Bool
  | .fetchRow site _ _ => decide (site < 272)
  | .storeRow site _ _ => decide (site < 272)
  | .xfetchPiece site _ => decide (site < 272)
  | .station slot _ => decide (slot < 8)
  | .maskLine site stream => decide (site < 272) && decide (stream < 6)
  | .walk site _ va _ => site.all (· < 272) && decide (va < 2 ^ 48)
  | .command q cseq => decide (q < 32) && decide (cseq < 2 ^ 32)
  | .loader => true
  | .trace => true

/-- A frame's fields fit their widths (Table 13.9). -/
def wfFrame (f : Frame) : Bool :=
  decide (f.dstMac < 2 ^ 48) && decide (f.srcMac < 2 ^ 48) && decide (f.etype < 2 ^ 16) && decide (f.ver < 256)
    && decide (f.type < 256) && decide (f.srcId < 2 ^ 32) && decide (f.dstId < 2 ^ 32) && decide (f.seq < 2 ^ 32)
    && decide (f.ackSeq < 2 ^ 32) && decide (f.chan < 256) && decide (f.hflags < 256) && decide (f.part < 256)
    && decide (f.ihdr < 2 ^ 64)

/-- Every operand of the command names something the module can have. -/
def Instr.wf (i : Instr) : Bool :=
  match i with
  | .nop l => wfStream l
  | .halt l => wfStream l
  | .haltComplete l => wfStream l
  | .fence l => wfStream l
  | .semacq l => wfStream l
  | .semrel l => wfStream l
  | .semrelApply c _ => wfCell c
  | .loop l => wfStream l
  | .loopi l => wfStream l
  | .tcfg l => wfStream l
  | .tcfgApply c _ => wfCell c
  | .scrr l => wfStream l
  | .scrw l => wfStream l
  | .add l => wfStream l
  | .sub l => wfStream l
  | .and l => wfStream l
  | .or l => wfStream l
  | .xor l => wfStream l
  | .sll l => wfStream l
  | .srl l => wfStream l
  | .sra l => wfStream l
  | .mul l => wfStream l
  | .slt l => wfStream l
  | .sltu l => wfStream l
  | .li l => wfStream l
  | .lih l => wfStream l
  | .beq l => wfStream l
  | .bne l => wfStream l
  | .blt l => wfStream l
  | .bge l => wfStream l
  | .bltu l => wfStream l
  | .bgeu l => wfStream l
  | .jal l => wfStream l
  | .jr l => wfStream l
  | .tfetch l => wfStream l
  | .tfetchRowCommit c _ => wfCell c
  | .tstore l => wfStream l
  | .tstoreRowAccept c _ => wfCell c
  | .transferFault c _ => wfCell c
  | .tld l => wfStream l
  | .tst l => wfStream l
  | .xfetch l => wfStream l
  | .xfetchFault c _ => wfCell c
  | .caskld l => wfStream l
  | .caskst l => wfStream l
  | .dqpush l => wfStream l
  | .dqpop l => wfStream l
  | .waitv l => wfStream l
  | .opa l => wfStream l
  | .accOpen l => wfStream l
  | .accClose l => wfStream l
  | .drain l => wfStream l
  | .ewCvt l => wfStream l.loc && wfSlot l.perr
  | .ewAdd l => wfStream l.loc && wfSlot l.perr
  | .ewSub l => wfStream l.loc && wfSlot l.perr
  | .ewMul l => wfStream l.loc && wfSlot l.perr
  | .ewFma l => wfStream l.loc && wfSlot l.perr
  | .ewMax l => wfStream l.loc && wfSlot l.perr
  | .ewMin l => wfStream l.loc && wfSlot l.perr
  | .ewAbs l => wfStream l.loc && wfSlot l.perr
  | .ewNeg l => wfStream l.loc && wfSlot l.perr
  | .ewClamp l => wfStream l.loc && wfSlot l.perr
  | .ewSel l => wfStream l.loc && wfSlot l.perr
  | .ewAxpby l => wfStream l.loc && wfSlot l.perr
  | .ewDiv l => wfStream l.loc && wfSlot l.perr
  | .ewSqrt l => wfStream l.loc && wfSlot l.perr
  | .ewRsqrt l => wfStream l.loc && wfSlot l.perr
  | .ewRecip l => wfStream l.loc && wfSlot l.perr
  | .ewExp l => wfStream l.loc && wfSlot l.perr
  | .ewLog l => wfStream l.loc && wfSlot l.perr
  | .ewFn l => wfStream l.loc && wfSlot l.perr
  | .ewDfn l => wfStream l.loc && wfSlot l.perr
  | .ewRsum l => wfStream l.loc && wfSlot l.perr
  | .ewRsumsq l => wfStream l.loc && wfSlot l.perr
  | .ewRmax l => wfStream l.loc && wfSlot l.perr
  | .ewCsum l => wfStream l.loc && wfSlot l.perr
  | .red l => wfStream l
  | .spill l => wfStream l
  | .resume l => wfStream l
  | .taskPlacement c _ => wfCell c
  | .taskReady c _ => wfCell c
  | .taskChoice c eng => wfCell c && decide (eng < 4)
  | .slotEntry c eng _ => wfCell c && decide (eng < 4)
  | .rankOneStep c eng => wfCell c && decide (eng < 4)
  | .spillPoint c eng => wfCell c && decide (eng < 4)
  | .lastSlice c eng => wfCell c && decide (eng < 4)
  | .drainRead c _ => wfCell c
  | .drainResultWrite c _ => wfCell c
  | .groupFetch c eng _ _ => wfCell c && decide (eng < 4)
  | .parityRetryWrite c eng _ => wfCell c && decide (eng < 4)
  | .streamStart agent l => decide (agent < 256) && wfStream l
  | .streamRetry agent l => decide (agent < 256) && wfStream l
  | .streamSkip agent l => decide (agent < 256) && wfStream l
  | .streamStop agent l => decide (agent < 256) && wfStream l
  | .streamResume agent l => decide (agent < 256) && wfStream l
  | .sfltResume agent l => decide (agent < 256) && wfStream l
  | .sfltCancel agent l => decide (agent < 256) && wfStream l
  | .streamPcWrite agent l _ => decide (agent < 256) && wfStream l
  | .srStateWrite agent l _ => decide (agent < 256) && wfStream l
  | .schedCtlWrite agent c _ => decide (agent < 256) && wfCell c
  | .engCtlWrite agent c _ => decide (agent < 256) && wfCell c
  | .dtabWrite agent c _ _ _ => decide (agent < 256) && wfCell c
  | .grantStart _ group r => decide (group < 16) && wfGrant r
  | .grantEnd _ group => decide (group < 16)
  | .minGapExpiry c => wfCell c
  | .maskLineFill l => wfStream l
  | .sectorCheck _ sec _ => decide (sec < 16)
  | .sectorFailed _ sec => decide (sec < 16)
  | .broadcastWrite agent _ _ _ _ size _ => decide (agent < 256) && (size == 4 || size == 8)
  | .lineSend _ slot _ => decide (slot < 8)
  | .itemPresent _ slot _ => decide (slot < 8)
  | .creditReturn _ slot _ => decide (slot < 8)
  | .microBatchBegin _ slot _ ctx => decide (slot < 8) && decide (ctx < 3)
  | .microBatchEnd _ slot _ ctx => decide (slot < 8) && decide (ctx < 3)
  | .routeRelease _ slot _ => decide (slot < 8)
  | .drainStageItem _ slot _ => decide (slot < 8)
  | .billLoadBegin _ => true
  | .billLoadComplete _ => true
  | .switchQuiescence _ part => decide (part < 16)
  | .switchClose _ part => decide (part < 16)
  | .switchReset _ part => decide (part < 16)
  | .switchConfigure _ part => decide (part < 16)
  | .switchTables _ part => decide (part < 16)
  | .switchOpen _ part => decide (part < 16)
  | .heldSelectStart _ part => decide (part < 16)
  | .commandWrite agent _ q _ data => decide (agent < 256) && decide (q < 64) && decide (data.length ≤ 256)
  | .commandStart _ q => decide (q < 64)
  | .commandComplete _ q cseq => decide (q < 64) && decide (cseq < 4294967296)
  | .run _ q cseq => decide (q < 64) && decide (cseq < 4294967296)
  | .billLoad _ q cseq => decide (q < 64) && decide (cseq < 4294967296)
  | .billUnload _ q cseq => decide (q < 64) && decide (cseq < 4294967296)
  | .billSelect _ q cseq => decide (q < 64) && decide (cseq < 4294967296)
  | .descCreate _ q cseq => decide (q < 64) && decide (cseq < 4294967296)
  | .descUpdate _ q cseq => decide (q < 64) && decide (cseq < 4294967296)
  | .descFree _ q cseq => decide (q < 64) && decide (cseq < 4294967296)
  | .copy _ q cseq => decide (q < 64) && decide (cseq < 4294967296)
  | .stepCommit _ q cseq => decide (q < 64) && decide (cseq < 4294967296)
  | .stepAbandon _ q cseq => decide (q < 64) && decide (cseq < 4294967296)
  | .stepSettleEnd _ eg => decide (eg < 4096)
  | .barrierVerdict _ eg => decide (eg < 4096)
  | .barrierTimeout _ eg => decide (eg < 4096)
  | .versionWait _ q cseq => decide (q < 64) && decide (cseq < 4294967296)
  | .streamCtl _ q cseq => decide (q < 64) && decide (cseq < 4294967296)
  | .queueResume agent _ q => decide (agent < 256) && decide (q < 64)
  | .queueFlush agent _ q => decide (agent < 256) && decide (q < 64)
  | .queueEnable agent _ q _ _ => decide (agent < 256) && decide (q < 64)
  | .cellEnable agent c _ => decide (agent < 256) && wfCell c
  | .cellInit agent c => decide (agent < 256) && wfCell c
  | .cpFnEnable agent _ port _ => decide (agent < 256) && decide (port < 16)
  | .flEnable agent _ => decide (agent < 256)
  | .functionStartEnd f => wfFn f
  | .functionDrainEnd f => wfFn f
  | .redItemJudge _ slot _ => decide (slot < 8)
  | .redFold _ slot _ => decide (slot < 8)
  | .redEmit _ slot _ _ => decide (slot < 8)
  | .bucketTimeout _ place _ => decide (place < 256)
  | .rlCtlWrite agent _ place _ => decide (agent < 256) && decide (place < 256)
  | .relayItem _ slot _ => decide (slot < 8)
  | .gateTransfer _ group client => decide (group < 16) && wfGate client
  | .gateTransferComplete _ group _ => decide (group < 16)
  | .pageWalk _ group _ part _ _ => decide (group < 16) && decide (part < 16)
  | .tlbInvalidate agent _ part => decide (agent < 256) && decide (part < 16)
  | .tlbInvalidateDone _ part => decide (part < 16)
  | .scheduleDelivery _ slot _ => decide (slot < 8)
  | .cacheEvict _ _ _ => true
  | .patrolRead _ mc _ _ => decide (mc < 320)
  | .odeccPoll _ mc _ _ => decide (mc < 320)
  | .hbmRateChange _ _ => true
  | .hbmRateChangeEnd _ _ => true
  | .mcBroadcastWrite agent _ _ size _ => decide (agent < 256) && (size == 4 || size == 8)
  | .hbmRgnWrite agent _ _ _ => decide (agent < 256)
  | .moverBlock _ slot _ => decide (slot < 8)
  | .flashUnitRead _ _ => true
  | .readRetry _ _ => true
  | .flashProgram cseq _ _ => decide (cseq < 4294967296)
  | .flashMove _ _ => true
  | .flashScan _ => true
  | .mapReady => true
  | .flashHealthChange _ _ _ => true
  | .flCommandWrite agent _ data => decide (agent < 256) && decide (data.length ≤ 256)
  | .flRead cseq => decide (cseq < 4294967296)
  | .flWrite cseq => decide (cseq < 4294967296)
  | .flTrim cseq => decide (cseq < 4294967296)
  | .flFlush cseq => decide (cseq < 4294967296)
  | .flQueueResume agent => decide (agent < 256)
  | .flQueueFlush agent => decide (agent < 256)
  | .flExtWrite agent _ _ => decide (agent < 256)
  | .programSuspend _ _ => true
  | .commandMemoryStore core _ => decide (core < 24)
  | .memRd _ agent _ _ _ => decide (agent < 256)
  | .memWr _ agent _ data => decide (agent < 256) && decide (data.length ≤ 256)
  | .cmdWr _ agent _ data => decide (agent < 256) && decide (data.length ≤ 256)
  | .regRd _ agent _ _ size => decide (agent < 256) && (size == 4 || size == 8)
  | .regWr _ agent _ _ size _ => decide (agent < 256) && (size == 4 || size == 8)
  | .cpl _ _ _ _ => true
  | .msgIrq _ _ _ => true
  | .flashReq _ slot _ _ => decide (slot < 8)
  | .flashDlv _ slot _ => decide (slot < 8)
  | .ucieReservedType _ module _ => decide (module < 4)
  | .ucieTraining _ module _ _ _ => decide (module < 4)
  | .bridgeLine _ seg _ _ _ => decide (seg < 16)
  | .ackOk _ seg => decide (seg < 16)
  | .ackRetry _ seg => decide (seg < 16)
  | .bridgeAckTimeout _ seg => decide (seg < 16)
  | .bridgeRetrain _ => true
  | .item _ port f => decide (port < 16) && wfFrame f
  | .token _ port f => decide (port < 16) && wfFrame f
  | .credit _ port f => decide (port < 16) && wfFrame f
  | .ack _ port f => decide (port < 16) && wfFrame f
  | .nack _ port f => decide (port < 16) && wfFrame f
  | .mark _ port f => decide (port < 16) && wfFrame f
  | .memReq _ port f => decide (port < 16) && wfFrame f
  | .memRsp _ port f => decide (port < 16) && wfFrame f
  | .rtoTimeout _ peer => decide (peer < 4096)
  | .standaloneAck _ peer => decide (peer < 4096)
  | .creditPeriodic _ peer => decide (peer < 4096)
  | .markSend _ port => decide (port < 16)
  | .peerCfgWrite agent _ _ _ => decide (agent < 256)
  | .bar2Access vf _ _ => decide (vf < 16)
  | .perstN _ => true
  | .getStatus _ => true
  | .regRead _ _ => true
  | .regWrite _ _ _ => true
  | .telemetry _ => true
  | .fwUpdate _ _ _ => true
  | .calExport _ _ _ => true
  | .idcode tap => decide (tap < 3)
  | .samplePreload tap _ _ => decide (tap < 3)
  | .extest tap => decide (tap < 3)
  | .clamp tap => decide (tap < 3)
  | .highz tap => decide (tap < 3)
  | .holtuthDebug tap _ => decide (tap < 3)
  | .bypass tap _ => decide (tap < 3)
  | .layoutSet ch => decide (ch < 2)
  | .scrub ch => decide (ch < 2)
  | .spargeZeroWrite _ _ => true
  | .confSet ch => decide (ch < 2)
  | .attest ch => decide (ch < 2)
  | .fwStage r => decide (r.ch < 2)
  | .fwApply r => decide (r.ch < 2)
  | .fwDiscard r => decide (r.ch < 2)
  | .keyRevoke ch => decide (ch < 2)
  | .debugAuth ch => decide (ch < 2)
  | .calCommit agent => decide (agent < 256)
  | .xtalGood => true
  | .noXtal => true
  | .xtalLost => true
  | .xtalRetry agent _ => decide (agent < 256)
  | .clockRampStep island => decide (island < 16)
  | .trimWindow _ => true
  | .governorTick _ _ => true
  | .dutyTick _ _ => true
  | .pwrCtlWrite agent _ => decide (agent < 256)
  | .powerModeChangeEnd => true
  | .thermalSample _ _ _ => true
  | .thermalTrip => true
  | .telemetryRefresh _ => true
  | .timebaseFollow _ _ => true
  | .ppsEdge _ => true
  | .tbHoldover => true
  | .tbMeasStart agent _ port => decide (agent < 256) && decide (port < 16)
  | .modEnRise _ _ => true
  | .pwr48Threshold => true
  | .firmwareVerify _ _ => true
  | .secFwStart _ => true
  | .linkTraining _ => true
  | .serviceFloorTest _ => true
  | .hostStart => true
  | .modEnFall => true
  | .undervoltage => true
  | .overvoltage => true
  | .regulatorFault => true
  | .partRst agent part => decide (agent < 256) && decide (part < 16)
  | .dieReset agent _ => decide (agent < 256)
  | .warmReset agent => decide (agent < 256)
  | .counterWrap _ _ _ => true
  | .cntClear agent _ _ => decide (agent < 256)
  | .cntHold agent _ _ _ => decide (agent < 256)
  | .cntSnapArm agent _ => decide (agent < 256)
  | .cntSnapTrigger _ => true
  | .tapRecord _ _ => true
  | .traceEnable agent _ _ => decide (agent < 256)
  | .traceTrigger _ _ => true
  | .trcMarkWrite agent _ _ => decide (agent < 256)
  | .rdSeqWrite agent _ _ => decide (agent < 256)
  | .readClear agent _ size => decide (agent < 256) && (size == 4 || size == 8)
  | .registerWrite agent _ size _ => decide (agent < 256) && (size == 4 || size == 8)
  | .reservedOpcodeIssue l => wfStream l
  | .internalAccess c _ _ => wfCell c
  | .reservedFrameType _ port f => decide (port < 16) && wfFrame f
  | .chainLinkStateChange _ port _ => decide (port < 16)
  | .refreshManagementRequest _ mc => decide (mc < 320)
  | .setEndpointId _ => true
  | .unsupportedCommand _ _ => true
  | .tapReset _ => true
  | .turnOffRestart => true

end Sys2Proof
end

