-- ==== Sys2Proof/Tests/Slice0.lean ====
section
/-! SUPPORT. Tests of single steps, of well-formedness, and witnesses for the hypotheses of the obligations. -/

namespace Sys2Proof.Tests

open Sys2Proof.Machine

set_option Elab.async false

/-! ### Small states -/

def dieUp (x : Die) : Die := { x with clk := { x.clk with running := true, enMc := 0x3FF, enUcie := 0xF, enCp := 0xF, enDm := 7 } }

/-- A module that has booted, with every clock enabled. -/
def up : State := {
  hd := {
    power := { modEn := true, pwr48 := .inRange, pwrgd := true, hostRails := true, computeRails := true }
    boot := { stage := 6 }
    clk := { enHd := 0xFFFFFFF } }
  cd0 := dieUp {}
  cd1 := dieUp {} }

def c0 : CellLoc := { die := .cd0, site := 0 }
/-- The access and the execute stream of pass context F at site 0 of CD0. -/
def la : StreamLoc := { die := .cd0, site := 0, stream := 0 }
def lx : StreamLoc := { die := .cd0, site := 0, stream := 1 }

/-- Site 0 of CD0 runs the word at address 0 of its streams' image of `n` words. -/
def progN (n w : Nat) : State := modCell up c0 (fun x => {
  c := { x.c with f_a := { st := .running, image := some 0 }, f_x := { st := .running, image := some 0 } }
  m := { x.m with region := some 0, imageAt := [(0, (0, n))], iregion := [(0, BitVec.ofNat 64 w)] } })
def prog (w : Nat) : State := progN 1 w

/-- The same with s1 = 1 and a change of the execute stream. -/
def progX (w : Nat) (f : Stream → Stream) : State := modStream (prog w) lx (fun t => f { t with regs := [(1, 1)] })
def progR (w : Nat) : State := progX w id
/-- The instruction of an opcode with RS1 and RS2. -/
def rr (o r1 r2 : Nat) : Nat := o + 2 ^ 13 * r1 + 2 ^ 18 * r2

/-- What partition 1 owns on CD0: one of everything. -/
def ld : LayoutDie := {
  cells := 3, queues := 1, slots := 3, gateCtx := 0, gateGroups := 1, tdtBase := 0, tdtCount := 1, egBase := 0, egCount := 1
  rl := 1, ds := 1, bar := 1, wr := 1, cm := 1, fr := 1, cp := 1, bp := 1, peerBase := 0, peerCount := 1 }

/-- A tensor of one FP32 element at VA 0 of group 0, GEN 1, with flags added. -/
def ent (flags : Nat) : Nat := 2 ^ 128 + 2 ^ 160 + 2 ^ 192 + 2 ^ 224 + 2 ^ 488 + 2 ^ 495 + flags
/-- The handle of entry 0 for partition 1. -/
def hnd : Nat := 2 ^ 17 + 2 ^ 21

/-- The module with an active partition 1, that owns GiB 0 of CD0 mapped at VA 0 by tables at 0x10000, and host memory at GiB 1. -/
def full : State :=
  let s := { up with
    hd := { up.hd with sec := { up.hd.sec with layout := [(1, { exists_ := true, die0 := ld })], parts := [(1, { st := .active })] } }
    cd0 := { up.cd0 with
      ilvEn := 1, ilvValid := true
      ucie := [(0, { st := 1 })]
      rgns := [(0, { base := 0, limit := 1, part := 1, valid := true }), (1, { base := 1, limit := 2, host := true, valid := true })]
      tdt := [(0, ent 0)]
      parts := [(1, { ptEn := true, ptRoot := 0x10 })]
      cells := [(0, { c := { fn := { en := true, st := .on } } })]
      gates := [(0, { tlb := [{ part := 1, vpage := 0, bits := 16, pte := 4 }] })] }
    hbm := [(0x10000, 1), (0x10002, 0x10), (0x10003, 1), (0x11000, 7)] };
  s

/-- A Bill of partition 1 for CD0 of 1216 bytes that passes every check: a cell, its fetch station, and one station of each other kind but
chain and bridge ports, with ten routes. -/
def billNum : Nat := 0x1000000000000104000000001000000000000000000000000000000010022000000000100000000000022000000000000000000000000000000000001000001000000000000010000000000000000000000000000000000000000000000000000000000000000000000000000000000000000000000000000000000000000000000000000000005040000000000000000000000000100020100000000000000000000000100220000000000000000000100000000000010000000000000000000000000000000000000000000000000000000000000000000000000000000000000000000000000000000000000000000000000000000000f00000000000000000000ffff0000ffff0000ffff0000ffff0000ffff000000000000000000000000000000000000000000000000000000000000000000000000000000000000000000000000000000000000000000000000000000000000000000000000000000000000000000000000000000000000000000000000000000000000000000000000000000000000000000000000000000000000000800000000000000000000000000000000000000000000000000000000000000000000000000000000000000040c010003010200010000000000000004020100080001000000000000000000040d0100050101000100000000000000400c0000000300000700000000000000400c0000000200000600000000000000400c0000060000000400000000000000400c0000030001000400000000000000400c000000010000020000000000000004010100000000000100000000000000400c000004000000000000000000000000000000000000000000000000000000000000000000000000000000000000000000000000000000040000000000000120000000000000010b00000000000000000000000000000000000000100000011000000000000100080000000000000000000000000000004000000018000000f800000000000101070000000000000000000000000004000000000020000000d80000000000000206000000000000000000000000000000400000005400000080000000000002010500000000000000000000000000040040000000100000007000000000000002040000000000000000000000000000000000000010000000600000000000010003000000000000000000000000000000000000000000000060000000000003000200000000000000000040004000400004000000600000000000000000000204010000000000000000000000000000000000000000000000000000000000000000000000000000000000000000000000000000000000000000000001200000038000000008000003400000001000000300000000a0000002400000012000000100a9d127922c2835a12ea09c0810cb88199107a72dfad630d4bb9f96c6cdf13c04d9589d2362d0933062a708371c841adfa457a310f55ceddbb5a53fd68f0eccdb000000000000000000000000000000000000000000000000000000000000000000000000000000000000000000000000000000000000000000000000000000000000000000000000000000000000000700000001000004c0000100014c424a4d
def billLen : Nat := 1216
def bill : List Byte := leBytes billLen billNum
/-- The place of station `st` of the Bill in slot 0. -/
def at_ (st : Nat) : StAt := { d := .cd0, slot := 0, bill := bill, st := st }
/-- A Bill that names nothing. -/
def bill0 : List Byte := leBytes 256 0xbec4b7b3ac2e294086b49a47491c82fcf692b5679d0105cb00f2c0d8ddc45dd72f76d56e64270cb5821bb862ea52cd3f24eb3e74eb3f3b23138da80b2bddb94600000000000000000000000000000000000000000000000000000000000000000000000000000000000000000000000000000000000000000000000000000000000000000000000000000000000000070000000100000100000100014c424a4d

/-- `full` with the Bill in slot 0 in a state, and the partition's active slot. -/
def slotted (st : BslotSt) (act : Option Nat) : State := { full with
  cd0 := { full.cd0 with slots := [(0, { st := st, bill := bill })], parts := [(1, { ptEn := true, ptRoot := 0x10, active := act })] } }
/-- The Bill is ACTIVE. -/
def floor : State := slotted .active (some 0)

/-- Streams `la` and `lx` of `full` run one word; s1 holds the handle of entry 0; slot 0 is a filled element of FP32. -/
def fprog (w : Nat) : State := modCell full c0 (fun x => {
  c := { x.c with
    f_a := { st := .running, image := some 0, regs := [(1, BitVec.ofNat 64 hnd)] }
    f_x := { st := .running, image := some 0, regs := [(1, BitVec.ofNat 64 hnd)] }
    slots := [(0, { fmt := 0, rows := 1, cols := 1, words := 1, filled := true, gen := 1 })] }
  m := { x.m with region := some 0, imageAt := [(0, (0, 1))], iregion := [(0, BitVec.ofNat 64 w)] } })
/-- The same with an instruction of `la` in flight as number 1. -/
def fop (inst : Option Nat) (k : OpKind) : State := addOp (fprog 0) la inst k
def op1 (inst : Option Nat) (k : OpKind) : Op := { id := 1, stream := 0, pc := 0, inst := inst, kind := k }
def slot0 : Slot := { fmt := 0, rows := 1, cols := 1, words := 1, filled := true, gen := 1 }

theorem wit_full : canonical full = true ∧ canonical floor = true := by decide +kernel
/-- The Bill passes every check but the two digests' (which the smaller one passes too). -/
theorem test_bill_check1 : check1 bill = true := by decide +kernel
theorem test_bill_check5 : check5 bill = true := by decide +kernel
theorem test_bill_check6 : check6 bill = true := by decide +kernel
theorem test_bill_check7 : check7 full .cd0 bill = true := by decide +kernel
theorem test_bill_check8 : check8 full .cd0 1 bill = true := by decide +kernel
theorem test_bill_check9 : check9 bill = true := by decide +kernel
theorem test_bill_check10 : check10 bill = true := by decide +kernel
theorem wit_bill : billStatus full .cd0 1 bill0 = 0 := by decide +kernel
/-! ### Witnesses: scalar work, loops, control (06) -/

theorem wit_scalarWork : ∀ o ∈ [0x10, 0x11, 0x12, 0x13, 0x14, 0x15, 0x16, 0x17, 0x18, 0x19, 0x1A, 0x1B, 0x1C], ready (prog o) lx o o = true := by
  decide

/-- Each branch with s0 and s1, equal and unequal, which makes each condition hold and fail. -/
theorem wit_controlTransfer :
    (∀ o ∈ [0x20, 0x21, 0x22, 0x23, 0x24, 0x25], ∀ r ∈ [0, 1], let w := rr o 0 r
      ready (progR w) lx o w = true ∧ atLoopEnd (getStream (progR w) lx).loops 0 = false ∧ pcPlus 0 (fIMMs w) % 8 = 0
        ∧ (getReg (getStream (progR w) lx) (fRS1 w)).toNat = 0 ∧ (getReg (getStream (progR w) lx) (fRS2 w)).toNat = r)
    ∧ (∀ o ∈ [0x26, 0x27], ready (prog o) lx o o = true ∧ atLoopEnd (getStream (prog o) lx).loops 0 = false
        ∧ pcPlus 0 (fIMMs o) % 8 = 0 ∧ unsigned 32 (((getReg (getStream (prog o) lx) (fRS1 o)).toNat : Int) + fIMMs o) % 8 = 0) := by
  decide

/-- A level over 8 to 24 inside one over 0 to 64; targets at both ends of the inner body and beside them. -/
def looped (w : Nat) : State := progX w (fun t => { t with loops := [{ first := 8, last := 24, left := 2, iter := 0 }, { first := 0, last := 64, left := 2, iter := 0 }] })
theorem wit_loopLevels : canonical (looped 0) = true ∧ lx.stream < 6
    ∧ (getStream (looped 0) lx).loops = [{ first := 8, last := 24, left := 2, iter := 0 }, { first := 0, last := 64, left := 2, iter := 0 }] := by
  decide

/-- LOOP of s1 = 1 and of s0 = 0, and LOOPI of 1 and 0, over one word. -/
theorem wit_loops : (∀ n ∈ [0, 1], let w := rr 0x05 n 0 + 2 ^ 32 * 8
      ready (progR w) lx 0x05 w = true ∧ fIMMs w = 8 ∧ atLoopEnd (getStream (progR w) lx).loops 0 = false
        ∧ regFld (getStream (progR w) lx) (fRS1 w) 31 0 = n ∧ (getStream (progR w) lx).loops = [])
    ∧ (∀ n ∈ [0, 1], let w := 0x06 + 2 ^ 8 * n + 2 ^ 32 * 8
      ready (progR w) lx 0x06 w = true ∧ fIMMs w = 8 ∧ atLoopEnd (getStream (progR w) lx).loops 0 = false
        ∧ fld w 31 8 = n ∧ (getStream (progR w) lx).loops = []) := by
  decide

def fourLevels : List LoopLevel := List.replicate 4 { first := 8, last := 16, left := 2, iter := 0 }
def atEnd (t : Stream) : Stream := { t with loops := [{ first := 0, last := 0, left := 2, iter := 0 }] }

/-- END 0 and 4; a full stack; PC at the end of a level, for each instruction that R155 names. -/
theorem wit_loopExceptions :
    (∀ n ∈ [0, 4], let w := rr 0x05 1 0 + 2 ^ 32 * n; ready (progR w) lx 0x05 w = true ∧ (fIMMs w ≤ 0 ∨ fIMMs w % 8 ≠ 0))
    ∧ (∀ n ∈ [0, 4], let w := 0x106 + 2 ^ 32 * n; ready (progR w) lx 0x06 w = true ∧ (fIMMs w ≤ 0 ∨ fIMMs w % 8 ≠ 0))
    ∧ (let w := rr 0x05 1 0 + 2 ^ 32 * 8; let s := progX w (fun t => { t with loops := fourLevels });
        ready s lx 0x05 w = true ∧ fIMMs w = 8 ∧ 0 < regFld (getStream s lx) (fRS1 w) 31 0 ∧ 4 ≤ (getStream s lx).loops.length)
    ∧ (let w := 0x106 + 2 ^ 32 * 8; let s := progX w (fun t => { t with loops := fourLevels });
        ready s lx 0x06 w = true ∧ fIMMs w = 8 ∧ 0 < fld w 31 8 ∧ 4 ≤ (getStream s lx).loops.length)
    ∧ (∀ w ∈ [rr 0x05 1 0 + 2 ^ 32 * 8, 0x106 + 2 ^ 32 * 8], let s := progX w atEnd;
        ready s lx (opcode w) w = true ∧ 0 < fIMMs w ∧ fIMMs w % 8 = 0 ∧ (getStream s lx).loops.length < 4 ∧ atLoopEnd (getStream s lx).loops 0 = true)
    ∧ (∀ w ∈ [0x01, 0x20, 0x21, 0x22, 0x23, 0x24, 0x25, 0x26, 0x27], let s := progX w atEnd;
        ready s lx w w = true ∧ atLoopEnd (getStream s lx).loops 0 = true ∧ pcPlus 0 (fIMMs w) % 8 = 0
          ∧ unsigned 32 (((getReg (getStream s lx) (fRS1 w)).toNat : Int) + fIMMs w) % 8 = 0)
    ∧ canonical (progX 0 atEnd) = true := by
  decide

/-- NOP, HALT, the end of a HALT, and FENCE at stream scope and, behind a release in flight, at cell scope. -/
theorem wit_controlInstructions :
    ready (prog 0) lx 0 0 = true ∧ ready (prog 1) lx 1 1 = true ∧ atLoopEnd (getStream (prog 1) lx).loops 0 = false
    ∧ (let s := progX 1 (fun t => { t with wait := .halt });
        (getStream s lx).st = .running ∧ (getStream s lx).wait = .halt ∧ streamBusy (getCell s c0).m 1 = false ∧ wordAt s lx 0 = some 1)
    ∧ (let w := 0xE02; ready (prog w) lx 2 w = true ∧ bit w 8 = false ∧ (getCell (prog w) c0).m.ops = [])
    ∧ (let w := 0xF02; let s := addOp (prog w) la none (.cask true 0 0 0);
        ready s lx 2 w = true ∧ bit w 8 = true
          ∧ (getCell s c0).m.ops.any (fun o => inClass o (bit w 9) (bit w 10) (bit w 11)) = true) := by
  decide

/-! ### Witnesses: semaphores, queues, configuration, moves (04, 06) -/

/-- The cell's queue 0 with `n` values. -/
def qd (k w n : Nat) : State := modC (fprog w) c0 (fun c => { c with queues := tabSet [] c.queues (dqKey 0 k) (List.replicate n 7) })

theorem wit_semaphoresAndQueues :
    (∀ n ∈ [0, 1], let s := modC (modStream (prog 3) la (fun t => { t with wait := if n = 0 then .none else .semaphore })) c0 (fun c => setSem c 0 (n + 1))
      ready s lx 3 3 = true ∧ semAhead s lx 0 = n ∧ semAhead s lx 0 < getSem (getCell s c0).c 0)
    ∧ (ready (prog 4) lx 4 4 = true ∧ semPending (getCell (prog 4) c0) 0 < 255)
    ∧ (∀ v ∈ [0, 254], let s := modC (fop none (.semrel 0)) c0 (fun c => setSem c 0 v)
        let o := op1 none (.semrel 0)
        findOp (getCell s c0).m 1 = some o ∧ o.kind = .semrel 0 ∧ getSem (getCell s c0).c 0 < 255
          ∧ (getCell s c0).m.ops.any (fun y => decide (y.id < 1) && y.stream == o.stream && opStores y) = false)
    ∧ (∀ k ∈ [0, 5], ∀ n ∈ [0, 15, 16], let w := 0x47 + 2 ^ 24 * k
        ready (qd k w n) la 0x47 w = true ∧ dqPushOk 0 (fld w 26 24) = true ∧ (tabGet [] (getCell (qd k w n) c0).c.queues (dqKey 0 k)).length = n)
    ∧ (∀ k ∈ [6, 7], ∀ n ∈ [0, 15, 16], let w := 0x47 + 2 ^ 24 * k
        ready (qd k w n) lx 0x47 w = true ∧ dqPushOk 1 (fld w 26 24) = true ∧ (tabGet [] (getCell (qd k w n) c0).c.queues (dqKey 0 k)).length = n
          ∧ ready (qd k w n) la 0x47 w = true ∧ dqPushOk 0 (fld w 26 24) = false)
    ∧ (∀ k ∈ [0, 5], ∀ n ∈ [0, 1], let w := 0x48 + 2 ^ 24 * k
        ready (qd k w n) lx 0x48 w = true ∧ dqPushOk 1 (fld w 26 24) = false ∧ tabGet [] (getCell (qd k w n) c0).c.queues (dqKey 0 k) = List.replicate n 7
          ∧ ready (qd k w n) la 0x48 w = true ∧ dqPushOk 0 (fld w 26 24) = true)
    ∧ (let w := rr 0x49 1 0; ready (fprog w) lx 0x49 w = true ∧ cellHandle (fprog w) c0 hnd = some (ent 0) ∧ versionReached (eVcount (ent 0)) 0 = true
        ∧ regFld (getStream (fprog w) lx) (fld w 17 13) 31 0 = hnd) := by
  decide +kernel

theorem wit_configurationInstructions :
    (∀ w ∈ [0x07, 0x07 + 2 ^ 8 * 63 + 2 ^ 19 * 64 + 2 ^ 26 * 64 + 2 ^ 35 * 64], ready (fprog w) la 7 w = true ∧ noExc (tcfgExcs (tcfgOf w)) = true)
    ∧ (let s := fop none (.tcfg 0 {}); findOp (getCell s c0).m 1 = some (op1 none (.tcfg 0 {}))
        ∧ (getCell s c0).m.ops.any (fun y => decide (y.id < 1) && needsConfig y 0) = false)
    ∧ (ready (fprog 8) la 8 8 = true ∧ (scrValue (fprog 8) la (fld 8 43 32)).isSome = true)
    ∧ (ready (fprog 9) la 9 9 = true ∧ fld 9 43 32 = 0) := by
  decide +kernel

/-- A transfer of the element between slot 0 and entry 0. -/
def tr (store : Bool) (flags : Nat) : Transfer := { store := store, slot := 0, cfg := slot0, ent := ent flags, coord := 0 }
def isOkR {α : Type} : MemR α → Bool
  | .ok _ => true
  | _ => false
def faultOf {α : Type} : MemR α → Nat
  | .fault k => k
  | _ => 0

theorem ok_of_isOkR {α : Type} {r : MemR α} (h : isOkR r = true) : ∃ a, r = .ok a := by
  cases r with
  | ok a => exact ⟨a, rfl⟩
  | fault k => simp [isOkR] at h
  | ask q => simp [isOkR] at h

theorem fault_of_faultOf {α : Type} {r : MemR α} {k : Nat} (h : faultOf r = k) (hk : k ≠ 0) : r = .fault k := by
  cases r with
  | ok a => exact absurd h.symm hk
  | fault j => exact congrArg MemR.fault h
  | ask q => exact absurd h.symm hk

theorem wit_transfers_issue :
    (∀ o ∈ [0x40, 0x41], let w := o + 2 ^ 14; let s := fprog w
      cellHandle s c0 (regFld (getStream s la) (fld w 18 14) 31 0) = some (ent 0) ∧ ready s la o w = true
        ∧ slotsFree (getCell s c0).m 0 { writes := [0] } = true ∧ slotsFree (getCell s c0).m 0 { reads := [0] } = true
        ∧ noExc (transferExcs (getCell s c0) (o == 0x41) 0 (ent 0)) = true ∧ eDual (ent 0) = false) := by
  decide +kernel

/-- A state whose memory gate of group 0 has issued a transfer of a client. -/
def asked (s : State) (c : Client) : State := modGate s .cd0 0 (fun g => { g with xfers := [{ id := 0, level := 0, client := c }], nextXfer := 1 })

theorem wit_transfers_rows :
    (let t := { tr false 0 with arrived := [(0, some (5, 0))] }; let s := fop none (.transfer t)
      findOp (getCell s c0).m 1 = some (op1 none (.transfer t)) ∧ mayAct (getCell s c0) (op1 none (.transfer t)) = true
        ∧ t.stopped = none ∧ t.row < t.cfg.rows ∧ tabGet none t.arrived t.row = some (5, 0))
    ∧ (let t := tr true 0; let s := asked (fop none (.transfer t)) (.storeRow 0 1 0)
      (findOp (getCell s c0).m 1 = some (op1 none (.transfer t)) ∧ mayAct (getCell s c0) (op1 none (.transfer t)) = true
        ∧ t.stopped = none ∧ t.row < t.cfg.rows ∧ rowIssued s c0 1 t.row = true)
        ∧ ∃ s1, storeRow (rowDone (modM s c0 (fun m => served m 1)) c0 1 t.row) c0 t = .ok s1)
    ∧ (let t := { tr false 0 with faults := [(0, 2)] }; let s := fop none (.transfer t)
      findOp (getCell s c0).m 1 = some (op1 none (.transfer t)) ∧ mayAct (getCell s c0) (op1 none (.transfer t)) = true
        ∧ t.stopped = none ∧ t.row < t.cfg.rows ∧ tabGet 0 t.faults t.row = 2)
    ∧ (let t := tr true (2 ^ 483); let s := asked (fop none (.transfer t)) (.storeRow 0 1 0)
      (findOp (getCell s c0).m 1 = some (op1 none (.transfer t)) ∧ mayAct (getCell s c0) (op1 none (.transfer t)) = true
        ∧ t.stopped = none ∧ t.row < t.cfg.rows ∧ rowIssued s c0 1 t.row = true) ∧ storeRow s c0 t = .fault 2) :=
  ⟨by decide +kernel, ⟨by decide +kernel, ok_of_isOkR (by decide +kernel)⟩, by decide +kernel, by decide +kernel,
    fault_of_faultOf (by decide +kernel) (by decide +kernel)⟩

/-- Row 0 of a TSTORE of two rows, whose stream is asked to stop or not. -/
theorem wit_transfers_stop (b : Bool) : let t : Transfer := { tr true 0 with cfg := { slot0 with rows := 2, words := 2 }, ent := ent (2 ^ 192), stopReq := b }
    let s := asked (fop none (.transfer t)) (.storeRow 0 1 0)
    (findOp (getCell s c0).m 1 = some (op1 none (.transfer t)) ∧ mayAct (getCell s c0) (op1 none (.transfer t)) = true
        ∧ t.stopped = none ∧ t.row + 1 ≠ t.cfg.rows ∧ t.row < t.cfg.rows ∧ rowIssued s c0 1 t.row = true)
      ∧ ∃ s1, storeRow (rowDone (modM s c0 (fun m => served m 1)) c0 1 t.row) c0 t = .ok s1 :=
  ⟨by cases b <;> decide +kernel, ok_of_isOkR (by cases b <;> decide +kernel)⟩
/-! ### Witnesses: moves and execute instructions (04, 05, 06) -/

/-- The TLD and TST of slot 0 with the store, and images. -/
def mv0 (store : Bool) : Move := { store := store, slot := 0, cfg := slot0, col := false, off := 0, pitch := 0 }
/-- Slot 0 as a TLD filled it. -/
def loaded (s : State) : State := modC s c0 (fun c => setTslot c 0 { slot0 with srcValid := true, srcPitch := 4 })
/-- Image 0 open and owned by F. -/
def imaged (s : State) : State := modC s c0 (fun c => setCask c 0 { isOpen := true, owner := 0 })
def xf0 : Xfetch := { ent := ent 0, coord := 0, off := 0, nt := 1 }

theorem wit_moves_issue :
    (∀ o ∈ [0x42, 0x43], ready (fprog o) la o o = true ∧ noExc (moveExcs (getCell (fprog o) c0) (moveArgs (fprog o) la (o == 0x43) o)) = true
      ∧ slotsFree (getCell (fprog o) c0).m 0 (moveTouch (moveArgs (fprog o) la (o == 0x43) o)) = true)
    ∧ (∀ o ∈ [0x45, 0x46], ready (imaged (fprog o)) la o o = true ∧ noExc (caskExcs (getCell (imaged (fprog o)) c0) 0 0 0) = true
      ∧ sbHolds (getCell (imaged (fprog o)) c0).m { range := some (0, 65536, o == 0x46) } = false)
    ∧ (let w := 0x44 + 2 ^ 14; let f := xfetchArgs (fprog w) la w (ent 0)
      ready (fprog w) la 0x44 w = true ∧ cellHandle (fprog w) c0 (regFld (getStream (fprog w) la) (fld w 18 14) 31 0) = some (ent 0)
        ∧ xfetchRangeBad f = false ∧ sbHolds (getCell (fprog w) c0).m { range := some (f.off, xfetchSpan f, true) } = false) := by
  decide +kernel

theorem wit_moves_act :
    (∀ b ∈ [false, true], let s := fop none (.move (mv0 b)); let o := op1 none (.move (mv0 b))
      findOp (getCell s c0).m 1 = some o ∧ portServes (getCell s c0) o = true)
    ∧ (∀ b ∈ [false, true], ∀ n ∈ [0, 255], let s := imaged (fop none (.cask b 0 0 n)); let o := op1 none (.cask b 0 0 n)
      findOp (getCell s c0).m 1 = some o ∧ portServes (getCell s c0) o = true)
    ∧ (let s := loaded (fop none (.move (mv0 true))); let o := op1 none (.move (mv0 true))
      portServes (getCell s c0) o = true ∧ (getTslot (getCell s c0).c 0).srcValid = true)
    ∧ (let s := fop none (.move (mv0 true)); let o := op1 none (.move (mv0 true))
      portServes (getCell s c0) o = true ∧ (getTslot (getCell s c0).c 0).srcValid = false ∧ canRaise s (opLoc c0 o) = true) := by
  decide +kernel

theorem wit_xfetchFault : let f := { xf0 with ent := ent 0 - 2 ^ 160 }; let s := fop none (.xfetch f); let o := op1 none (.xfetch f)
    (findOp (getCell s c0).m 1 = some o ∧ mayAct (getCell s c0) o = true ∧ f.fault = none
      ∧ canRaise s (opLoc c0 o) = true) ∧ xfetchTiles s c0 f f.nt = .fault kBounds :=
  ⟨by decide +kernel, fault_of_faultOf (by decide +kernel) (by decide +kernel)⟩

/-- Name 0 of F bound as instance 100 to tile 0, or to no tile yet. -/
def bound (s : State) (pt : Option Nat) : State := modC s c0 (fun c =>
  let c := { setName c 0 0 (.bound 100) with chains := [{ inst := 100, ctx := 0, an := 0, pt := pt }] };
  match pt with
  | some p => setAcc c p { inst := some 100, ctx := 0, an := 0 }
  | none => c)
theorem wit_accOpen : noExc (openExcs (getCell (fprog 0x61) c0) 0 0 false 0) = true ∧ ready (fprog 0x61) lx 0x61 0x61 = true
    ∧ bit 0x61 14 = false ∧ engEnabled (getCell (fprog 0x61) c0).c 0 = true ∧ tileFree (getCell (fprog 0x61) c0).c 0 = true
    ∧ noExc (openExcs (getCell (fprog 0x4061) c0) 0 0 true 0) = true ∧ ready (fprog 0x4061) lx 0x61 0x4061 = true ∧ bit 0x4061 14 = true
    ∧ (let s := modC (fprog 0x61) c0 (fun c => { c with engEn := 0xE })
      noExc (openExcs (getCell s c0) 0 0 false 0) = true ∧ ready s lx 0x61 0x61 = true ∧ engEnabled (getCell s c0).c 0 = false) := by
  decide +kernel

theorem wit_boundNames : ∀ w ∈ [0x62, 0x66, 0x67], let s := bound (fprog w) (some 0)
    getName (getCell s c0).c 0 0 = .bound 100 ∧ ready s lx w w = true ∧ noExc (spillExcs (getCell s c0) 0 (ahead (getCell s c0) 100) 0) = true
      ∧ (ahead (getCell s c0) 100).spec.any ImgSpec.repro = false := by
  decide +kernel

/-- An OPA of slot 0 with itself, with K in s2 and the mask in s3. -/
def opaW (k mask : Nat) : Nat := 0x60 + 2 ^ 42 * k + 2 ^ 52 * mask
/-- The entry as a mask of UINT8 with one byte per 512 tiles. -/
def maskEnt : Nat := ent (2 ^ 448 * 0x0B)
def opaSt (k mask : Nat) : State :=
  let s := bound (fprog (opaW k mask)) (some 0);
  let s := modStream s lx (fun t => { t with regs := [(1, BitVec.ofNat 64 hnd), (2, 1), (3, BitVec.ofNat 64 hnd)] });
  setTdt s .cd0 0 maskEnt

theorem wit_opa : ∀ k ∈ [0, 2], ∀ m ∈ [0, 3], let w := opaW k m; let s := opaSt k m; let g := opaArgs s lx w
    ready s lx 0x60 w = true ∧ getName (getCell s c0).c 0 (fld w 13 11) = .bound 100 ∧ noExc (opaExcs (getCell s c0) 0 (ahead (getCell s c0) 100) g) = true
      ∧ g.slots.any (tcfgWaits (getCell s c0).m) = false ∧ taskSlotFree (getCell s c0).m 0 = true ∧ g.k = k / 2
      ∧ g.mask = (if m = 0 then none else some maskEnt)
      ∧ (m = 3 → (maskMissing (getCell s c0).m maskEnt g.index).isEmpty = false) := by
  decide +kernel

/-- A cached line of zeros suppresses the OPA. -/
theorem wit_opa_suppressed : let w := opaW 2 3; let s := modM (opaSt 2 3) c0 (fun m => { m with mask := [{ va := 0, data := 0 }] })
    let s := setTdt s .cd0 0 (maskEnt + 2 ^ 486); let g := opaArgs s lx w
    ready s lx 0x60 w = true ∧ g.mask = some (maskEnt + 2 ^ 486) ∧ noExc (opaExcs (getCell s c0) 0 (ahead (getCell s c0) 100) g) = true
      ∧ (maskMissing (getCell s c0).m (maskEnt + 2 ^ 486) g.index).isEmpty = true
      ∧ maskAllows (getCell s c0).m (maskEnt + 2 ^ 486) g.index = false := by
  decide +kernel

theorem wit_maskLineFill : let w := opaW 2 3
    let s := asked (modStream (opaSt 2 3) lx (fun t => { t with wait := .memoryLate })) (.maskLine 0 0)
    (getStream s lx).st = .running ∧ (getStream s lx).wait = .memoryLate ∧ wordAt s lx 0 = some w
      ∧ cellHandle s c0 (regFld (getStream s lx) (fld w 56 52) 31 0) = some maskEnt
      ∧ maskMissing (getCell s c0).m maskEnt (regFld (getStream s lx) (fld w 56 52) 63 32) = [0] ∧ maskIssued s c0 0 = true := by
  decide +kernel

theorem wit_drain : let w := 0x63; let s := bound (fprog w) (some 0); let d := drainArgs s lx w (.slot 0)
    ready s lx 0x63 w = true ∧ getName (getCell s c0).c 0 0 = .bound 100 ∧ destOf s lx (fld w 15 14) (fld w 21 16) (fld w 26 22) = some (.slot 0)
      ∧ noExc (drainExcs (getCell s c0) w d) = true ∧ drainTcfg (getCell s c0) w = false := by
  decide +kernel

/-- `floor` with the streams of `fprog`. -/
def flprog (w : Nat) : State := { fprog w with cd0 := { (fprog w).cd0 with slots := floor.cd0.slots, parts := floor.cd0.parts } }

theorem wit_red : (let w := 0x165; let s := bound (flprog w) (some 0)
      ready s lx 0x65 w = true ∧ bit w 8 = true ∧ getName (getCell s c0).c 0 0 = .bound 100 ∧ noExc (redAccExcs s c0 (ahead (getCell s c0) 100) 0) = true)
    ∧ (let w := 0x65; let s := flprog w
      ready s lx 0x65 w = true ∧ bit w 8 = false ∧ noExc (redSlotExcs s c0 0 0) = true ∧ slotsFree (getCell s c0).m 0 { reads := [0] } = true) := by
  decide +kernel
/-! ### Witnesses: element-wise instructions, engines, the drain unit, actions and registers of a cell (03, 05, 06) -/

/-- An EW of slot 0 into slot 0, by OP code; the sources of EW.FN and EW.DFN take function 0. -/
def ewW (o : Nat) : Nat := 0x64 + 2 ^ 8 * o

theorem wit_elementWise : ∀ p ∈ ewTable lx none, let w := ewW p.1; let s := fprog w; let g := ewArgs (getStream s lx) w
    let q := ewOp s lx p.1 g (.slot 0)
    let o : Op := { id := (getCell s c0).m.nextOp, stream := 1, pc := 0, inst := none, kind := .ew q.1 }
    ready s lx 0x64 w = true ∧ fld w 13 8 = p.1 ∧ destOf s lx g.dkind g.dslot g.dreg = some (.slot 0)
      ∧ heldEw s lx p.1 = none ∧ ewTcfg (getCell s c0) p.1 g = false
      ∧ noExc (ewExcs (getCell s c0) p.1 g (.slot 0)) = true ∧ ewHolds (getCell s c0) p.1 g (.slot 0) = false
      ∧ ewTurn (getCell (addOp q.2 lx none (.ew q.1)) c0) o q.1 = true ∧ ewParity p.1 g none = none := by
  decide +kernel

/-- The EW.CVT of slot 0 in flight as number 1, which the output stage holds back or not. -/
def ewFlight (s : State) : EwOp := (ewOp s lx 0 (ewArgs (getStream s lx) (ewW 0)) (.slot 0)).1
def ewAway (s : State) (held : Option Nat) : State := modM (addOp s lx none (.ew (ewFlight s))) c0 (fun m => { m with outHeld := held })

/-- A parity error in slot 0, with and without a copy in the store; an EW that does not get its turn, and one in flight that does. -/
theorem wit_elementWise_parity : (let w := ewW 0; let s := loaded (fprog w); let g := ewArgs (getStream s lx) w
      ready s lx 0x64 w = true ∧ ewParity 0 g (some 0) = some 0 ∧ (getTslot (getCell s c0).c 0).srcValid = true ∧ heldEw s lx 0 = none
        ∧ noExc (ewExcs (getCell s c0) 0 g (.slot 0)) = true ∧ ewHolds (getCell s c0) 0 g (.slot 0) = false
        ∧ portTaken (getCell s c0) = false)
    ∧ (let w := ewW 0; let s := fprog w; let g := ewArgs (getStream s lx) w; let e := ewFlight s
      let o : Op := { id := 1, stream := 1, pc := 0, inst := none, kind := .ew e }
      ewParity 0 g (some 0) = some 0 ∧ (getTslot (getCell s c0).c 0).srcValid = false ∧ canRaise s (opLoc c0 o) = true
        ∧ ewTurn (getCell (ewAway s (some 7)) c0) o e = false ∧ heldEw (ewAway s none) lx 0 = some (o, e)) := by
  decide +kernel

def ring0 : Ring := { slot := 0, len := 1, row := false, fmt := 0 }
def task0 (st : TaskSt) (step : Nat) (spill entered : Bool) : Task :=
  { eng := 4, a := { ring0 with entered := entered }, b := { ring0 with entered := entered }, k := 1, spillN := 0, cask := 0, win := 0, repro := false
    int := false, step := step, st := st, needSpill := spill }
/-- A task in flight for the name that is bound as instance 100, and engine 0 running it. -/
def tasked (t : Task) (pt : Option Nat) : State := addOp (bound (fprog 0) pt) lx (some 100) (.task t)
def opT (t : Task) : Op := { id := 1, stream := 1, pc := 0, inst := some 100, kind := .task t }
def engaged (t : Task) (f : Engine → Engine) : State := modM (tasked t (some 0)) c0 (fun m => { m with e0 := f { cur := some 1 } })

theorem wit_placement : let t := task0 .waiting 0 false false; let s := tasked t none; let o := opT t
    findOp (getCell s c0).m 1 = some o ∧ needsPlacement (getCell s c0).c o = true ∧ isHead (getCell s c0).m o = true
      ∧ opHeld (getCell s c0) o = false ∧ sbClear (getCell s c0).m o = true
      ∧ o.inst.bind (getChain (getCell s c0).c) = some { inst := 100, ctx := 0, an := 0, pt := none }
      ∧ placeEngine (getCell s c0) = some 0 ∧ engFreeTile (getCell s c0).c 0 = some 0 := by
  decide +kernel

theorem wit_taskReady : let t := task0 .waiting 0 false false; let s := tasked t (some 0)
    findOp (getCell s c0).m 1 = some (opT t) ∧ t.st = .waiting ∧ isHead (getCell s c0).m (opT t) = true
      ∧ (opTile (getCell s c0) (opT t)).isSome = true ∧ mayAct (getCell s c0) (opT t) = true
      ∧ opHeld (getCell s c0) (opT t) = false := by
  decide +kernel

theorem wit_taskChoice : let t := task0 .ready 0 false false; let s := tasked t (some 0); let x := getCell s c0
    (getEngine x.m 0).cur = none ∧ engTasks x 0 (fun t => t.st == .running) = []
      ∧ (engTasks x 0 (fun _ => true)).filter (choosable x) = [opT t]
      ∧ (chooseContext x.c.sched (getEngine x.m 0) (fun k => [opT t].any (fun o => opCtx o == k)) 0).1 = some 0
      ∧ taskOf (opT t) = some t ∧ opTile x (opT t) = some 0 ∧ opCtx (opT t) = 0 := by
  decide +kernel

/-- Tile 0 at a spill point, and a second name whose READY task waits on tile 1 of the same engine. -/
theorem wit_taskTurn : let t := task0 .running 0 false true
    let s := modC (engaged t (fun e => { e with turn := true })) c0 (fun c =>
      { setAcc (setName c 0 1 (.bound 101)) 1 { inst := some 101, ctx := 0, an := 1 } with chains := c.chains ++ [{ inst := 101, ctx := 0, an := 1, pt := some 1 }] })
    let s := addOp s lx (some 101) (.task (task0 .ready 0 false false))
    let x := getCell s c0; let o := { opT (task0 .ready 0 false false) with id := 2, inst := some 101 }
    (getEngine x.m 0).cur = some 1 ∧ (getEngine x.m 0).turn = true ∧ turnTo x 0 1 = some o ∧ opTile x o = some 1 := by
  decide +kernel

theorem wit_slotEntry : let t := task0 .running 0 false false; let s := engaged t id; let x := getCell s c0
    curTask x 0 = some (opT t, t, 0) ∧ stepping t = true
      ∧ (∀ b ∈ [false, true], let r := ringOf t b; let y := getTslot x.c (ringSlot r)
        r.entered = false ∧ r.len = 1 ∧ y.saxis = 0 ∧ y.fmt = r.fmt) := by
  decide +kernel

theorem wit_rankOneStep : let t := task0 .running 0 false true
    let s := engaged t (fun e => { e with collA := fetched (getCell (engaged t id) c0).c t.a {}, collB := fetched (getCell (engaged t id) c0).c t.b {} })
    let x := getCell s c0
    curTask x 0 = some (opT t, t, 0) ∧ stepping t = true ∧ t.a.entered = true ∧ t.b.entered = true
      ∧ (getEngine x.m 0).collA.retry = none ∧ (getEngine x.m 0).collB.retry = none ∧ (getEngine x.m 0).turn = false
      ∧ latchHit x (getEngine x.m 0) t = false ∧ tagOf (getEngine x.m 0).collA.cur = some (needGroup t.a) ∧ tagOf (getEngine x.m 0).collB.cur = some (needGroup t.b) := by
  decide +kernel

theorem wit_groupFetch : ∀ v ∈ [false, true], let t := task0 .running 0 false true
    let s := if v then loaded (engaged t id) else engaged t id; let x := getCell s c0
    curTask x 0 = some (opT t, t, 0) ∧ stepping t = true ∧ canRaise s (opLoc c0 (opT t)) = true
      ∧ (∀ b ∈ [false, true], (ringOf t b).entered = true ∧ (collOf (getEngine x.m 0) b).retry = none
        ∧ fetchGroup x.c (ringOf t b) (collOf (getEngine x.m 0) b) = some (0, 0) ∧ (getTslot x.c 0).srcValid = v) := by
  decide +kernel

/-- A retry of an engine that has no task, and of one whose task goes on. -/
theorem wit_parityRetry : ∀ b ∈ [false, true], let t := task0 .running 0 false true
    let s := loaded (engaged t (fun e => { e with cur := if b then some 1 else none, collA := { retry := some 0 } })); let x := getCell s c0
    (collOf (getEngine x.m 0) false).retry = some 0 ∧ portTaken x = false ∧ (getTslot x.c 0).srcValid = true
      ∧ curTask (getCell (parityRetry s c0 0) c0) 0 = (if b then some (opT t, t, 0) else none) := by
  decide +kernel

theorem wit_spillAndLast :
    (let t := task0 .running 1 true true; let x := getCell (engaged t id) c0
      (engTasks x 0 (fun t => t.st == .running && t.needSpill)).find? (fun o => (opTile x o).any (inputFree x)) = some (opT t) ∧ taskOf (opT t) = some t ∧ opTile x (opT t) = some 0)
    ∧ (let t := task0 .running 1 false true; let x := getCell (engaged t id) c0
      (engTasks x 0 (fun t => t.st == .running && t.step == t.k && !t.needSpill)).head? = some (opT t)) := by
  decide +kernel

/-- A DRAIN into slot 0 and a RED of the name in flight. -/
def dr0 (taken : Option Taken) : DrainOp :=
  { dest := .slot 0, fmt := 0, rnd := 0, sat := false, fn := 0, fmode := 0, zslot := 0, cfg := slot0, zcfg := slot0, taken := taken }
def taken0 : Taken := { rows := [], image := false, int := false, win := 0, ovf := false, pt := 0 }
def draining (s : State) (k : OpKind) : State := addOp (bound s (some 0)) lx (some 100) k
def opK (k : OpKind) : Op := { id := 1, stream := 1, pc := 0, inst := some 100, kind := k }

theorem wit_drainRead : ∀ k ∈ [OpKind.drain (dr0 none), .redAcc 0 0 0 none], let x := getCell (draining (fprog 0) k) c0
    findOp x.m 1 = some (opK k) ∧ isHead x.m (opK k) = true ∧ opTile x (opK k) = some 0 ∧ inputFree x 0 = true ∧ (opK k).bad = false := by
  decide +kernel

theorem wit_drainRead_parity : let k := OpKind.drain { dr0 none with fmode := 2 }; let x := getCell (loaded (draining (fprog 0) k)) c0
    findOp x.m 1 = some (opK k) ∧ isHead x.m (opK k) = true ∧ opTile x (opK k) = some 0 ∧ inputFree x 0 = true ∧ mayAct x (opK k) = true
      ∧ (getTslot x.c 0).srcValid = true ∧ portTaken x = false := by
  decide +kernel

theorem wit_drainResult :
    (let k := OpKind.drain (dr0 (some taken0)); let x := getCell (draining (fprog 0) k) c0
      findOp x.m 1 = some (opK k) ∧ mayAct x (opK k) = true ∧ x.m.outHeld = none ∧ (toStore (dr0 none).dest && x.c.grant.isSome) = false)
    ∧ (let e := { ewFlight (fprog 0) with out := some ([(0, [1])], false) }; let k := OpKind.ew e; let s := addOp (fprog 0) lx none k
      let o : Op := { id := 1, stream := 1, pc := 0, inst := none, kind := k }
      findOp (getCell s c0).m 1 = some o ∧ e.out = some ([(0, [1])], false) ∧ (getCell s c0).c.grant = none)
    ∧ (let k := OpKind.redAcc 0 0 0 (some taken0); let s := draining (flprog 0) k; let x := getCell s c0
      findOp x.m 1 = some (opK k) ∧ (firstRed x.m).any (fun f => f.id == 1) = true ∧ cellRedRoute s c0 = some (0, 0)
        ∧ (getRoute (getDie s .cd0) 0 0).outq = []) := by
  decide +kernel

/-! Actions and registers -/

/-- The stream `la` in a state. -/
def inState (f : Stream → Stream) : State := modStream (fprog 0) la f

theorem wit_streamActions :
    (∀ st ∈ [StreamState.idle, .halted, .running, .exception, .faulted, .stopped], let s := inState (fun t => { t with st := st })
      reachesCell s 0 c0 = true ∧ cellHeld s c0 = false ∧ la.stream < 6 ∧ (getStream s la).st = st ∧ (getStream s la).excOp = none
        ∧ (getStream s la).excAt ≠ some (beatNow s la))
    ∧ (let s := inState (fun t => { t with st := .exception, excOp := some 1, excAt := some 0 })
      reachesCell s 0 c0 = true ∧ cellHeld s c0 = false ∧ (getStream s la).st = .exception ∧ (getStream s la).excOp = some 1
        ∧ (getStream s la).excAt = some (beatNow s la)) := by
  decide +kernel

theorem wit_faultResolution : let s := fop none (.transfer { tr false 0 with stopped := some 2 })
    reachesCell s 0 c0 = true ∧ cellHeld s c0 = false ∧ la.stream < 6 ∧ isExec la.stream = false ∧ stoppedOf (getCell s c0).m 0 ≠ [] := by
  decide +kernel

theorem wit_cellRegisterWrites :
    (∀ st ∈ [StreamState.idle, .halted, .running], let s := inState (fun t => { t with st := st })
      reachesCell s 0 c0 = true ∧ cellHeld s c0 = false ∧ (getStream s la).st = st
        ∧ tableUsed (getCell s c0).m false = false ∧ tableUsed (getCell s c0).m true = false)
    ∧ (∀ b ∈ [false, true], let s := draining (fprog 0) (.drain { dr0 (some taken0) with fn := 8, fmode := if b then 2 else 1 })
      let t := holdAccess s c0 { agent := 0, write := true, off := 0x10, mask := 0, val := 0 }
      reachesCell s 0 c0 = true ∧ tableUsed (getCell s c0).m b = true ∧ reachesCell t 0 c0 = true ∧ cellHeld t c0 = true)
    ∧ (let r := maskWrite full 0 .cd0 false 1 (8 / 8 * 8) (regW 8 8 5)
      reachesDie full 0 .cd0 = true ∧ regSized 8 8 = true ∧ r.2 = true) := by
  decide +kernel

theorem wit_grants :
    (let f := { xf0 with asked := 1, got := 1 }; let s := fop none (.xfetch f); let x := getCell s c0; let o := op1 none (.xfetch f)
      grantTurn s .cd0 0 (.xfetch 0 1) = true ∧ findOp x.m 1 = some o ∧ ∃ ts, xfetchTiles s c0 f f.nt = .ok ts)
    ∧ (let g : Grant := { kind := 0, off := 0, data := [5], op := some 1, route := none }
      let s := modGate (modC (fprog 0) c0 (fun c => { c with grant := some g })) .cd0 0 (fun g => { g with grantSite := some 0 })
      (getGate (getDie s .cd0) 0).grantSite = some 0 ∧ (getCell s c0).c.grant = some g)
    ∧ (getCell (modC full c0 (fun c => { c with gapRun := true })) c0).c.gapRun = true :=
  ⟨⟨by decide +kernel, by decide +kernel, ok_of_isOkR (by decide +kernel)⟩, by decide +kernel, by decide +kernel⟩

theorem wit_sectorControllers : let s := modDie full .cd0 (fun x => { x with clk := { x.clk with tb := 100000 } })
    (getDie s .cd0).clk.running = true ∧ s.hd.sec.applying ≠ dieNum .cd0 + 1 ∧ (getDie s .cd0).fuse.failed.toNat.testBit 15 = false
      ∧ tabGet 0 (getDie s .cd0).fuse.lastAnswer 15 + 100000 ≤ (getDie s .cd0).clk.tb := by
  decide +kernel
/-! ### Witnesses: the Floor and the reduction links (07, 10) -/

def route (n : Nat) (x : Route) : State := modRoute floor .cd0 0 n (fun _ => x)
def tile0 (n : Nat) : Item := .tile 0 0 (List.replicate n 0)

theorem wit_lineSend :
    (∀ sent ∈ [0, 1], let s := route 2 { credits := 2, outq := [tile0 512], sentLines := sent }
      let x := getRoute (getDie s .cd0) 0 2
      rtAt s .cd0 0 2 = some (at_ 2) ∧ sourcesStopped s (at_ 2) = false ∧ siteLost s (at_ 2) = false ∧ redReady s (at_ 2) 2 = none
        ∧ x.outq = [tile0 512] ∧ lineReady s (at_ 2) 2 = true ∧ linkTurn s (at_ 2) 2 = true ∧ x.sentLines = sent ∧ itemLines (tile0 512) = 2)
    ∧ (let s := route 1 { credits := 1, outq := [.token 0 0] }; let x := getRoute (getDie s .cd0) 0 1
      rtAt s .cd0 0 1 = some (at_ 1) ∧ sourcesStopped s (at_ 1) = false ∧ siteLost s (at_ 1) = false ∧ redReady s (at_ 1) 1 = none
        ∧ x.outq = [.token 0 0] ∧ lineReady s (at_ 1) 1 = true ∧ linkTurn s (at_ 1) 1 = true ∧ x.sentLines = 0) := by
  decide +kernel

theorem wit_itemPresent :
    (∀ p ∈ [(2, 2, true), (1, 1, true), (9, 1, false)], let i : Item := if p.1 = 2 then tile0 1 else .token 0 0
      let s := route p.1 { flight := [i], transit := [(routeLinks (at_ p.2.1) p.1).length] }
      let k := (dstOf (at_ p.2.1) p.1).kind
      rtAt s .cd0 0 p.1 = some (at_ p.2.1) ∧ (getRoute (getDie s .cd0) 0 p.1).flight = [i]
        ∧ itemArrived (at_ p.2.1) p.1 (getRoute (getDie s .cd0) 0 p.1) = true ∧ k ≠ 9 ∧ k ≠ 10
        ∧ (p.1 ≠ 2 → (rtGating (at_ p.2.1).bill p.1 || k == 11) = p.2.2))
    ∧ (let s := route 2 { owed := 1 }; rtAt s .cd0 0 2 = some (at_ 2) ∧ (getRoute (getDie s .cd0) 0 2).owed ≠ 0)
    ∧ (∀ v ∈ [0, 254], let s := modC floor c0 (fun c => { setSem c 3 v with semWait := [(2, 3)] }); let k := (getCell s c0).c
      rtAt s .cd0 0 2 = some (at_ 2) ∧ (dstOf (at_ 2) 2).kind = 1 ∧ (dstOf (at_ 2) 2).place = 0
        ∧ k.semWait.find? (fun p => p.1 == 2) = some (2, 3) ∧ getSem k 3 < 255) := by
  decide +kernel

/-- A delivery grant of one line to cell 0. -/
theorem wit_grantDelivery : let s := route 2 { inbox := [tile0 256] }
    let s := modGate s .cd0 0 (fun g => { g with reqs := [.delivery 0 2] })
    grantTurn s .cd0 0 (.delivery 0 2) = true ∧ rtAt s .cd0 0 2 = some (at_ 2)
      ∧ routeHead s (dstOf (at_ 2) 2) 2 = some (tile0 256)
      ∧ deliverOff (at_ 2).bill 2 (getRoute (getDie s .cd0) 0 2) 0 (List.replicate 256 0) + 256 ≤ storeSize := by
  decide +kernel

def isOkB {α : Type} : BeginR α → Bool
  | .ok _ => true
  | _ => false
theorem ok_of_isOkB {α : Type} {r : BeginR α} (h : isOkB r = true) : ∃ a, r = .ok a := by
  cases r with
  | ok a => exact ⟨a, rfl⟩
  | wait => simp [isOkB] at h
  | ask q => simp [isOkB] at h
  | halt a b c => simp [isOkB] at h

/-- Station `n` of the Bill in a state, with an item in front of it on a route. -/
def stated (n : Nat) (x : Station) : State := modStation floor .cd0 0 n 0 (fun _ => x)
def fed (n r : Nat) (x : Station) : State :=
  modRoute (stated n { x with order := [r] }) .cd0 0 r (fun y => { y with inbox := [.tile 0 0 (List.replicate 4 0)] })

/-- A drain stage begins by itself, a cell context on its token; a drain stage that has handled its tile ends. -/
theorem wit_microBatches :
    ((stAt floor .cd0 0 3 = some (at_ 3) ∧ mayBegin floor (at_ 3) 0 = true ∧ listFetched floor (at_ 3) = true) ∧ ∃ c, captureFor floor (at_ 3) 0 = .ok c)
    ∧ (let s := route 1 { inbox := [.token 0 0] }
      (stAt s .cd0 0 0 = some (at_ 0) ∧ mayBegin s (at_ 0) 0 = true ∧ listFetched s (at_ 0) = true) ∧ ∃ c, captureFor s (at_ 0) 0 = .ok c)
    ∧ (let s := stated 3 { begun := 1, count := 1 }
      stAt s .cd0 0 3 = some (at_ 3) ∧ (stGet s (at_ 3) 0).begun = (stGet s (at_ 3) 0).ended + 1 ∧ stHalted s (at_ 3) = false
        ∧ workDone s (at_ 3) 0 = true) :=
  ⟨⟨by decide +kernel, ok_of_isOkB (by decide +kernel)⟩, ⟨by decide +kernel, ok_of_isOkB (by decide +kernel)⟩, by decide +kernel⟩

theorem wit_drainStage : let s := fed 3 3 { begun := 1, ent := ent 0, asked := 1, got := 1 }; let a := at_ 3
    (stAt s .cd0 0 3 = some a ∧ stHalted s a = false ∧ (stGet s a 0).begun = (stGet s a 0).ended + 1 ∧ stepFetched a (stGet s a 0) = true ∧ a.kind = 4 ∧ (stGet s a 0).count < a.p 4 4
      ∧ nextItem s a = some (3, 0, List.replicate 4 0) ∧ itemLines (.tile 0 0 (List.replicate 4 0)) = ceilDiv (tileBytes (ent 0)) 256
      ∧ eReadOnly (ent 0) = false)
      ∧ ∃ s1, writeTile s .cd0 (stCaches s a) a.part (ent 0) (writeBase (ent 0)) (coordPlus (a.p 8 8) 0) (List.replicate 4 0) = .ok s1 :=
  ⟨by decide +kernel, ok_of_isOkR (by decide +kernel)⟩

theorem wit_relay : let s := fed 6 4 { begun := 1, ent := ent 0, work := [{}], asked := 1, got := 1 }; let a := at_ 6
    (stAt s .cd0 0 6 = some a ∧ stHalted s a = false ∧ (stGet s a 0).begun = (stGet s a 0).ended + 1 ∧ stepFetched a (stGet s a 0) = true ∧ a.kind = 7 ∧ (stGet s a 0).work = [{}] ∧ nextItem s a = some (4, 0, List.replicate 4 0)
      ∧ ent 0 ≠ 0 ∧ eFmt (ent 0) = wireFmt 0 ∧ eReadOnly (ent 0) = false ∧ bit (0 : W64).toNat 30 = false)
      ∧ ∃ s1, writeTile s .cd0 (stCaches s a) a.part (ent 0) (writeBase (ent 0)) 0 (List.replicate 4 0) = .ok s1 :=
  ⟨by decide +kernel, ok_of_isOkR (by decide +kernel)⟩

theorem wit_schedule : let w : Work := { ent := ent 0 }; let s := stated 2 { begun := 1, work := [w], asked := 1, got := 1 }; let a := at_ 2
    (stAt s .cd0 0 2 = some a ∧ stHalted s a = false ∧ (stGet s a 0).begun = (stGet s a 0).ended + 1 ∧ stepFetched a (stGet s a 0) = true ∧ a.kind = 3 ∧ (stGet s a 0).work = [w] ∧ portRoute a 0 0 = some 2)
      ∧ ∃ bs, readTile s .cd0 (stCaches s a) a.part (ent 0) 0 0 = .ok bs :=
  ⟨by decide +kernel, ok_of_isOkR (by decide +kernel)⟩

theorem some_ok {α β : Type} {r : Option (α × MemR β)} (h : r.any (fun p => isOkR p.2) = true) : ∃ s a, r = some (s, .ok a) := by
  cases r with
  | none => simp at h
  | some x => obtain ⟨a, ha⟩ := ok_of_isOkR (by simpa using h); exact ⟨x.1, a, by rw [← ha]⟩

theorem wit_mover : let s := stated 5 { begun := 1, ents := [ent 0], asked := 8, got := 8 }; let a := at_ 5
    (stAt s .cd0 0 5 = some a ∧ stHalted s a = false ∧ (stGet s a 0).begun = (stGet s a 0).ended + 1 ∧ stepFetched a (stGet s a 0) = true
      ∧ a.kind = 6 ∧ (stGet s a 0).count < mvNblk a ∧ mvOutOfOrder s a 0 = false)
      ∧ ∃ s1 u, moverStep s a (stGet s a 0) 0 = some (s1, .ok u) :=
  ⟨by decide +kernel, some_ok (by decide +kernel)⟩

/-- Link 0 with a place for a tag, and an item of a tag in front of it. -/
def link (ps : List Place) (tag : Nat) : State :=
  modLink (modRoute floor .cd0 0 0 (fun y => { y with inbox := [.tile (BitVec.ofNat 64 tag) 0 []] })) .cd0 0 (fun k => { k with places := ps })
def place0 : Place := { tag := 0, fmt := 0, win := 0, hdr := 0 }

/-- Tag 1 has the role that takes no item, and tag 0 the one that sends both results. -/
theorem wit_judge : ∀ p ∈ [([], 0, Judge.opens), ([place0], 0, .fold), ([{ place0 with counts := [(0, 1)] }], 0, .stale), ([], 1, .misrouted)],
    let s := link p.1 p.2.1; let a := at_ 4
    rtAt s .cd0 0 0 = some (at_ 0) ∧ dstOf (at_ 0) 0 = a ∧ a.kind = 5 ∧ routeHead s a 0 = some (.tile (BitVec.ofNat 64 p.2.1) 0 [])
      ∧ judgeItem a (getLink (getDie s .cd0) a.place) 0 p.2.1 = p.2.2
      ∧ (findPlace (getLink (getDie s .cd0) a.place) p.2.1).any (overdue a (getLink (getDie s .cd0) a.place) (timeOf s (some .cd0))) = false := by
  decide +kernel

/-- A bucket that is past its limit. -/
theorem wit_judge_late : let s := modDie (link [place0] 0) .cd0 (fun x => { x with clk := { x.clk with tb := 1000001 } }); let a := at_ 4
    let k := getLink (getDie s .cd0) a.place
    rtAt s .cd0 0 0 = some (at_ 0) ∧ judgeItem a k 0 0 = .fold ∧ (findPlace k 0).any (overdue a k (timeOf s (some .cd0))) = true := by
  decide +kernel

theorem wit_fold : let p := { place0 with waiting := [(0, 0, [])] }; let s := link [p] 0; let a := at_ 4
    stAt s .cd0 0 4 = some a ∧ a.kind = 5 ∧ (getLink (getDie s .cd0) 0).places.find? (fun y => (nextFold a y).isSome && !overdue a (getLink (getDie s .cd0) 0) (timeOf s (some .cd0)) y) = some p
      ∧ nextFold a p = some (0, 0, []) := by
  decide +kernel

theorem wit_emit :
    (let p := { place0 with folded := [(0, 1)] }; let s := link [p] 0; let a := at_ 4
      sourcesStopped s a = false ∧ findPlace (getLink (getDie s .cd0) 0) 0 = some p ∧ p.emitted = false ∧ bucketFull a p = true)
    ∧ (let s := modDie (link [place0] 0) .cd0 (fun x => { x with clk := { x.clk with tb := 1000000 } }); let k := getLink (getDie s .cd0) 0
      findPlace k 0 = some place0 ∧ stationAt s .cd0 5 0 = some (at_ 4) ∧ k.tmo ≠ 0 ∧ place0.emitted = false
        ∧ bucketFull (at_ 4) place0 = false ∧ lastInTime (at_ 4) k place0 = false ∧ limitAt k place0 ≤ timeOf s (some .cd0))
    ∧ reachesDie floor 0 .cd0 = true := by
  decide +kernel
/-! ### Witnesses: Bills, queues, commands and functions (07, 08, 09, 15) -/

/-- A command word of an opcode with fields, each given by its byte offset. -/
def cw (op : Nat) (fs : List (Nat × Nat)) : Nat := fs.foldl (fun w p => w + 2 ^ (8 * p.1) * p.2) op
def started (w : Nat) (p : CmdPhase) : Started := { cseq := 5, word := w, phase := p }
/-- The same with its gate transfers there. -/
def started1 (w : Nat) : Started := { started w .fresh with asked := 1, got := 1 }
/-- Queue 0 of CD0 ON with a started command. -/
def cmdIn (s : State) (w : Nat) : State := modQueue s .cd0 0 (fun x => { x with fn := { en := true, st := .on }, started := [started w .fresh] })
def cref : CmdRef := { q := 0, cseq := 5 }
/-- Changes the slots and partition 1 of CD0. -/
def withSlots (s : State) (sl : Tab BillSlot) (p : PartDie) (ls : List Load) : State :=
  modDie s .cd0 (fun x => { x with slots := sl, parts := [(1, { p with ptEn := true, ptRoot := 0x10 })], loads := ls })

def okIs (b : List Byte) : MemR (List Byte) → Bool
  | .ok a => a == b
  | _ => false
theorem eq_of_okIs {b : List Byte} {r : MemR (List Byte)} (h : okIs b r = true) : r = .ok b := by
  cases r with
  | ok a => simp only [okIs, beq_iff_eq] at h; rw [h]
  | fault k => simp [okIs] at h
  | ask q => simp [okIs] at h

theorem wit_billLoadAndSelect :
    (∀ st ∈ [BslotSt.empty, .loaded], let w := cw 0x10 [(0x10, 1)]; let s := cmdIn (withSlots full [(1, { st := st })] {} []) w
      freshCmd s .cd0 0 5 0x10 = some (started w .fresh) ∧ cmdF w 0x10 1 = 1 ∧ ownerSlot s .cd0 1 = some (queuePart s .cd0 0)
        ∧ (getSlot (getDie s .cd0) 1).st = st ∧ slotNamed s .cd0 1 1 = false)
    ∧ (let w := cw 0x12 [(0x10, 1)]; let s := cmdIn (withSlots full [(1, { st := .loaded, bill := bill0 })] {} []) w
      let s1 := waitCmd (activatePart s 1) .cd0 cref
      freshCmd s .cd0 0 5 0x12 = some (started w .fresh) ∧ cmdF w 0x10 1 = 1 ∧ ownerSlot s .cd0 1 = some (queuePart s .cd0 0)
        ∧ ownerSlot s1 .cd0 1 = some 1 ∧ (getSlot (getDie s1 .cd0) 1).st = .loaded ∧ (getPart (getDie s1 .cd0) 1).sw = none
        ∧ (getPart (getDie s1 .cd0) 1).held = none)
    ∧ (let x := getPart (getDie (withSlots full [] { held := some { target := some 1, abort := false, cmd := cref } } []) .cd0) 1
      x.sw = none ∧ x.held = some { target := some 1, abort := false, cmd := cref }) := by
  decide +kernel

/-- A load of the small Bill at 0x20000 into slot 1. -/
def load1 (running : Bool) : Load := { slot := 1, part := 1, va := 0x20000, cmd := cref, running := running, asked := 1, got := 1 }
def loading (running : Bool) : State :=
  { withSlots full [(1, { st := .loading })] {} [load1 running] with hbm := tabWrite 0 full.hbm 0x20000 bill0 }

theorem wit_billLoadEnd : (getDie (loading false) .cd0).loads = [load1 false] ∧ (getDie (loading true) .cd0).loads = [load1 true]
    ∧ readBill (loading true) .cd0 1 0x20000 = .ok bill0 ∧ billStatus (loading true) .cd0 1 bill0 = 0
    ∧ loadFetched (loading true) .cd0 (load1 true) = true
    ∧ (let s1 := modSlot (doneCmd (modDie (dropAnswers (loading true) .cd0) .cd0 (fun x => { x with loads := x.loads.tail })) .cd0 cref 0 (bLength bill0))
        .cd0 1 (fun _ => heldBill bill0)
      selectWaiting ((billStations s1 .cd0 1 1).foldl placeImages s1) .cd0 1 1 = none) :=
  ⟨by decide +kernel, by decide +kernel, eq_of_okIs (by decide +kernel), by decide +kernel, by decide +kernel, by decide +kernel⟩

/-- A switch from slot 0 to slot 1 in a phase. -/
def sw0 (phase : Nat) : Switch := { sel := { target := some 1, abort := false, cmd := cref }, out := some 0, phase := phase }
def switching0 (phase : Nat) : State :=
  withSlots full [(0, { st := .leaving, bill := bill }), (1, { st := .loaded, bill := bill0 })] { active := some 0, sw := some (sw0 phase) } []

theorem wit_switchPhases :
    (∀ n ∈ [1, 2, 3, 4, 5, 6], (getPart (getDie (switching0 n) .cd0) 1).sw = some (sw0 n) ∧ (sw0 n).sel.target = some 1 ∧ (sw0 n).out = some 0)
    ∧ quiescent (switching0 1) .cd0 0 = true ∧ routesEmpty (switching0 2) .cd0 0 = true
    ∧ incomingStatus (closeBill (switching0 2) .cd0 1 0 false) .cd0 1 (some 1) = none := by
  decide +kernel

theorem wit_billUnload :
    (∀ st ∈ [BslotSt.loaded, .empty, .active], let w := cw 0x11 [(0x10, 1)]; let s := cmdIn (withSlots full [(1, { st := st })] {} []) w
      freshCmd s .cd0 0 5 0x11 = some (started w .fresh) ∧ cmdF w 0x10 1 = 1 ∧ ownerSlot s .cd0 1 = some (queuePart s .cd0 0)
        ∧ (getSlot (getDie s .cd0) 1).st = st ∧ slotNamed s .cd0 1 1 = false)
    ∧ (let w := cw 0x11 [(0x10, 1)]
      let s := cmdIn (withSlots full [(1, { st := .loaded })] { held := some { target := some 1, abort := false, cmd := cref } } []) w
      freshCmd s .cd0 0 5 0x11 = some (started w .fresh) ∧ (getSlot (getDie s .cd0) 1).st = .loaded ∧ slotNamed s .cd0 1 1 = true) := by
  decide +kernel

/-! Queues -/

def queued (f : Queue → Queue) : State := modQueue floor .cd0 0 (fun x => f { x with fn := { en := true, st := .on } })

theorem wit_queueWrites :
    (∀ n ∈ [1, 512], let s := queued (fun x => { x with free := n }); let x := getQueue (getDie s .cd0) 0
      reachesQueue s 0 .cd0 0 = true ∧ x.fn.st = .on ∧ x.halted = false ∧ x.free ≠ 0)
    ∧ (let s := queued (fun x => { x with halted := true }); reachesQueue s 0 .cd0 0 = true ∧ (getQueue (getDie s .cd0) 0).halted = true)
    ∧ (let s := modQueue full .cd0 0 (fun x => { x with ringBase := 1 }); let s1 := modQueue s .cd0 0 (fun x => { x with irqEn := false })
      reachesQueue s 0 .cd0 0 = true ∧ (getQueue (getDie s .cd0) 0).fn.st = .off ∧ queueConfigured s .cd0 0 false = true
        ∧ queueConfigured s1 .cd0 0 false = true ∧ (getQueue (getDie s1 .cd0) 0).fn = (getQueue (getDie s .cd0) 0).fn) := by
  decide +kernel

theorem wit_commandStart :
    (∀ w ∈ [0, 1, cw 0x22 [(0x14, 1)]], let s := loadCredits (queued (fun x => { x with entries := [w] })) .cd0 0
      (getQueue (getDie s .cd0) 0).entries = [w] ∧ mayStart s .cd0 0 w = true ∧ cmdValid w = true ∧ fetchStation s .cd0 0 = some (at_ 1))
    ∧ (let c := started 0 (.done 0 0); let s := queued (fun x => { x with started := [c] })
      findStarted (getQueue (getDie s .cd0) 0) 5 = some c ∧ c.phase = .done 0 0)
    ∧ (let s := cmdIn floor 1; freshCmd s .cd0 0 5 0x01 = some (started 1 .fresh) ∧ fetchStation s .cd0 0 = some (at_ 1)) := by
  decide +kernel

/-! Descriptors and tensors -/

/-- An image of a descriptor at VA 0x100. -/
def imaged64 : State := { full with hbm := tabWrite 0 full.hbm 0x100 (leBytes 64 (ent 0)) }
def dw (op i : Nat) : Nat := cw op [(0x10, i), (0x14, 1), (0x18, 0x100)]

theorem wit_descriptors : ∀ p ∈ [(0x20, 1), (0x21, 0), (0x22, 0)], let w := dw p.1 p.2
    let s := modQueue (cmdIn imaged64 w) .cd0 0 (fun x => { x with started := [started1 w] })
    let s1 := waitCmd s .cd0 cref; let old := tdtEntry (getDie s1 .cd0) p.2
    openCmd s .cd0 0 5 p.1 = some (started1 w) ∧ (entryTransfers s1 .cd0 0 1 (started1 w) 0).length ≤ cmdGot s1 .cd0 0 5 ∧ cmdF w 0x10 4 = p.2 ∧ cmdF w 0x14 4 = 1 ∧ cmdF w 0x20 8 = 0
      ∧ inTdtRange s .cd0 (queuePart s .cd0 0) p.2 1 = true ∧ eValid old = (p.2 == 0) ∧ committing s1 .cd0 (eGroup (ent 0)) = false
      ∧ committing s1 .cd0 (eGroup old) = false ∧ imageStatus s1 .cd0 1 (ent 0) true = 0 ∧ imageStatus s1 .cd0 1 (ent 0) false = 0
      ∧ okIs (leBytes 64 (ent 0)) (readVA s1 .cd0 (queueCaches s1 .cd0 0) 1 (cmdF w 0x18 8) 64) = true
      ∧ leNat (leBytes 64 (ent 0)) = ent 0 ∧ (p.1 = 0x21 → eGen (ent 0) = eGen old) := by
  decide +kernel

/-- A command whose transfers are not there yet. -/
theorem wit_descriptors_ask : ∀ p ∈ [(0x20, 1), (0x21, 0)], let w := dw p.1 p.2; let s := cmdIn imaged64 w
    openCmd s .cd0 0 5 p.1 = some (started w .fresh) ∧ inTdtRange s .cd0 (queuePart s .cd0 0) p.2 1 = true
      ∧ ¬(entryTransfers (waitCmd s .cd0 cref) .cd0 0 1 (started w .fresh) 0).length ≤ cmdGot (waitCmd s .cd0 cref) .cd0 0 5 := by
  decide +kernel

/-- DESC_FREE of an entry that is not VALID. -/
theorem wit_descFree : let w := dw 0x22 1; let s := cmdIn imaged64 w
    openCmd s .cd0 0 5 0x22 = some (started w .fresh) ∧ eValid (tdtEntry (getDie (waitCmd s .cd0 cref) .cd0) 1) = false
      ∧ inTdtRange s .cd0 (queuePart s .cd0 0) 1 1 = true := by
  decide +kernel

/-- A command whose handle is captured, and queue 0 with it. -/
def heldStarted (w : Nat) : Started := { started w .wait with ent := ent 0, asked := 2, got := 2 }
def heldCmd (s : State) (w : Nat) : State :=
  modQueue s .cd0 0 (fun x => { x with fn := { en := true, st := .on }, started := [heldStarted w] })

theorem wit_copy : let w := cw 0x30 [(0x10, hnd), (0x18, 0x100), (0x20, 64)];
    (let s := cmdIn imaged64 w;
      openCmd s .cd0 0 5 0x30 = some (started w .fresh) ∧ handleEnt s .cd0 (queuePart s .cd0 0) (cmdF w 0x10 4) = some (ent 0)
        ∧ cmdF w 0x15 1 = 0 ∧ captureWaits s .cd0 (ent 0) = false ∧ cmdF w 0x14 1 = 0)
    ∧ (let s := heldCmd imaged64 w; let c := heldStarted w;
      openCmd s .cd0 0 5 0x30 = some c ∧ (copyTransfers s .cd0 0 c).length ≤ c.got ∧ eDigest (ent 0) = false
        ∧ readVA s .cd0 (queueCaches s .cd0 0) 1 (cmdF w 0x18 8) (cmdF w 0x20 8) = .ok (leBytes 64 (ent 0))
        ∧ ∃ s3, writeVA s .cd0 (queueCaches s .cd0 0) 1 (versBase (ent 0) false + cmdF w 0x28 8) (leBytes 64 (ent 0)) = .ok s3) :=
  ⟨by decide +kernel, by decide +kernel, by decide +kernel, by decide +kernel, eq_of_okIs (by decide +kernel), ok_of_isOkR (by decide +kernel)⟩

theorem wit_versionWait : let w := cw 0x50 [(0x10, hnd)];
    (let s := cmdIn full w;
      openCmd s .cd0 0 5 0x50 = some (started w .fresh) ∧ handleEnt s .cd0 (queuePart s .cd0 0) (cmdF w 0x10 4) = some (ent 0)
        ∧ versionReached (eVcount (ent 0)) (cmdF w 0x14 4) = true)
    ∧ (let s := heldCmd full w; let c := heldStarted w;
      openCmd s .cd0 0 5 0x50 = some c ∧ versionReached (capturedVcount s .cd0 c) (cmdF w 0x14 4) = true) := by
  decide +kernel

theorem wit_streamCtl : let w := cw 0x60 [(0x13, 1)]; let s := cmdIn full w
    freshCmd s .cd0 0 5 0x60 = some (started w .fresh) ∧ sitePresent (getDie s .cd0) (cmdF w 0x10 2) = true
      ∧ ownerCell s c0 = some (queuePart s .cd0 0) ∧ cmdF w 0x13 1 ≤ 5 ∧ (streamAct s la 1).isSome = true := by
  decide +kernel

/-! Step commits -/

def commit0 (abandon : Bool) (barrier : Nat) (voted mb : Option Nat) : Commit :=
  { cmd := cref, abandon := abandon, barrier := barrier, settle := [], voted := voted, mb := mb }
def committing0 (k : Commit) (verdicts : List (Bool × Nat)) : State :=
  modStation (modEpoch floor .cd0 0 (fun e => { e with commit := some k })) .cd0 0 8 0 (fun x =>
    { x with ended := verdicts.length, begun := verdicts.length, verdicts := verdicts })

theorem wit_stepBegin : ∀ op ∈ [0x40, 0x41], let s := cmdIn full op
    freshCmd s .cd0 0 5 op = some (started op .fresh) ∧ ownerEpoch s .cd0 (cmdF op 0x10 1) = some (queuePart s .cd0 0)
      ∧ committing s .cd0 (cmdF op 0x10 1) = false := by
  decide +kernel

theorem wit_stepSettle : ∀ p ∈ [(true, 0xFF), (false, 0xFF), (false, 0)], let k := commit0 p.1 p.2 none none; let s := committing0 k []
    (getEpoch (getDie s .cd0) 0).commit = some k ∧ ownerEpoch s .cd0 0 = some 1 ∧ k.voted = none
      ∧ k.settle.any (fun w => (groupWriters s .cd0 0).contains w) = false ∧ (getPart (getDie s .cd0) 1).stepNf = false
      ∧ (p.2 = 0 → barrierAt s .cd0 1 k.barrier = some (at_ 8)) := by
  decide +kernel

theorem wit_stepVerdict :
    (∀ v ∈ [false, true], let k := commit0 false 0 (some 0) (some 0); let s := committing0 k [(v, 0)]
      (getEpoch (getDie s .cd0) 0).commit = some k ∧ ownerEpoch s .cd0 0 = some 1 ∧ timelyVerdict s .cd0 1 k = some v)
    ∧ (let k := commit0 false 0 (some 0) (some 0)
      let s := modDie (committing0 k [(true, 1000001)]) .cd0 (fun x => { x with clk := { x.clk with tb := 1000001 } })
      let tmo := (getPart (getDie s .cd0) 1).barTmo.toNat
      (getEpoch (getDie s .cd0) 0).commit = some k ∧ ownerEpoch s .cd0 0 = some 1 ∧ k.voted = some 0 ∧ tmo ≠ 0 ∧ timelyVerdict s .cd0 1 k = none
        ∧ 0 + 1000 * tmo ≤ timeOf s (some .cd0)) := by
  decide +kernel

/-! Functions -/

def fnIn (st : Fstate) : Func := { en := true, st := st }
def chained (f : Func) : State := modDie full .cd0 (fun x => { x with chain := { x.chain with id := 5, mac := [(0, 1)], fns := [(0, f)] } })
def flashIn (f : HdFlash → HdFlash) : State := { full with hd := { full.hd with flash := f full.hd.flash } }

theorem wit_enables :
    (let s := modFn full c0 (fun _ => {}); reachesCell s 0 c0 = true ∧ cellHeld s c0 = false ∧ (getCell s c0).c.fn.st = .off)
    ∧ (reachesCell full 0 c0 = true ∧ cellHeld full c0 = false ∧ cellStation (modC (initCell full c0) c0 (fun k => { k with initBusy := true })) c0 = none)
    ∧ (let s := chained {}; reachesDie s 0 .cd0 = true ∧ (getDie s .cd0).clk.enCp.toNat.testBit 0 = true ∧ (getCp (getDie s .cd0) 0).st = .off
        ∧ cpConfigured s .cd0 0 = true)
    ∧ (let s := flashIn (fun x => { x with mapBase := 1, ext := [(0, BitVec.ofNat 64 (2 ^ 63 + 2 ^ 29))] })
      reachesFlash s 0 = true ∧ bit (1 : W32).toNat 0 = true ∧ s.hd.flash.fn.st = .off ∧ flashConfigured s = true) := by
  decide +kernel

theorem wit_functionEnds :
    (let s := modQueue full .cd0 0 (fun x => { x with fn := fnIn .starting }); let q := getQueue (getDie s .cd0) 0
      let s1 := modQueue s .cd0 0 (fun x => { x with fn := fnStarted x.fn, offReported := false })
      q.fn.st = .starting ∧ q.fn.held = false ∧ (getQueue (getDie s1 .cd0) 0).fn.st = .on)
    ∧ (let s := modQueue full .cd0 0 (fun x => { x with fn := fnIn .draining }); let q := getQueue (getDie s .cd0) 0
      q.fn.st = .draining ∧ q.fn.pend = false ∧ q.entries = [] ∧ q.started = [])
    ∧ (let s := modFn full c0 (fun _ => fnIn .starting)
      let s1 := modC s c0 (fun k => { k with fn := fnStarted k.fn, initBusy := false })
      (getCell s c0).c.fn.st = .starting ∧ cellStation s1 c0 = none)
    ∧ (let s := modFn full c0 (fun _ => fnIn .draining); (getCell s c0).c.fn = fnIn .draining ∧ cellIdle s c0 = true)
    ∧ (getCp (getDie (chained (fnIn .starting)) .cd0) 0).st = .starting
    ∧ (let s := chained (fnIn .draining); (getCp (getDie s .cd0) 0) = fnIn .draining ∧ cpDrained (getDie s .cd0) 0 = true)
    ∧ (∀ b ∈ [false, true], let f := (flashIn (fun x => { x with fn := fnIn .starting, mapReady := b })).hd.flash
      f.fn.st = .starting ∧ f.fn.held = false ∧ f.mapReady = b ∧ hbmStopped (getDie full (hpaDie f.mapNow)) = false)
    ∧ (let s := flashIn (fun x => { x with fn := fnIn .draining }); let f := s.hd.flash
      f.fn = fnIn .draining ∧ f.q.entries = [] ∧ f.q.started = [] ∧ readsOpen s = false) := by
  decide +kernel

/-! ### A filled mask line lets its OPA issue or suppresses it (R256) -/

def maskWaits (e : Nat) : State := asked (setTdt (modStream (opaSt 2 3) lx (fun t => { t with wait := .memoryLate })) .cd0 0 e) (.maskLine 0 0)
/-- The state after the fill of a line. -/
def maskFilled (e : Nat) (bs : List Byte) : State :=
  dropAnswers (modM (maskDone (maskWaits e) c0 0) c0 (fun m => { m with mask := addMask m.mask { va := 0, data := leNat bs } })) .cd0

theorem wit_maskLineFill_issues (e : Nat) (he : e ∈ [maskEnt, maskEnt + 2 ^ 486]) :
    let s1 := maskFilled e (List.replicate 64 0); let w := opaW 2 3; let g := opaArgs s1 lx w; let x := getCell s1 c0
    ready s1 lx 0x60 w = true ∧ getName x.c 0 (fld w 13 11) = .bound 100 ∧ noExc (opaExcs x 0 (ahead x 100) g) = true
      ∧ g.slots.any (tcfgWaits x.m) = false ∧ g.mask = some e ∧ (maskMissing x.m e g.index).isEmpty = true ∧ g.k = 1
      ∧ taskSlotFree x.m 0 = true ∧ maskAllows x.m e g.index = decide (e = maskEnt) := by
  revert e; decide +kernel

theorem wit_maskLineFill_reads (e : Nat) (he : e ∈ [maskEnt, maskEnt + 2 ^ 486]) :
    readEntBytes (maskWaits e) .cd0 (cellCaches (maskWaits e) c0) (cellPart (maskWaits e) c0) e (readBase e) (0 - readBase e) 64
      = .ok (List.replicate 64 0) :=
  eq_of_okIs (by revert e; decide +kernel)
/-! ### Witnesses: gates, controllers, flash (11, 12) -/

/-- The transfer in flight wants its row of its gate. -/
def wanted : State := cellWants (fop none (.transfer (tr false 0))) c0 1

/-- The Bill loader wants the first transfer of its load, whose translation is cached. -/
def loadAsks : State :=
  let s := modDie (loading true) .cd0 (fun x => { x with loads := [{ load1 true with asked := 0, got := 0 }] })
  askTransfer (modGate s .cd0 0 (fun g => { g with tlb := [{ part := 1, vpage := 0, bits := 30, pte := 7 }] })) .cd0 0 .loader

theorem wit_gateTransfers :
    (∀ c ∈ [(wanted, GateReq.fetchRow 0 1 0), (loadAsks, .loader), (modGate wanted .cd0 0 (fun g => { g with tlb := [] }), .walk (some 0) 1 0 false)],
      reqHeld c.1 .cd0 0 c.2 = false ∧ reqDue c.1 .cd0 0 c.2 = true ∧ gateRoom (getGate (getDie c.1 .cd0) 0) (reqLevel c.1 .cd0 c.2) = true
        ∧ gateTurn c.1 .cd0 0 c.2 = true)
    ∧ (let x : Xfer := { id := 7, level := 3, client := .loader }; let s := modGate (loading true) .cd0 0 (fun g => { g with xfers := [x] });
      (getGate (getDie s .cd0) 0).xfers.find? (fun x => x.id == 7) = some x ∧ xferHeld s .cd0 x = false ∧ xferAsks s .cd0 x = []
        ∧ reqWalk x.client = false) := by
  decide +kernel

theorem wit_pageWalk : ∀ w ∈ [false, true], ∀ va ∈ [0, 2 ^ 30 - 1],
    let s := asked full (.walk none 1 va w)
    (walkXfer s .cd0 0 none 1 va w).isSome = true ∧ walk s .cd0 1 va = .ok (1, 7) ∧ leafPlace s .cd0 1 1 7 va w = .ok (.here va)
      ∧ (getPart (getDie s .cd0) 1).tlbBusy = false ∧ va < 2 ^ 48 := by
  decide +kernel

/-- A walk of a partition whose tables are not enabled faults. -/
theorem wit_pageWalk_fault : let s := asked full (.walk none 2 0 false)
    (walkXfer s .cd0 0 none 2 0 false).isSome = true ∧ walk s .cd0 2 0 = .error 1 := by
  decide +kernel

/-- Ten clean lines of one set, and a line whose data is bad. -/
theorem wit_cacheEvict : let s := modDie full .cd0 (fun x => { x with cacheLines := (List.range 16).map (fun i => i * 2 ^ 20) })
    (getDie s .cd0).cacheLines.contains (hpaOf .cd0 0 / 256) = true ∧ (getDie s .cd0).cacheDirty.contains (hpaOf .cd0 0 / 256) = false := by
  decide +kernel

theorem wit_invalidate : reachesDie full 0 .cd0 = true
    ∧ (let s := modPart full .cd0 1 (fun p => { p with tlbBusy := true });
        (getPart (getDie s .cd0) 1).tlbBusy = true ∧ (getPart (getDie s .cd0) 1).tlbHeld = [])
 := by
  decide +kernel

/-- Controller 0 of CD0 in a state. -/
def mcIn (st : McState) : State := modMc full .cd0 0 (fun m => { m with st := st })

theorem wit_controllers :
    (let x := getDie (mcIn .on) .cd0;
      (getMc x 0).st = .on ∧ (getMc x 0).patrolEn = true ∧ 0 < capacity x ∧ stackOf x 0 * 32 + channelOf x 0 = 0)
    ∧ (let s : State := { mcIn .on with hd := { full.hd with clk := { full.hd.clk with changing := true, modeReq := 2 } } };
      let x := getDie s .cd0;
      s.hd.clk.changing = true ∧ (s.hd.clk.modeReq == 2) = true ∧ slewed s .cd0 = true
        ∧ ((mcsOf x).filter (fun i => decide ((getMc x i).st = .on))).any (fun i => (getMc x i).rate != true) = true)
    ∧ hbmStopped (getDie (mcIn .rateChange) .cd0) = true
    ∧ (regSized 0 8 = true ∧ regSized 4088 8 = true)
    ∧ (let v : W32 := 0; reachesDie full 0 .cd0 = true
        ∧ (List.range 32).any (fun j => j != 31 && rgnOverlap (rgnOf v.toNat) (getRgn (getDie full .cd0) j)) = false ∧ (rgnOf v.toNat).host = false) := by
  decide +kernel

/-! Flash: the map lies at HPA 0x30000; unit 0 is at place 5 of package 0. -/

def stripe0 : Stripe := { unit := 0, data := [1, 2, 3], check := placeCheck 0 0 5 [1, 2, 3] }
def onFlash (s : State) : State := { s with
  hbm := tabWrite 0 s.hbm 0x30000 (leBytes 4 (entAt 5))
  hd := { s.hd with flash := { s.hd.flash with
    fn := fnIn .on, mapReady := true, mapNow := 0x30000, nand := [(stripeKey 0 5, some stripe0)] } } }
def flash0 : State := onFlash full
/-- The store with a started command 5 of an opcode on units, with its buffer at host GiB 1. -/
def fw (op unit n : Nat) : Nat := cw op [(0x10, unit), (0x14, n), (0x18, 2 ^ 30)]
def flCmd (w : Nat) (p : CmdPhase) : State :=
  modFlash flash0 (fun x => { x with q := { x.q with started := [started w p] } })

theorem wit_flashAperture :
    (let s := flash0; let f := s.hd.flash; reachesFlash s 0 = true ∧ f.fn.st = .on ∧ f.q.halted = false ∧ f.q.free ≠ 0)
    ∧ (let s := modFlash full (fun x => { x with q := { x.q with halted := true } }); reachesFlash s 0 = true ∧ s.hd.flash.q.halted = true) := by
  decide +kernel

/-- What a WRITE, a TRIM and a FLUSH need; a READ of the unmapped unit 1; a program of unit 1 at place 6. -/
theorem wit_flashCommands : ∀ op ∈ [2, 3, 4], ∀ u ∈ [0, userUnits - 1], let w := fw op u 1; let s1 := flOpen (flCmd w .fresh) 5
    freshCmd s1 .cd0 flQ 5 op = some (started w .fresh) ∧ flBlocked s1 (started w .fresh) = false ∧ mapOpen s1 = true
      ∧ flRange (started w .fresh) = false ∧ s1.hd.flash.health ≠ 2 ∧ flPackage s1 (started w .fresh) = false
      ∧ (∀ pkg < 16, runMeets (flUnit (started w .fresh)) (flCount (started w .fresh)) pkg = true →
        noReads s1 pkg = true ∧ olderWrite s1 (started w .fresh) pkg = false) := by
  decide +kernel

theorem readRun_one {s : State} {u : Nat} {bs : List Byte} (h : readNow s u = .ok bs) : readRun s u 1 = ([bs], none) := by
  simp [readRun, h]
theorem hostWrite_ok {s : State} {a n : Nat} {bs : List Byte} (h : bs.length = n) (h1 : hostOk s a n = true) (h2 : hostConf s a n = none)
    (h3 : writeBlocked s a n = false) : ∃ t, hostWrite s a bs = (.ok [], t) :=
  ⟨storeHbm s a bs, by simp [hostWrite, h, h1, h2, h3]⟩
theorem hostRead_ok {s : State} {a n : Nat} (h1 : hostOk s a n = true) (h2 : hostConf s a n = none) (h3 : hbmUncorr s a n = false) :
    ∃ bs t, hostRead s a n = (.ok bs, t) := ⟨readHbm s a n, touchLines s a n, by simp [hostRead, h1, h2, h3]⟩
theorem readNow_unmapped {s : State} {u : Nat} (h0 : tabGet (0, []) s.hd.flash.decoded u = (0, [])) (h1 : mapOpen s = true)
    (h2 : pkgFailed s u = false) (h3 : mapEntry s u = 0) : readNow s u = .ok (List.replicate 65536 0) := by
  simp [readNow, readUnit, h0, h1, h2, h3, entMapped, bit, -List.reduceReplicate]

theorem wit_flRead : (let w := fw 1 1 1; let s1 := flOpen (flCmd w .fresh) 5; let c := started w .fresh;
      openCmd s1 .cd0 flQ 5 0x01 = some c ∧ flBlocked s1 c = false ∧ flRange c = false ∧ c.phase = .fresh)
    ∧ (let w := fw 1 1 1; let s1 := flOpen (flCmd w .wait) 5; let c := started w .wait; let bss := [List.replicate 65536 0];
      (openCmd s1 .cd0 flQ 5 0x01 = some c ∧ flBlocked s1 c = false ∧ flRange c = false ∧ c.phase = .wait
        ∧ runTurn s1 .cd0 flQ 5 (flUnit c) (flCount c) = true ∧ hostHeld s1 (cmdF c.word 0x18 8) 65536 = false)
        ∧ readRun s1 (flUnit c) (flCount c) = (bss, none)
        ∧ ∃ s2, hostWrite (noteRun s1 (flUnit c) bss.length) (cmdF c.word 0x18 8) bss.flatten = (.ok [], s2)) := by
  refine ⟨by decide +kernel, by decide +kernel, ?_, ?_⟩
  · have h : flCount (started (fw 1 1 1) .wait) = 1 := by decide +kernel
    rw [h]
    exact readRun_one (readNow_unmapped (by decide +kernel) (by decide +kernel) (by decide +kernel) (by decide +kernel))
  · exact hostWrite_ok (n := 65536) (by simp [-List.reduceReplicate]) (by decide +kernel) (by decide +kernel) (by decide +kernel)

theorem writeBytes_ok {s : State} {c : Started} (h0 : tabGet [] s.hd.flash.wbuf c.cseq = [])
    (h1 : hostOk s (cmdF c.word 0x18 8 + 65536 * c.prog) 65536 = true) (h2 : hostConf s (cmdF c.word 0x18 8 + 65536 * c.prog) 65536 = none)
    (h3 : hbmUncorr s (cmdF c.word 0x18 8 + 65536 * c.prog) 65536 = false) : ∃ bs t, writeBytes s c = (.ok bs, t) := by
  obtain ⟨bs, t, h⟩ := hostRead_ok h1 h2 h3
  exact ⟨bs, t, by simp only [writeBytes, h0, h]⟩

theorem prepare_new {s : State} {pkg place : Nat} (h : (getStripe s (stripeKey pkg place)).isNone = true) : preparePlace s pkg place = some s := by
  simp [preparePlace, h]

theorem wit_flashProgram : let w := fw 2 1 1; let s := flCmd w .wait; let c := started w .wait;
    (openCmd s .cd0 flQ 5 0x02 = some c ∧ c.phase = .wait ∧ flUnit c + c.prog = 1 ∧ pkgFailed s 1 = false ∧ mapOpen s = true
        ∧ hostHeld s (cmdF c.word 0x18 8 + 65536 * c.prog) 65536 = false ∧ placeOk s (unitPkg 1) 6 = true
        ∧ placeUsed s (unitPkg 1) 6 = false ∧ noReads s (unitPkg 1) = true ∧ olderWrite s c (unitPkg 1) = false)
      ∧ preparePlace s (unitPkg 1) 6 = some s
      ∧ ∃ bs s3, writeBytes (modFlash s (fun x => { x with suspended := x.suspended.filter (fun y => y != unitPkg 1 * 8 + fld 6 2 0) })) c = (.ok bs, s3) :=
  ⟨by decide +kernel, prepare_new (by decide +kernel),
    writeBytes_ok (by decide +kernel) (by decide +kernel) (by decide +kernel) (by decide +kernel)⟩

def okUnit (b : List Byte) : UnitR → Bool
  | .ok a => a == b
  | _ => false
theorem eq_of_okUnit {b : List Byte} {r : UnitR} (h : okUnit b r = true) : r = .ok b := by
  cases r with
  | ok a => simp only [okUnit, beq_iff_eq] at h; rw [h]
  | wait => simp [okUnit] at h
  | pkg => simp [okUnit] at h
  | uncorr => simp [okUnit] at h
  | check => simp [okUnit] at h

/-- The flash reader asks for unit 0. -/
def readerAsks : State :=
  let s := onFlash (stated 7 { begun := 1, work := [{ due := 1 }], units := [(0, 0, [])] });
  modFlash s (fun f => { f with queue := [{ first := 0, count := 1, by_ := .reader .cd0 0 7 }] })

theorem wit_flashUnits :
    (∀ ok ∈ [false, true], let s := readerAsks; mapOpen s = true ∧ 0 < userUnits ∧ pkgFailed s 0 = false ∧ tabGet 0 s.hd.flash.retries 0 = 0
      ∧ unitTurn s 0 ok = true ∧ unitStripe s 0 = some (stripeKey 0 5, stripe0))
    ∧ (let s := modFlash flash0 (fun x => { x with retries := [(0, entAt 5 + 1)] }); mapOpen s = true ∧ tabGet 0 s.hd.flash.retries 0 ≠ 0)
    ∧ (let s := flash0; (mapOpen s = true ∧ s.hd.flash.moves.find? (fun m => m.unit == 0) = none ∧ placeOk s (unitPkg 0) 6 = true
        ∧ placeUsed s (unitPkg 0) 6 = false ∧ moveDue s 0 = true ∧ moveServed s (unitPkg 0) = true
        ∧ unitStripe s 0 = some (stripeKey 0 5, stripe0) ∧ blockOf (stripeKey 0 5) ≠ blockOf (stripeKey (unitPkg 0) 6))
      ∧ preparePlace s (unitPkg 0) 6 = some s)
    ∧ (scanDue flash0 = true ∧ ∀ pkg < 16, levelFive flash0 pkg = true)
    ∧ (reachesFlash full 0 = true ∧ (List.range 64).any (fun j => j != 63 && extOverlap
        (BitVec.ofNat 64 (setFld (BitVec.ofNat 64 (2 ^ 63 + 2 ^ 29)).toNat 62 62 0)) (tabGet 0 full.hd.flash.ext j)) = false)
    ∧ flash0.hd.flash.fn.st ≠ .off
    ∧ (let s := modFlash readerAsks (fun x => { x with q := { x.q with started := [started (fw 2 0 1) .wait] } }); let f := s.hd.flash
      readsDie s 0 5 = true ∧ f.suspended.contains (0 * 8 + 5) = false
      ∧ programsDie s 0 5 = true) :=
  ⟨by decide +kernel, by decide +kernel, ⟨by decide +kernel, prepare_new (by decide +kernel)⟩, by decide +kernel, by decide +kernel,
    by decide +kernel, by decide +kernel⟩

/-- A move of unit 0 to place 6 that is under way. -/
theorem wit_flashMoveEnds : let m : FlMove := { unit := 0, place := 6, ent := entAt 5 }
    let s := modFlash flash0 (fun x => { x with moves := [m] })
    let s1 := modFlash s (fun x => { x with moves := x.moves.erase m, suspended := x.suspended.filter (fun y => y != unitPkg 0 * 8 + fld 6 2 0) })
    (s.hd.flash.moves.find? (fun m => m.unit == 0) = some m ∧ mapOpen s = true ∧ s.hd.flash.suspended.contains (unitPkg 0 * 8 + fld 6 2 0) = false)
      ∧ stripeRead s1 0 m.ent = .ok [1, 2, 3] :=
  ⟨by decide +kernel, eq_of_okUnit (by decide +kernel)⟩

def rd7 (x : Station) : State := stated 7 { x with begun := 1 }

theorem wit_flashReaders :
    (let s := rd7 { work := [{ unit := 3, left := 2, due := 2 }] }; let a := at_ 7; let x := stGet s a 0
      stAt s .cd0 0 7 = some a ∧ readerRuns s a = true ∧ nextUnit x.work = some 3 ∧ x.units.length < 64)
    ∧ (let w : Work := { due := 1 }; let s := rd7 { work := [w], units := [(3, 1, [5])] }; let a := at_ 7; let x := stGet s a 0
      stAt s .cd0 0 7 = some a ∧ readerRuns s a = true ∧ x.units = [(3, 1, [5])] ∧ x.work = [w] ∧ w.sink = false)
    ∧ (let w : Work := { due := 1, sink := true }; let s := rd7 { work := [w], units := [(3, 1, [5])], asked := 64, got := 64 }; let a := at_ 7
      let x := stGet s a 0; let s1 := bump s .cd0 (setStationSet 8 a.place) 6 1
      (stAt s .cd0 0 7 = some a ∧ readerRuns s a = true ∧ x.units = [(3, 1, [5])] ∧ x.work = [w] ∧ stepFetched a x = true)
        ∧ ∃ s2, writeVA s1 .cd0 (stCaches s1 a) a.part (sinkVa w) [5] = .ok s2) :=
  ⟨by decide +kernel, by decide +kernel, by decide +kernel, ok_of_isOkR (by decide +kernel)⟩

/-! ### Witnesses: links and the host interface (13, 19) -/

def isOkReg : RegR → Bool
  | .ok _ => true
  | _ => false
theorem ok_of_isOkReg {p : RegR × State} (h : isOkReg p.1 = true) : ∃ v t, p = (.ok v, t) := by
  obtain ⟨r, t⟩ := p
  cases r with
  | ok v => exact ⟨v, t, rfl⟩
  | wait => simp [isOkReg] at h
  | bus => simp [isOkReg] at h
  | uncorr => simp [isOkReg] at h
theorem pair_of {α β : Type} {p : α × β} {a : α} (h : p.1 = a) : ∃ t, p = (a, t) := ⟨p.2, by rw [← h]⟩

theorem wit_ucieMemory : inLine 0x40000000 256 = true ∧ (0x40000000 : Nat) < 2 ^ 40 ∧ hpaDie 0x40000000 = .cd0 ∧ hostAgent 1 = true
    ∧ (∃ bs s1, hostRead (eccUnits full (units32 0x40000000 256) [(0, .corrected)]) 0x40000000 256 = (.ok bs, s1))
    ∧ hostOk full 0x40000000 256 = true ∧ hbmHeld full .cd0 = false ∧ apertureAt .cd0 0x40000000 = none
    ∧ inLine (winBase .cd0 + 0x1000000) 8 = true
    ∧ apertureAt .cd0 (winBase .cd0 + 0x1000000) = some (0, 0) ∧ reachesQueue full 1 .cd0 0 = true ∧ hostReaches full .cd0 = true :=
  ⟨by decide +kernel, by decide +kernel, by decide +kernel, by decide +kernel,
    hostRead_ok (by decide +kernel) (by decide +kernel) (by decide +kernel), by decide +kernel⟩

theorem wit_ucieRegisters : (∀ n ∈ [4, 8], ∃ v s1, readAt full 1 (dieTarget full .cd0 1 (winBase .cd0)) n = (.ok v, s1))
    ∧ (∀ n ∈ [4, 8], ∃ v s1, writeAt full 1 (dieTarget full .cd0 1 (winBase .cd0)) n 0 = (.ok v, s1)) := by
  have h : ∀ n ∈ [4, 8], isOkReg (readAt full 1 (dieTarget full .cd0 1 (winBase .cd0)) n).1 = true
      ∧ isOkReg (writeAt full 1 (dieTarget full .cd0 1 (winBase .cd0)) n 0).1 = true := by decide +kernel
  exact ⟨fun n hn => ok_of_isOkReg (h n hn).1, fun n hn => ok_of_isOkReg (h n hn).2⟩

theorem wit_ucieModules : training { full with hd := { full.hd with boot := { full.hd.boot with stage := 4 } } } .cd0 = true
    ∧ (getUcie (getDie (modDie full .cd0 (fun x => setUcie x 3 { getUcie x 3 with st := 1 })) .cd0) 3).st ≠ 0 := by
  decide +kernel

theorem wit_hostAccesses :
    (∃ v s1, regRead full 1 hostBase 8 = (.ok v, s1)) ∧ (∃ v s1, regWrite full 1 hostBase 8 0 = (.ok v, s1)) ∧ commandMem hostBase = none
    ∧ (∀ e ∈ targetDies (target full 1 hostBase), hbmHeld full e = false) ∧ commandLoad 1 hostBase 8 = false ∧ commandLoad 1 (winBase .cd0 + 0x1000000) 16 = true
    ∧ (∀ core ∈ [0, 23], coreRuns full core = true)
    ∧ (List.range 64).all (fun i => (commandMem (winBase .cd0 + 0x1000000 + i)).isSome) = true :=
  ⟨ok_of_isOkReg (by decide +kernel), ok_of_isOkReg (by decide +kernel), by decide +kernel⟩

/-- PCIE_ROLE is 1, so the module is an endpoint. -/
def endpoint : State := modPower full (fun p => { p with role := true })

theorem wit_bar2 : vfEnabled endpoint 1 = true ∧ hostReaches endpoint .cd0 = true
    ∧ (∀ va ∈ [0, 2 ^ 30 - 1], ∀ w ∈ [false, true], ∀ e ∈ rangeDies endpoint .cd0 [] 1 va 1 w, hbmHeld endpoint e = false)
    ∧ (∀ va ∈ [0, 2 ^ 30 - 1], ∃ bs, readVA (touchUnits (eccUnits endpoint (rangeUnits endpoint .cd0 [] 1 va 1) []) (rangeUnits endpoint .cd0 [] 1 va 1))
        .cd0 [] 1 va 1 = .ok bs) ∧ (∀ va ∈ [0, 2 ^ 30 - 1], ∃ s1, writeVA endpoint .cd0 [] 1 va [5] = .ok s1) := by
  have h : ∀ va ∈ [0, 2 ^ 30 - 1], isOkR (readVA (touchUnits (eccUnits endpoint (rangeUnits endpoint .cd0 [] 1 va 1) [])
      (rangeUnits endpoint .cd0 [] 1 va 1)) .cd0 [] 1 va 1) = true ∧ isOkR (writeVA endpoint .cd0 [] 1 va [5]) = true := by decide +kernel
  exact ⟨by decide +kernel, by decide +kernel, by decide +kernel, fun va hv => ok_of_isOkR (h va hv).1, fun va hv => ok_of_isOkR (h va hv).2⟩

theorem wit_perstN : endpoint.hd.power.role = true ∧ full.hd.power.role = false
    ∧ (full.hd.power.hostRails && full.hd.clk.enHd.toNat.testBit 25) = true
    ∧ (let s := modClk full (fun c => { c with enHd := 0 }); (s.hd.power.hostRails && s.hd.clk.enHd.toNat.testBit 25) = false) := by
  decide +kernel

theorem wit_management : ∀ f ∈ [MgmtIf.smbus, .vdm],
    (mgmtUp full f && decide (3 ≤ full.hd.boot.stage.toNat) && full.hd.boot.stage != 0xF) = true
      ∧ (∃ v s1, regRead full (ifAgent f) hostBase 8 = (.ok v, s1)) ∧ (∃ v s1, regWrite full (ifAgent f) hostBase 8 0 = (.ok v, s1)) := by
  have h : ∀ f ∈ [MgmtIf.smbus, .vdm], (mgmtUp full f && decide (3 ≤ full.hd.boot.stage.toNat) && full.hd.boot.stage != 0xF) = true
      ∧ isOkReg (regRead full (ifAgent f) hostBase 8).1 = true ∧ isOkReg (regWrite full (ifAgent f) hostBase 8 0).1 = true := by decide +kernel
  exact fun f hf => ⟨(h f hf).1, ok_of_isOkReg (h f hf).2.1, ok_of_isOkReg (h f hf).2.2⟩

/-- A message of a command that came through whole. -/
def whole (f : MgmtIf) (code : Nat) (body : List Byte) : MgmtMsg :=
  let m : MgmtMsg := { iface := f, check := 0 };
  { m with check := msgCheck full m code body }
theorem wit_management_check (f : MgmtIf) (code : Nat) (body : List Byte) :
    (whole f code body).check = msgCheck full (whole f code body) code body ∧ (whole f code body).iface = f := ⟨rfl, rfl⟩

/-- An FW_UPDATE or ATTEST over management: not asked yet, and with its result there. -/
theorem wit_mgmtService : ∀ ch ∈ [0, 1], (mgmtService full ch 5 [1] 0).1 = none
    ∧ (mgmtService (modChan full ch (fun c => { c with asked := some (5, [1]), done := true, report := [7] })) ch 5 [1] 0).1 = some [0, 1, 0, 0, 0, 7] := by
  decide +kernel

/-- A TAP that a token authorises, on a die with a unit of a confidential partition. -/
theorem wit_tapConfidential : let s := modHsec (modPower full (fun p => { p with trstN := true })) (fun c => { c with
      debugScope := 2, parts := [(1, { st := .active, conf := true })] })
    tapUp s 1 = true ∧ tapConfidential s 1 = true := by
  decide +kernel

theorem wit_taps : ∀ tap ∈ [0, 2], let s := modPower full (fun p => { p with trstN := true })
    tapUp s tap = true ∧ isBypass 0 = true ∧ isBypass 0xFF = true ∧ s.hd.sec.debugScope.toNat.testBit tap = false := by
  decide +kernel

/-! The chain -/

def peer0 : Peer := { mac := 1, port := 0, part := 1, valid := true, farId := 9 }
/-- Port 0 of CD0 is open with entry 0 on it. -/
def chainUp (p : Peer) : State := modDie full .cd0 (fun x => { x with
  chain := { x.chain with id := 5, mac := [(0, 2)], markDst := [(0, 3)], fns := [(0, fnIn .on)], linkUp := 1, inForce := [(0, (false, 2, 5, 0x88B5, 0))] }
  peers := [(0, p)] })
def frame0 (type : Nat) : Frame :=
  let f : Frame := { dstMac := 2, srcMac := 1, etype := 0x88B5, ver := 1, type := type, srcId := 9, dstId := 5, seq := 0, ackSeq := 0, chan := 0
                     hflags := 4, part := 1, ihdr := 0, payload := List.replicate 16 0, check := 0 };
  { f with check := frameCheck 0 f }

theorem wit_chainFrames : ∀ t ∈ [1, 2, 3, 4, 5, 6, 7, 8, 9], let f := frame0 t; let s := chainUp peer0
    let s1 := bump (bump s .cd0 (setChain 0) 1 1) .cd0 (setChain 0) 3 (frameBytes (portForce (getDie s .cd0) 0).2.2.2.2 f)
    let s2 := if bit f.hflags 2 then freeAcked s1 .cd0 0 f.ackSeq else s1
    portTakes (getDie s .cd0) 0 = true ∧ judgeFrame (getDie s1 .cd0) 0 f = .ok 0
      ∧ f.seq % 2 ^ 32 = (getPeer (getDie s2 .cd0) 0).rxExpect.toNat ∧ f.type = t := by
  decide +kernel

/-- A Bill of 448 bytes with a chain port and a drain stage. -/
def billC : List Byte := leBytes 448 0x100220000000000000000000000000000000800000000000000000000000000000000000000000000000000000000000000000000000000000000000000000000000000000000000000000000000000000000000000000000000000080c000001000000000000000000000000000000000000000800000010000000200000000000000104000000000000000000000000000000000000002000000000000000000001000900000000000000000000000000000000000000000000000000000000000000000000000000000000000000000000000000000000000000000000003000000180000000000000000000000000000000000000001000000140000000400000010000000000000000000000000000000000000000000000000000000000000000000000000000000000000000000000000000000000000000000000000000000000000000000000000000000000000000000000000000000000000000000000000000000000000000000000000000000000000000000000000000000000000000000000000000000000000000000000000800000001000001c0000100014c424a4d

theorem wit_chainEntries :
    (let s := modDie (chainUp { peer0 with unacked := [{ f := frame0 2 }], ackDue := true }) .cd0 (fun x => { x with clk := { x.clk with tb := 1000000 } })
      let x := getDie s .cd0; let p := getPeer x 0;
      peerUp x 0 = true ∧ p.valid = true ∧ p.unacked = [{ f := frame0 2 }] ∧ 0 + rtoNs x ≤ timeOf s (some .cd0) ∧ p.ackDue = true)
    ∧ (let s := modDie (chainUp peer0) .cd0 (fun x => { x with slots := [(0, { st := .active, bill := billC })] })
      peerUp (getDie s .cd0) 0 = true ∧ (List.range 4).any (fun c => (chainReceiver s .cd0 0 0 c).isSome) = true)
    ∧ (portTakes (getDie (chainUp peer0) .cd0) 0 = true ∧ tabGet 0 (getDie (chainUp peer0) .cd0).chain.markDst 0 ≠ 0
        ∧ portScrubbed (chainUp peer0) .cd0 0 = false ∧ (getCp (getDie (chainUp peer0) .cd0) 0).st = .on)
    ∧ (let v : W64 := BitVec.ofNat 64 (2 ^ 61); reachesDie full 0 .cd0 = true ∧ (getPeer (getDie full .cd0) 4095).valid = false ∧ bit v.toNat 61 = true) := by
  decide +kernel

/-! The bridge -/

def segged (n : Nat) (g : Seg) : State := modSeg full .cd0 n (fun _ => g)

theorem wit_bridgeLines :
    (∀ n ∈ [0, 15], ∀ vc ∈ [0, 1, 3], let s := segged n { st := .up }; let g := getSeg (getDie s .cd0) n
      s.hd.boot.brgWait = false ∧ g.resend = [] ∧ mayOffer g (waitingLine g vc []) = true ∧ vcTurn s .cd0 n vc = true)
    ∧ (∀ p ∈ [(0, none), (2, some (0, 0, 0))], let l : BrgLine := { vc := p.1, seq := 0, data := [], src := p.2 }
      let g := getSeg (getDie (segged 0 { st := .up, flight := [l] }) .cd0) 0
      g.flight = [l] ∧ l.src = p.2 ∧ l.vc = p.1 ∧ g.st = .up ∧ g.tries < 7)
    ∧ (let s := { full with hd := { full.hd with boot := { full.hd.boot with brgWait := true } } }
      s.hd.boot.brgWait = true ∧ s.cd0.clk.running = true ∧ s.cd1.clk.running = true) := by
  decide +kernel
/-! ### Witnesses: the security core (16) -/

/-- The neutral point's encoding: a public key under which the neutral point and 0 sign every text. -/
def neutral : List Byte := 1 :: List.replicate 56 0
/-- Its digest, as fuse slot 0 holds it. -/
def keyDig : Nat := 0x2a49fcc74e74c7e38318a4ab87d387db9a834131b955407fda70fd6b0390917cbd7a989f4c391ff1ad6fd0a0b6c59049040191e64c422d4ddc7421435aad012d
/-- The digest of nothing. -/
def noDig : Nat := 0xbec4b7b3ac2e294086b49a47491c82fcf692b5679d0105cb00f2c0d8ddc45dd72f76d56e64270cb5821bb862ea52cd3f24eb3e74eb3f3b23138da80b2bddb946
/-- Channel 0 with a request of an OP on a block. -/
def secIn (s : State) (op blk : Nat) : State := { s with hd := { s.hd with
  sec := { s.hd.sec with ch0 := { busy := true, op := op, block := some (leBytes 128 blk) } }
  ident := { s.hd.ident with keyDigest := [(0, BitVec.ofNat 512 keyDig)] } } }
/-- The bytes of a list as cells from an address. -/
def cellsFrom (a : Nat) : List Byte → List Host.Cell
  | [] => []
  | b :: r => if b = 0 then cellsFrom (a + 1) r else (a, b) :: cellsFrom (a + 1) r

theorem tabRead_congr {t u : List Host.Cell} : ∀ n j, (∀ k, j ≤ k → tabGet 0 t k = tabGet 0 u k) → tabRead 0 t j n = tabRead 0 u j n
  | 0, _, _ => rfl
  | n + 1, j, h => by
    simp only [tabRead]
    rw [h j (Nat.le_refl j), tabRead_congr n (j + 1) (fun k hk => h k (by omega))]

theorem tabGet_cellsFrom_lt : ∀ (bs : List Byte) (a k : Nat), k < a → tabGet 0 (cellsFrom a bs) k = 0
  | [], _, _, _ => rfl
  | b :: r, a, k, h => by
    by_cases hb : b = 0
    · simp only [cellsFrom, hb, if_true]; exact tabGet_cellsFrom_lt r (a + 1) k (by omega)
    · simp only [cellsFrom, hb, if_false, tabGet]; rw [if_neg (by omega)]; exact tabGet_cellsFrom_lt r (a + 1) k (by omega)

theorem tabRead_cellsFrom : ∀ (bs : List Byte) (a : Nat), tabRead 0 (cellsFrom a bs) a bs.length = bs
  | [], _ => rfl
  | b :: r, a => by
    have hr := tabRead_cellsFrom r (a + 1)
    by_cases hb : b = 0
    · simp only [cellsFrom, hb, if_true, List.length_cons, tabRead]
      rw [tabGet_cellsFrom_lt r (a + 1) a (by omega), hr]
    · simp only [cellsFrom, hb, if_false, List.length_cons, tabRead, tabGet, if_true]
      rw [tabRead_congr (u := cellsFrom (a + 1) r) r.length (a + 1) (fun k hk => by simp only [tabGet]; rw [if_neg (by omega)]), hr]

/-- A module with no partition but 0, and host memory at GiB 1 that holds some bytes. -/
def plain (bs : List Byte) : State := { up with
  cd0 := { up.cd0 with ilvEn := 1, ilvValid := true, ucie := [(0, { st := 1 })], rgns := [(1, { base := 1, limit := 2, host := true, valid := true })] }
  hbm := cellsFrom (2 ^ 30) bs }
theorem hostRead_is {s : State} {a n : Nat} {bs : List Byte} (h1 : hostOk s a n = true) (h2 : hostConf s a n = none) (h3 : hbmUncorr s a n = false)
    (h : readHbm s a n = bs) : hostRead s a n = (.ok bs, touchLines s a n) := by simp [hostRead, h1, h2, h3, h]
theorem plain_read {bs : List Byte} {op blk n : Nat} (hn : bs.length = n) (h1 : hostOk (secIn (plain bs) op blk) (2 ^ 30) n = true)
    (h2 : hostConf (secIn (plain bs) op blk) (2 ^ 30) n = none) (h3 : hbmUncorr (secIn (plain bs) op blk) (2 ^ 30) n = false) :
    ∃ s2, hostRead (secIn (plain bs) op blk) (2 ^ 30) n = (.ok bs, s2) :=
  ⟨_, hostRead_is h1 h2 h3 (by rw [← hn]; exact tabRead_cellsFrom bs (2 ^ 30))⟩
theorem argBlock_is {s : State} {ch : Nat} {b : List Byte} (h : (getChan s ch).block = some b) :
    argBlock s ch = (.ok ((b ++ List.replicate 128 0).take 128), s) := by simp [argBlock, h]

theorem wit_requests : ∀ op ∈ [1, 2, 3, 4, 5, 6, 7, 8, 9], let s := secIn full op 0
    (getChan s 0).busy = true ∧ (getChan s 0).op = op ∧ argHeld s 0 = false ∧ (getChan s 0).block = some (leBytes 128 0) := by
  decide +kernel
def zeros (n : Nat) : List Byte := List.replicate n 0
/-- A bundle of three empty components. -/
def comp (t : Nat) : List Byte := leBytes 16 (t + 2 ^ 32 * 0x1000) ++ leBytes 64 noDig
def bundle : List Byte := leBytes 24 (0x57464A4D + 2 ^ 32 + 2 ^ 48 * 3 + 2 ^ 64 * 4096) ++ neutral ++ zeros 7 ++ comp 1 ++ comp 2 ++ comp 4
  ++ zeros 568 ++ neutral ++ zeros 3143
theorem bundle_len : bundle.length = 4096 := by decide +kernel
theorem bundle_format : bundleFormat bundle = true := by decide +kernel
/-- A signature is right where its parts are: the two points, the hash and the equation of RFC 8032. -/
theorem edVerify_of {pub ctx msg sig : List Byte} {a r : EdPoint} {k : Nat} (ha : edDecode pub = some a) (hr : edDecode (sig.take 57) = some r)
    (hk : edHash (edDom ctx ++ sig.take 57 ++ pub ++ msg) = k) (hn : sig.length = 114) (hs : leNat (sig.drop 57) < edL)
    (he : edEq (edMul 4 (edMul (leNat (sig.drop 57)) edBase)) (edMul 4 (edAdd r (edMul k a))) = true) : edVerify pub ctx msg sig = true := by
  simp only [edVerify, ha, hr, hk, hn, hs, he, decide_true, beq_self_eq_true, Bool.and_true]
def bundleSig : List Byte := (bundle.drop 0x380).take 114
def bundleHash : Nat := 62421818321165979598510432225731497442065479826327335118168823868420055140786517054056043641831652287692297896282050724731050648186112
theorem bundle_hash : edHash (edDom (ascii "HOLTUTH-FW") ++ bundleSig.take 57 ++ bundleKey bundle ++ bundle.take 0x380) = bundleHash := by decide +kernel
theorem bundle_sum : edEq (edMul 4 (edMul (leNat (bundleSig.drop 57)) edBase)) (edMul 4 (edAdd edZero (edMul bundleHash edZero))) = true := by decide +kernel
theorem bundle_signed : edVerify (bundleKey bundle) (ascii "HOLTUTH-FW") (bundle.take 0x380) ((bundle.drop 0x380).take 114) = true :=
  edVerify_of (sig := bundleSig) (a := edZero) (r := edZero) (by decide +kernel) (by decide +kernel) bundle_hash (by decide +kernel) (by decide +kernel) bundle_sum
theorem bundle_digests : (List.range (nComp bundle)).all (fun i =>
    digest512 ((bundle.drop (compF bundle i 4 4)).take (compF bundle i 8 4)) == compF bundle i 16 64) = true := by decide +kernel
/-- Channel 0 asks for FW_STAGE of the bundle, and the boot region has been read. -/
def stages : State := readBoot (secIn (plain bundle) 5 (2 ^ 30)) [] 0 64
theorem stages_key : keySlot (touchLines stages (2 ^ 30) 4096) (bundleKey bundle) = some 0 := by decide +kernel
theorem stages_newer : ¬ argF bundle 0x10 8 < (touchLines stages (2 ^ 30) 4096).hd.ident.fwSvn := by decide +kernel
theorem stages_hbm : stages.hbm = cellsFrom (2 ^ 30) bundle := rfl
theorem stages_read : readHbm stages (2 ^ 30) 4096 = bundle := by
  have h := tabRead_cellsFrom bundle (2 ^ 30)
  rw [bundle_len] at h
  simpa [readHbm, stages_hbm] using h
theorem wit_fwStage : hostHeld stages (2 ^ 30) 4096 = false ∧ ∃ s2, hostRead stages (2 ^ 30) 4096 = (.ok bundle, s2) ∧ bundleStatus s2 bundle = 0 := by
  refine ⟨by decide +kernel, _, hostRead_is (by decide +kernel) (by decide +kernel) (by decide +kernel) stages_read, ?_⟩
  simp only [bundleStatus, bundleSigned, bundle_format, stages_key, bundle_signed, if_neg stages_newer, bundle_digests, Option.isNone, Bool.not_true, if_false,
    Bool.false_eq_true]
/-- A token of nonce 0 for serial number 0 with an argument. -/
def token (k : Nat) : List Byte := leBytes 208 (2 ^ (8 * 0x18) + 2 ^ (8 * 0x58) + 2 ^ (8 * 0x10) * k)
theorem wit_keyRevoke : let s := secIn (plain (token 1)) 8 (2 ^ 30)
    (∃ s2, hostRead s (2 ^ 30) 208 = (.ok (token 1), s2)) ∧ tokenSlot s (token 1) "HOLTUTH-REVOKE" = some 0 ∧ argF (token 1) 0x10 2 = 1
      ∧ mayRevoke s 0 1 = true ∧ bit s.hd.ident.keyRevoked.toNat 1 = false ∧ hostHeld s (2 ^ 30) 208 = false :=
  ⟨⟨_, hostRead_is (by decide +kernel) (by decide +kernel) (by decide +kernel) (by decide +kernel)⟩, by decide +kernel⟩

theorem wit_debugAuth : let s := secIn (plain (token 7)) 9 (2 ^ 30)
    (∃ s2, hostRead s (2 ^ 30) 208 = (.ok (token 7), s2)) ∧ tokenSlot s (token 7) "HOLTUTH-DEBUG" = some 0 ∧ s.hd.ident.debugDisable = false :=
  ⟨⟨_, hostRead_is (by decide +kernel) (by decide +kernel) (by decide +kernel) (by decide +kernel)⟩, by decide +kernel, by decide +kernel⟩
/-- The image of partition 0 alone. -/
def imL : List Byte := 1 :: List.replicate 4863 0
theorem leNat_zeros : ∀ n, leNat (List.replicate n (0#8)) = 0
  | 0 => rfl
  | n + 1 => by simp [List.replicate_succ, leNat, leNat_zeros n]
theorem imF_imL (off n : Nat) : imF imL off n = if off = 0 ∧ n ≠ 0 then 1 else 0 := by
  unfold imF imL
  cases off with
  | zero => cases n with
    | zero => simp [leNat, -List.reduceReplicate]
    | succ n => simp [leNat, List.take_replicate, leNat_zeros, -List.reduceReplicate]
  | succ o => simp [List.drop_replicate, List.take_replicate, leNat_zeros, -List.reduceReplicate]
theorem parse_imL (p : Nat) : parseRec imL p = { exists_ := decide (p = 0) } := by
  by_cases h : p = 0 <;> simp [parseRec, parseDie, imF_imL, bit, h]
theorem rgn_imL (d : DieId) (i : Nat) : imRgn imL d i = 0 := by simp [imRgn, imF_imL]
theorem ext_imL (i : Nat) : imExt imL i = 0 := by simp [imExt, imF_imL]
theorem format_imL : layoutFormat imL = true := by
  simp [layoutFormat, recFormat, dieFormat, wordsFormat, parseDie, imF_imL, rgn_imL, ext_imL, fld]
  decide
theorem wit_layoutSet : let s := secIn (plain imL) 1 (2 ^ 30)
    (∃ s2, hostRead s (2 ^ 30) 4864 = (.ok imL, s2)) ∧ layoutStatus s imL = 0 := by
  refine ⟨plain_read (by simp [imL, -List.reduceReplicate]) (by decide +kernel) (by decide +kernel) (by decide +kernel), ?_⟩
  simp only [layoutStatus, format_imL, layoutConflict, layoutAbsent, layoutDirty, newOwner, parse_imL, rgn_imL, ext_imL]
  decide +kernel

/-! More of the security core -/

/-- An argument block of fields, each given by its byte offset. -/
def blk (fs : List (Nat × Nat)) : Nat := fs.foldl (fun w p => w + 2 ^ (8 * p.1) * p.2) 0
def arg (fs : List (Nat × Nat)) : List Byte := leBytes 128 (blk fs)

theorem wit_scrub : let s := secIn full 2 (blk [(1, 1)]); let b := arg [(1, 1)]
    s.hd.sec.scrub = none ∧ argHeld s 0 = false ∧ argF b 0 1 = 0 ∧ argF b 1 1 = 1 ∧ argF b 2 1 ≤ 1 ∧ (getSec s 1).st ≠ .absent := by
  decide +kernel

/-- Partition 1 is CLEAN. -/
def clean : State := { full with hd := { full.hd with sec := { full.hd.sec with parts := [(1, { st := .clean })] } } }
theorem wit_confSet : let f := [(0, 1), (8, 2 ^ 30), (0x10, 4096), (0x18, 0x100000)]; let s := secIn clean 3 (blk f); let b := arg f
    (argF b 0 1 = 1 ∧ argF b 0x10 8 = 4096 ∧ ownsRange s 1 (argF b 0x18 8) 4096 = true ∧ (getSec s 1).st = .clean
      ∧ hostHeld s (argF b 8 8) 4096 = false) ∧ ∃ im s2, hostRead s (argF b 8 8) 4096 = (.ok im, s2) :=
  ⟨by decide +kernel,
    hostRead_ok (by decide +kernel) (by decide +kernel) (by decide +kernel)⟩

theorem wit_attest : let f := [(0, 1), (1, 1), (8, 2 ^ 30), (0x10, 4096)]; let s := secIn full 4 (blk f); let b := arg f
    let r := report s (argF b 0 1) (argF b 1 1) (argF b 0x40 64)
    (argF b 0 1 = 1 ∧ argF b 1 1 = 1 ∧ (getChan s 0).block = some b ∧ r.length ≤ argF b 0x10 8 ∧ hostHeld s (argF b 8 8) r.length = false)
      ∧ ∃ s2, hostWrite s (argF b 8 8) r = (.ok [], s2) :=
  ⟨by decide +kernel, hostWrite_ok (n := 480) (by decide +kernel) (by decide +kernel) (by decide +kernel) (by decide +kernel)⟩

/-- Channel 1 asks for a report, with its block in host memory. -/
def asksReport : State := modHsec (plain (arg [(0, 1), (1, 1), (8, 2 ^ 30), (0x10, 4096)])) (fun h => { h with
  ch1 := { busy := true, op := 4, arg := BitVec.ofNat 42 (2 ^ 24) } })
theorem wit_attest_host : (getChan asksReport 1).block = none ∧ argHeld asksReport 1 = false
    ∧ argBlock asksReport 1 = (.ok (arg [(0, 1), (1, 1), (8, 2 ^ 30), (0x10, 4096)]), touchLines asksReport (2 ^ 30) 128)
    ∧ hostHeld (touchLines asksReport (2 ^ 30) 128) (2 ^ 30) 480 = false :=
  ⟨by decide +kernel, by decide +kernel,
    (show argBlock asksReport 1 = hostRead asksReport (2 ^ 30) 128 from rfl).trans
      (hostRead_is (by decide +kernel) (by decide +kernel) (by decide +kernel) (by decide +kernel)), by decide +kernel⟩

/-- Slot 1 is staged and has a component more than slot 0. -/
def staged : State := writeSelectors (writeBoot full (bundleBase 1) (leBytes 24 (2 ^ 48) ++ List.replicate 64 0 ++ leBytes 16 1)) 0 0 1
/-- Slot 1 is staged with the components of slot 0, and an apply window is open. -/
def stagedLive (n : Nat) : State := modHsec (writeSelectors full 0 0 1) (fun h => { h with applying := n })
theorem wit_fwApply : (let z := readBoot staged [] 0 64; (selected z).2 ≠ 0xFF ∧ liveApply z (selected z).1 (selected z).2 = false)
    ∧ ∀ n ∈ [0, 1, 2], let z := readBoot (stagedLive n) [] 0 64
      (selected z).2 ≠ 0xFF ∧ liveApply z (selected z).1 (selected z).2 = true ∧ z.hd.sec.applying = n := by
  decide +kernel

def scrubbing : State := modHsec full (fun h => { h with scrub := some { part := some 1, trim := false, left0 := [5, 6], left1 := [7] } })
theorem wit_sparge : scrubbing.hd.sec.scrub = some { part := some 1, trim := false, left0 := [5, 6], left1 := [7] }
    ∧ hbmStopped (getDie scrubbing .cd0) = false ∧ hbmStopped (getDie scrubbing .cd1) = false := by
  decide +kernel

/-- A calibration set of a header alone, for serial number 0, at host GiB 1. -/
def calHead : List Byte := leBytes 32 (0x4C41434D + 2 ^ 64 * 0x100 + 2 ^ 192 * crc64 (leBytes 8 0)) ++ List.replicate 224 0
def calState : State := let s := plain calHead; { s with hd := { s.hd with boot := { s.hd.boot with calSrc := BitVec.ofNat 36 (2 ^ 18) } } }
/-- A COMMIT of it is under way, and its header has been read. -/
def calBusy1 : State := modBoot calState (fun b => { b with calBusy := true, calPend := true })
def calRead : State := touchLines calBusy1 (2 ^ 30) 0x20
theorem wit_calCommit : (reachesHost calState 0 = true ∧ mgmtAgent 0 = true ∧ calState.hd.boot.calBusy = false
      ∧ calState.hd.boot.calSrc.toNat * 4096 = 2 ^ 30 ∧ hostHeld calState (2 ^ 30) 0x100 = false
      ∧ max 0x20 (min 0x10000 (argF (calHead.take 32) 8 4)) = 0x100 ∧ calCheck calState.hd.ident.serial.toNat calHead = 0)
    ∧ hostRead calBusy1 (2 ^ 30) 0x20 = (.ok (calHead.take 32), calRead)
    ∧ hostRead calRead (2 ^ 30) 0x100 = (.ok calHead, touchLines calRead (2 ^ 30) 0x100) :=
  ⟨by decide +kernel,
    hostRead_is (by decide +kernel) (by decide +kernel) (by decide +kernel) (by decide +kernel),
    hostRead_is (by decide +kernel) (by decide +kernel) (by decide +kernel) (by decide +kernel)⟩

/-! ### Witnesses: clocks, power, time, boot, resets (14, 15) -/

theorem wit_clockSources :
    (∀ i ∈ [0, 6, 7], let c := (modClk full (fun c => { c with ramps := [(3, (0, 800, i))] })).hd.clk
      c.ramps.any (fun e => e.1 == 3) = true ∧ tabGet (0, 0, 0) c.ramps 3 = (0, 800, i) ∧ tabGet 0 c.rampHeld 3 = 0)
    ∧ (let s := modClk full (fun c => { c with trimEn := true }); s.hd.power.hostRails = true ∧ s.hd.clk.trimEn = true)
    ∧ (let s := modBoot full (fun b => { b with stage := 2 }); s.hd.boot.stage = 2 ∧ s.hd.clk.src = 0 ∧ s.hd.clk.xtalGood = false ∧ s.hd.clk.noXtal = false)
    ∧ (modClk full (fun c => { c with src := 1 })).hd.clk.src = 1
    ∧ reachesHost full 1 = true ∧ full.hd.clk.src ≠ 1 := by
  decide +kernel

theorem wit_powerAndHeat : (∀ d ∈ [DieId.cd0, .cd1], (getDie full d).clk.running = true ∧ inApply full d = false) ∧ mgmtAgent 1 = true ∧ full.hd.clk.changing = false
    ∧ (∀ m ∈ [(1 : BitVec 2), 2], m ≠ 3 ∧ m ≠ full.hd.clk.mode)
    ∧ (let s := modClk full (fun c => { c with changing := true, modeReq := 1 });
      s.hd.clk.changing = true ∧ modeReached s .cd0 = true ∧ modeReached s .cd1 = true ∧ s.hd.clk.heldMode = none) := by
  decide +kernel

theorem wit_timeKeeping :
    (let s := modTime full (fun t => { t with mode := 3 }); s.hd.power.hostRails = true ∧ s.hd.time.mode = 3)
    ∧ (∀ m ∈ [(2 : BitVec 2), 3], let s := modTime full (fun t => { t with mode := m, tb := 20000000000000 });
      s.hd.time.mode = m ∧ s.hd.time.lastRef + holdoverNs m ≤ s.hd.time.tb)
    ∧ reachesDie full 1 .cd0 = true ∧ dieTimed full.cd0 = true ∧ full.pending = [] ∧ full.hd.flash.bootLater = [] ∧ full.hd.boot.calBusy = false
    ∧ (∀ e ∈ [(-99 : Int), 99], let s := modTime full (fun t => { t with slew := e }); -100 < s.hd.time.slew ∧ s.hd.time.slew < 100)
    ∧ State.reset.hd.power.hostRails = false := by
  decide +kernel

/-- A module with its supply and no rail. -/
def dark (f : HdPower → HdPower) : State := modPower State.reset (fun p => f { p with pwr48 := .inRange })
def inStage (n : BitVec 4) : State := modBoot full (fun b => { b with stage := n })

/-- Stage ROM without Y1, and the bundle in slot 0 of the first copy. -/
def inRom : State := { inStage 2 with hd := { (inStage 2).hd with
  clk := { (inStage 2).hd.clk with noXtal := true }
  ident := { full.hd.ident with keyDigest := [(0, BitVec.ofNat 512 keyDig)] }
  flash := { full.hd.flash with boot0 := cellsFrom (bundleBase 0) (bundle.take 0x400) } } }
theorem inRom_head : bootBytes (bootCopy (failPages inRom []) 0) (bundleBase (selectedOf (failPages inRom []) 0).1) 0x400 = bundle.take 0x400 := by
  have h := tabRead_cellsFrom (bundle.take 0x400) (bundleBase 0)
  rw [show (bundle.take 0x400).length = 0x400 by decide +kernel] at h
  rw [show selectedOf (failPages inRom []) 0 = (0, 0xFF) by decide +kernel]
  exact h
theorem head_signed : bundleSigned (bundle.take 0x400) = true := by
  rw [bundleSigned, show bundleKey (bundle.take 0x400) = bundleKey bundle by decide +kernel,
    show (bundle.take 0x400).take 0x380 = bundle.take 0x380 by decide +kernel,
    show ((bundle.take 0x400).drop 0x380).take 114 = (bundle.drop 0x380).take 114 by decide +kernel]
  exact bundle_signed
theorem inRom_key : keySlot (failPages inRom []) (bundleKey (bundle.take 0x400)) = some 0 := by decide +kernel
theorem wit_firmwareVerify : inRom.hd.boot.stage = 2 ∧ xtalDecided inRom = true ∧ romTakes (failPages inRom []) 0 { readable := true, failed := [] } = true := by
  refine ⟨by decide +kernel, by decide +kernel, ?_⟩
  simp only [romTakes, inRom_head, head_signed, inRom_key, Option.isSome, Bool.and_self]

theorem wit_bootStages :
    (let p := (dark id).hd.power; p.modEn = false ∧ p.pwr48 = .inRange ∧ p.tripLatch = false)
    ∧ (let p := (dark (fun p => { p with pwr48 := .low, modEn := true, bootPending := true })).hd.power;
      p.pwr48 ≠ .inRange ∧ p.modEn = true ∧ p.hostRails = false ∧ p.bootPending = true ∧ p.tripLatch = false)
    ∧ (let p := (dark (fun p => { p with pwr48 := .absent, modEn := true, bootPending := true, tripLatch := true })).hd.power;
      p.modEn = true ∧ p.hostRails = false ∧ p.bootPending = true ∧ p.pwr48 = .absent)
    ∧ (∀ n ∈ [(2 : BitVec 4), 3, 4, 5, 6], (inStage n).hd.boot.stage = n)
    ∧ (modClk full (fun c => { c with enHd := 0 })).hd.clk.enHd.toNat.testBit 0 = false := by
  decide +kernel

theorem wit_turnOffsAndResets : full.hd.power.modEn = true ∧ full.hd.power.hostRails = true
    ∧ (let p := (dark (fun p => { p with restartDue := true, modEn := true })).hd.power;
      p.restartDue = true ∧ p.pwr48 = .inRange ∧ p.modEn = true ∧ p.tripLatch = false)
    ∧ reachesHost full 1 = true ∧ mgmtAgent 1 = true ∧ full.hd.power.computeRails = true ∧ (getDie full .cd1).clk.stage = 0
    ∧ holdsHost (getDie full .cd1) = false ∧ full.hd.boot.stage ≠ 0xF := by
  decide +kernel

/-! ### Witnesses: counters, trace, logs (17, 18) -/

theorem wit_counterSets :
    (∀ p ∈ [(10, 5), (11536, 0), (20000, 1), (21000, 6)], let s := modSet full .cd0 p.1 (fun c => { c with counters := [(p.2, { count := -1 })] })
      (setSize p.1).any (fun m => decide (p.2 < m)) = true ∧ beatCounter p.1 p.2 = false ∧ unitRuns (getDie s .cd0) p.1 = true
        ∧ (getSet (getDie s .cd0) p.1).en = true ∧ (setOwner s .cd0 p.1).any (confidential s) = false
        ∧ (tabGet {} (getSet (getDie s .cd0) p.1).counters p.2).count.toNat = 2 ^ 48 - 1)
    ∧ reachesSet full 1 .cd0 0 = true
    ∧ (let s := modDie full .cd0 (fun x => { x with obs := { x.obs with snapArmed := true } });
      (getDie s .cd0).obs.snapArmed = true ∧ (getDie s .cd0).obs.snapTime.toNat ≤ (getDie s .cd0).clk.tb) := by
  decide +kernel

def tap0 (k : Nat) : TapRec := { kind := k, cls := 1, index := 0, sub := 0, part := 0, data := 9, lost := false }
theorem wit_traceAndLogs :
    (∀ r ∈ [{ tap0 0xD with cls := 5 }, { tap0 0xE with cls := 5 }], (tapData full .cd0 r).isSome = true ∧ tapEmits full .cd0 r = true
        ∧ trigMatch (getTrace full .cd0) r.kind r.cls (recPlace r).1 = false)
    ∧ (let s := modTrace full .cd0 (fun t => { t with st := 1, modeNow := 2, causes := 2 }); trigReady (getTrace s .cd0) = true ∧ causesDue s .cd0 = 2)
    ∧ (getTrace full .cd0).en = false ∧ (let v : W64 := 1; bit v.toNat 0 = true ∧ bit v.toNat 3 = false)
    ∧ (let w := 0x7F; let s := prog w; canIssue s lx = true ∧ (isExec lx.stream || (getCell s c0).c.grant.isNone) = true
      ∧ wordAt s lx 0 = some w ∧ opcodeAssigned (opcode w) = false) := by
  decide +kernel

/-- A log that is full, and an empty one whose interrupt is enabled. -/
theorem wit_errorLog : (let e : Elog := { wr := 1024 }; (e.wr - e.rd).toNat = 1024)
    ∧ (let e : Elog := { irqEn := true }; e.wr = e.rd ∧ e.irqEn = true) := by
  decide +kernel

/-- Bytes written by the memory path. -/
theorem wit_memoryReadsBack : Memory.wf full.hbm = true ∧ ∃ t, writePhys full .cd0 0x40 [1, 0, 2] = .ok t :=
  have h : (match writePhys full .cd0 0x40 [1, 0, 2] with
    | .ok _ => true
    | .error _ => false) = true := by decide +kernel
  ⟨by decide +kernel, by
    cases hw : writePhys full .cd0 0x40 [1, 0, 2] with
    | ok t => exact ⟨t, rfl⟩
    | error k => rw [hw] at h; cases h⟩

theorem wit_scalarFrame : canonical (prog 0x10) = true ∧ ready (prog 0x10) lx 0x10 0x10 = true := by decide +kernel
theorem wit_stepRuns : canonical { full with pending := [.nop lx] } = true ∧ step { full with pending := [.nop lx] } = exec (.nop lx) full :=
  ⟨by decide +kernel, rfl⟩
theorem reset_canonical : canonical State.reset = true := by decide +kernel

/-! ### Single steps against values written out from the spec -/

/-- The field of a stream after a step. -/
def after (s : State) (i : Instr) (f : Stream → Nat) : Option Nat :=
  match exec i s with
  | .next t => some (f (getStream t lx))
  | _ => none

/-- ADD of s1 = 1 and an immediate of 2^32 - 1 read as -1, into s2: 0 (R147). -/
theorem test_add_wraps : after (progR (0x10 + 2 ^ 8 * 2 + 2 ^ 13 * 1 + 2 ^ 23 + 2 ^ 32 * 0xFFFFFFFF)) (.add lx) (fun t => (getReg t 2).toNat) = some 0 := by
  decide +kernel
/-- The reserved opcode 7FH raises ILLEGAL_OP, exception code 1 (R145, Table 6.15). -/
theorem test_reserved_opcode : after (prog 0x7F) (.reservedOpcodeIssue lx) (fun t => t.exc) = some 1 := by decide +kernel
/-- LI of FFFFFFFFH is sign-extended (R148). -/
theorem test_li_sign : after (prog (0x1B + 2 ^ 8 * 2 + 2 ^ 32 * 0xFFFFFFFF)) (.li lx) (fun t => (getReg t 2).toNat) = some (2 ^ 64 - 1) := by
  decide +kernel

/-! ### Numbers, against chapter 2 -/

/-- In E4M3 3.0 is 44H, 448 is 7EH, and 500 saturates to it (R31, R47). -/
theorem test_e4m3 : (conv .e4m3 .rne true 0 (.fin false 3 0)).1 = 0x44 ∧ (conv .e4m3 .rne true 0 (.fin false 448 0)).1 = 0x7E
    ∧ (conv .e4m3 .rne true 0 (.fin false 500 0)).1 = 0x7E := by
  decide +kernel
/-- 1 in FP32, FP19, BF16 and FP16 (R29, R31). -/
theorem test_one : [Fmt.fp32, .fp19, .bf16, .fp16].map (fun f => (conv f .rne false 0 (.fin false 1 0)).1) = [0x3F800000, 0x3F800000, 0x3F80, 0x3C00] := by
  decide +kernel

/-! ### Well-formedness: each check refuses a term, and takes the one beside it -/

def s5 (n : Nat) : StreamLoc := { die := .cd0, site := 3, stream := n }
def cAt (n : Nat) : CellLoc := { die := .cd1, site := n }

/-- Operands at the largest value that names something. -/
theorem test_wf_bounds : [Instr.nop (s5 5), .semrelApply (cAt 271) 0, .ewAdd ⟨s5 1, some 63⟩, .slotEntry (cAt 0) 3 true, .streamStart 255 (s5 0),
    .grantStart .cd0 15 (.xfetch 271 0), .grantStart .cd0 0 (.delivery 7 0), .gateTransfer .cd0 15 (.maskLine 271 5), .gateTransfer .cd0 0 (.walk (some 271) 15 0 true),
    .gateTransfer .cd0 0 (.command 31 4294967295),
    .gateTransfer .cd0 0 (.station 7 0), .sectorCheck .cd0 15 true, .broadcastWrite 0 .cd0 true 0 0 8 0, .lineSend .cd0 7 ⟨0, false⟩,
    .microBatchBegin .cd0 7 0 2, .switchClose .cd0 15, .commandWrite 0 .cd0 63 0 [], .billLoad .cd0 63 4294967295, .stepSettleEnd .cd0 4095,
    .functionStartEnd (.queue .cd0 63), .functionStartEnd (.cell .cd0 271), .functionStartEnd (.chainPort .cd0 15), .cpFnEnable 0 .cd0 15 true,
    .bucketTimeout .cd0 255 0, .pageWalk .cd0 15 none 15 0 false, .tlbInvalidate 0 .cd0 15, .patrolRead .cd0 319 0 .corrected, .commandMemoryStore 23 .fence,
    .ucieTraining .cd0 3 0 0 0, .ackOk .cd0 15, .item .cd0 15 (frame0 1), .rtoTimeout .cd0 4095, .bar2Access 15 0 (.read ⟨1, []⟩), .idcode 2, .attest 1,
    .clockRampStep 15, .partRst 0 15, .registerWrite 0 0 4 0].all Instr.wf = true := by
  decide +kernel

/-- One value past it. -/
theorem test_ill_bounds : [Instr.nop (s5 6), .nop { die := .cd0, site := 272, stream := 0 }, .semrelApply (cAt 272) 0, .ewAdd ⟨s5 1, some 64⟩,
    .slotEntry (cAt 0) 4 true, .streamStart 256 (s5 0), .streamStart 0 (s5 6), .grantStart .cd0 16 (.xfetch 0 0), .grantStart .cd0 15 (.xfetch 272 0),
    .grantStart .cd0 0 (.delivery 8 0), .grantStart .cd0 0 (.moverRead 272), .grantStart .cd0 0 (.moverWrite 272), .gateTransfer .cd0 16 .loader,
    .gateTransfer .cd0 0 (.walk (some 272) 0 0 false), .gateTransfer .cd0 0 (.command 32 0), .gateTransfer .cd0 0 (.maskLine 0 6), .gateTransfer .cd0 0 (.maskLine 272 0), .gateTransfer .cd0 0 (.station 8 0),
    .gateTransfer .cd0 0 (.fetchRow 272 0 0), .gateTransfer .cd0 0 (.storeRow 272 0 0), .gateTransfer .cd0 0 (.xfetchPiece 272 0), .sectorCheck .cd0 16 true,
    .broadcastWrite 0 .cd0 true 0 0 5 0, .broadcastWrite 256 .cd0 true 0 0 8 0, .lineSend .cd0 8 ⟨0, false⟩, .microBatchBegin .cd0 8 0 2, .microBatchBegin .cd0 7 0 3,
    .switchClose .cd0 16, .commandWrite 0 .cd0 64 0 [], .commandWrite 0 .cd0 0 0 (List.replicate 257 0), .billLoad .cd0 64 0, .billLoad .cd0 0 4294967296,
    .stepSettleEnd .cd0 4096, .functionStartEnd (.queue .cd0 64), .functionStartEnd (.cell .cd0 272), .functionStartEnd (.chainPort .cd0 16),
    .cpFnEnable 0 .cd0 16 true, .bucketTimeout .cd0 256 0, .pageWalk .cd0 16 none 0 0 false, .pageWalk .cd0 0 none 16 0 false, .tlbInvalidate 0 .cd0 16,
    .patrolRead .cd0 320 0 .corrected, .commandMemoryStore 24 .fence, .ucieTraining .cd0 4 0 0 0, .ackOk .cd0 16, .item .cd0 16 (frame0 1),
    .item .cd0 0 { frame0 1 with dstMac := 2 ^ 48 }, .rtoTimeout .cd0 4096, .bar2Access 16 0 (.read ⟨1, []⟩), .idcode 3, .attest 2, .clockRampStep 16,
    .partRst 0 16, .partRst 256 0, .registerWrite 0 0 2 0].any Instr.wf = false := by
  decide +kernel

end Sys2Proof.Tests
end

section
/-! Proofs about the number formats of spec/02_formats.md: block scales (R36), LX sums (R53) and the conversion of a NaN (R34, R47). -/

namespace Sys2Proof.Machine

/-! ### Two's complement -/

@[simp] theorem unsigned_mod (w : Nat) (x : Int) : unsigned w x % 2 ^ w = unsigned w x := by
  have hpos : (0 : Int) < (2 ^ w : Nat) := by positivity
  have hlt := Int.emod_lt_of_pos x hpos
  exact Nat.mod_eq_of_lt (by unfold unsigned; omega)

theorem unsigned_cast (w : Nat) (x : Int) : (unsigned w x : Int) = x % (2 ^ w : Nat) :=
  Int.toNat_of_nonneg (Int.emod_nonneg x (by positivity))

theorem two_pow_eq_two_mul_half (w : Nat) (hw : 0 < w) : 2 ^ w = 2 * 2 ^ (w - 1) := by
  rw [← Nat.pow_succ', Nat.succ_eq_add_one, Nat.sub_add_cancel hw]

/-- Storing an integer in `w` bits and reading it back is the balanced remainder modulo 2^w. -/
theorem signed_unsigned (w : Nat) (hw : 0 < w) (x : Int) : signed w (unsigned w x) = x.bmod (2 ^ w) := by
  have hhalf := two_pow_eq_two_mul_half w hw
  have hcut : unsigned w x < 2 ^ (w - 1) ↔ x % (2 ^ w : Nat) < ((2 ^ w : Nat) + 1) / 2 := by
    rw [← unsigned_cast, hhalf]
    omega
  simp only [signed, unsigned_mod, hcut, unsigned_cast, Int.bmod]

/-! ### Sums of LX values (R53) -/

theorem lxAdd_eq (w : Nat) (hw : 0 < w) (x y : Int) :
    lxAdd w x y = ((x + y).bmod (2 ^ w), (x + y).bmod (2 ^ w) != x + y) := by
  simp only [lxAdd, signed_unsigned w hw]

/-- The integers that a two's-complement number of `w` bits holds. -/
def fitsSigned (w : Nat) (z : Int) : Prop := -(2 ^ (w - 1) : Int) ≤ z ∧ z < 2 ^ (w - 1)

theorem bmod_fitsSigned (w : Nat) (hw : 0 < w) (x : Int) : fitsSigned w (x.bmod (2 ^ w)) := by
  have hhalf : ((2 ^ w : Nat) : Int) = 2 * 2 ^ (w - 1) := mod_cast two_pow_eq_two_mul_half w hw
  have hge := Int.le_bmod (x := x) (m := 2 ^ w) (by positivity)
  have hlt := Int.bmod_lt (x := x) (m := 2 ^ w) (by positivity)
  unfold fitsSigned
  omega

theorem bmod_of_fitsSigned (w : Nat) (hw : 0 < w) (x : Int) (h : fitsSigned w x) : x.bmod (2 ^ w) = x := by
  have hhalf : ((2 ^ w : Nat) : Int) = 2 * 2 ^ (w - 1) := mod_cast two_pow_eq_two_mul_half w hw
  obtain ⟨hge, hlt⟩ := h
  exact Int.bmod_eq_of_le_mul_two (by omega) (by omega)

theorem lxAdd_of_fits (w : Nat) (hw : 0 < w) (x y : Int) (h : fitsSigned w (x + y)) : lxAdd w x y = (x + y, false) := by
  rw [lxAdd_eq w hw, bmod_of_fitsSigned w hw _ h, bne_self_eq_false]

/-- The stored value lies in the range and the sum does not, so the two differ and LX_OVF is set. -/
theorem lxAdd_of_not_fits (w : Nat) (hw : 0 < w) (x y : Int) (h : ¬ fitsSigned w (x + y)) :
    lxAdd w x y = ((x + y).bmod (2 ^ w), true) := by
  have hne : (x + y).bmod (2 ^ w) ≠ x + y := fun heq => h (heq ▸ bmod_fitsSigned w hw (x + y))
  rw [lxAdd_eq w hw, bne_iff_ne.mpr hne]

/-! ### Block scales (R36) -/

theorem decodeScale_of_lt (c : Nat) (hc : c < 255) : decodeScale c = .fin false 1 ((c : Int) - 127) := by
  have hmod : c % 256 = c := Nat.mod_eq_of_lt (by omega)
  rw [decodeScale, hmod, if_neg (by omega)]

theorem decodeScale_ff : decodeScale 0xFF = .nan false := rfl

/-! ### NaN conversion (R34, R47) -/

theorem conv_nan (f : Fmt) (hf : fmtIsInt f = false) (r : Rnd) (sat neg : Bool) (u : Nat) :
    conv f r sat u (.nan neg) = (canonNan f neg, { nonfinite := true }) := by
  simp [conv, hf, convFp]

/-- Table 2.4: each format that has a NaN, with its positive and its negative canonical NaN. -/
def nanTable : List (Fmt × Nat × Nat) :=
  [(.fp32, 0x7FC00000, 0xFFC00000), (.fp19, 0x7FC00000, 0xFFC00000), (.bf16, 0x7FC0, 0xFFC0), (.fp16, 0x7E00, 0xFE00),
    (.e4m3, 0x7F, 0xFF), (.e5m2, 0x7E, 0xFE)]

theorem nanTable_not_int : ∀ p ∈ nanTable, fmtIsInt p.1 = false := by decide

theorem canonNan_nanTable : ∀ neg, ∀ p ∈ nanTable, canonNan p.1 neg = if neg then p.2.2 else p.2.1 := by decide

theorem conv_nan_nanTable (r : Rnd) (sat neg : Bool) (u : Nat) (p : Fmt × Nat × Nat) (hp : p ∈ nanTable) :
    conv p.1 r sat u (.nan neg) = (if neg then p.2.2 else p.2.1, { nonfinite := true }) := by
  rw [conv_nan p.1 (nanTable_not_int p hp), canonNan_nanTable neg p hp]

/-- R38, step 2. -/
theorem convBlock_of_nonfinite (f : Fmt) (r : Rnd) (vs : List Val) (us : List Nat) (v : Val) (hv : v ∈ vs) (hn : v.nonfinite = true) :
    convBlock f r vs us = (0xFF, vs.map (fun _ => 0), { nonfinite := true }) := by
  rw [convBlock, if_pos (List.any_of_mem hv hn)]

/-- Settles O52, from what each of the four functions does with its cases. -/
theorem numberFormats : Obligations.NumberFormats := by
  refine ⟨decodeScale_of_lt, decodeScale_ff, ?lx, conv_nan_nanTable, ?block⟩
  case lx =>
    intro w x y hw
    have hpos : 0 < w := by omega
    refine ⟨lxAdd_of_fits w hpos x y, fun hout => ?_⟩
    have hnot : ¬ fitsSigned w (x + y) := by unfold fitsSigned; omega
    obtain ⟨hge, hlt⟩ := bmod_fitsSigned w hpos (x + y)
    have hdvd : ((2 ^ w : Nat) : Int) ∣ x + y - (x + y).bmod (2 ^ w) := Int.dvd_self_sub_bmod
    exact ⟨_, lxAdd_of_not_fits w hpos x y hnot, hge, hlt, mod_cast hdvd⟩
  case block =>
    rintro f r vs us ⟨neg, hmem⟩
    rw [convBlock_of_nonfinite f r vs us (.nan neg) hmem rfl]

end Sys2Proof.Machine
end

section
/-! Proofs about the semaphores, the data queues and the version wait of a stream (R122, R123, R160, R161, R177). -/

namespace Sys2Proof.Machine

section ReadyStream

variable {s : State} {l : StreamLoc} {o w : Nat} {body : Nat → Issue}

/-! ### The issue of a ready instruction, by the outcome of its body -/

theorem issue_done {t : State} (h : ready s l o w = true) (hb : body w = .done t) : nx (issue s l (isOp o) body) = issued s l t := by
  rw [issue_isOp h, hb]
  exact finish_done s t l

theorem issue_raise {code : Nat} (h : ready s l o w = true) (hb : body w = .raise code) :
    nx (issue s l (isOp o) body) = .next (raiseIssue s l code) := by
  rw [issue_isOp h, hb]
  rfl

/-- Only a wait for a late mask line asks its memory gate for anything. -/
theorem issue_hold {wt : Wait} (h : ready s l o w = true) (hw : wt ≠ .memoryLate) (hb : body w = .hold wt) :
    nx (issue s l (isOp o) body) = .next (modStream s l (fun t => { t with wait := wt })) := by
  rw [issue_isOp h, hb, finishIssue, if_neg hw]
  rfl

/-! ### The application of a release (R141, R177) -/

theorem execSemrelApply_of_due {c : CellLoc} {op n : Nat} {r : Op} (hfind : findOp (getCell s c).m op = some r) (hkind : r.kind = .semrel n)
    (hstores : (getCell s c).m.ops.any (fun y => decide (y.id < op) && y.stream == r.stream && opStores y) = false)
    (hroom : getSem (getCell s c).c n < 255) :
    execSemrelApply c op s
      = nx (modM (modC s c (fun k => setSem k n (getSem k n + 1))) c (fun m => removeOp m op)) := by
  have hnotFull : decide (255 ≤ getSem (getCell s c).c n) = false := decide_eq_false (by omega)
  simp [execSemrelApply, hfind, hkind, hstores, hnotFull]

end ReadyStream

/-- Settles O6: each clause is the branch of the instruction's body that its premises select. -/
theorem semaphoresAndQueues : Obligations.SemaphoresAndQueues := by
  intro s l w op r
  refine ⟨?semacq, ?semrel, ?semrelApply, ?push, ?pop, rfl, ?pushDirection, ?popDirection, ?pushFull, ?popEmpty, ?waitv⟩
  case semacq =>
    intro h hunits
    exact issue_done h (if_neg (by omega))
  case semrel =>
    intro h hpending
    have hexc : noExc [(decide (255 ≤ semPending (getCell s (cellOf l)) (fld w 11 8)), xSemOvf)] = true := by
      simp [noExc, hpending]
    exact issue_done h (orElse_noExc hexc _)
  case semrelApply =>
    intro n hfind hkind hstores hroom
    exact execSemrelApply_of_due hfind hkind hstores hroom
  case push =>
    intro h hdir hroom
    exact issue_done h (by simp [hdir, hroom])
  case pop =>
    intro v rest h hdir hq
    exact issue_done h (by simp [hdir, hq])
  case pushDirection =>
    intro h hdir
    exact issue_raise h (by simp [hdir])
  case popDirection =>
    intro h hdir
    exact issue_raise h (by simp [hdir])
  case pushFull =>
    intro h hdir hfull
    exact issue_hold h (by decide) (by simp [hdir, hfull])
  case popEmpty =>
    intro h hdir hq
    exact issue_hold h (by decide) (by simp [hdir, hq])
  case waitv =>
    intro e h he hv
    exact issue_done h (by simp [he, hv])

end Sys2Proof.Machine
end

section
/-! Proofs about branches, jumps, loops and the exceptions of loop ends (R148, R150 to R155). -/

namespace Sys2Proof.Machine

/-! ### What a stream reads as after an update of the state -/

theorem streamOf_setStreamOf (c : Cell) (x : Stream) : ∀ n < 6, streamOf (setStreamOf c n x) n = x
  | 0, _ | 1, _ | 2, _ | 3, _ | 4, _ | 5, _ => rfl

theorem canonical_cells {s : State} (hs : canonical s = true) (d : DieId) : tabWf {} (getDie s d).cells = true := by
  simp only [canonical, Bool.and_eq_true] at hs
  obtain ⟨⟨-, h0⟩, h1⟩ := hs
  cases d
  · exact h0
  · exact h1

theorem getCell_setCell {s : State} (hs : canonical s = true) (c : CellLoc) (x : CellAll) : getCell (setCell s c x) c = x := by
  rw [getCell, setCell, getDie_modDie]
  exact tabGet_tabSet_self {} c.site x _ (canonical_cells hs c.die)

theorem getStream_modStream {s : State} {l : StreamLoc} (hs : canonical s = true) (hl : l.stream < 6) (f : Stream → Stream) :
    getStream (modStream s l f) l = f (getStream s l) := by
  rw [getStream, modStream, modC, modCell, getCell_setCell hs]
  exact streamOf_setStreamOf _ _ l.stream hl

@[simp] theorem getCell_sendOverflow (s : State) (d : DieId) (k i : Nat) (c : CellLoc) : getCell (sendOverflow s d k i) c = getCell s c := by
  simp [getCell]

@[simp] theorem getCell_bump (s : State) (d : DieId) (k i n : Nat) (c : CellLoc) : getCell (bump s d k i n) c = getCell s c := by
  unfold bump
  split
  · rfl
  · dsimp only
    rw [getCell_modDie _ _ _ _ rfl]
    split
    · exact getCell_sendOverflow s d k i c
    · rfl

@[simp] theorem getStream_countIssue (s : State) (l k : StreamLoc) : getStream (countIssue s l) k = getStream s k := by
  simp [getStream, countIssue]

@[simp] theorem getStream_streamEvent (s : State) (l k : StreamLoc) (e : Nat) : getStream (streamEvent s l e) k = getStream s k := by
  unfold streamEvent
  split
  · rfl
  · dsimp only
    split <;> simp [getStream]

theorem getStream_goTo {s : State} {l : StreamLoc} (hs : canonical s = true) (hl : l.stream < 6) (target : Nat) :
    getStream (goTo s l target) l
      = { getStream s l with loops := loopLeave (getStream s l).loops target, pc := BitVec.ofNat 32 target, wait := .none } := by
  rw [goTo, getStream_countIssue, getStream_modStream hs hl]

theorem getStream_moveOn {s : State} {l : StreamLoc} (hs : canonical s = true) (hl : l.stream < 6) (pc : Nat) :
    getStream (moveOn s l pc) l
      = { getStream s l with
          loops := (loopBack (getStream s l).loops pc).1, pc := BitVec.ofNat 32 (loopBack (getStream s l).loops pc).2, wait := .none } := by
  rw [moveOn, getStream_countIssue, getStream_modStream hs hl]

theorem getStream_raiseIssue {s : State} {l : StreamLoc} (hs : canonical s = true) (hl : l.stream < 6) (code : Nat) :
    getStream (raiseIssue s l code) l
      = { getStream s l with
          st := .exception, exc := code, excPc := (getStream s l).pc, excOp := none, excAt := some (beatNow s l), wait := .none } := by
  rw [raiseIssue, getStream_streamEvent, getStream_modStream hs hl]

/-! ### The lowest exception of a list in order of codes (R180) -/

theorem orElse_cons_false (c : Nat) (xs : List (Bool × Nat)) (r : Issue) : orElse ((false, c) :: xs) r = orElse xs r := by
  have hskip : lowestExc ((false, c) :: xs) = lowestExc xs := by
    rw [lowestExc]
    split <;> simp [*]
  rw [orElse, hskip, orElse]

theorem lowestExc_mem {xs : List (Bool × Nat)} {c : Nat} (h : lowestExc xs = some c) : ∃ p ∈ xs, p.2 = c := by
  induction xs with
  | nil => simp [lowestExc] at h
  | cons p r ih =>
    rw [lowestExc] at h
    split at h
    next => exact ⟨p, List.mem_cons_self, by simp_all⟩
    next x hx =>
      split at h
      · exact ⟨p, List.mem_cons_self, Option.some.inj h⟩
      · obtain ⟨q, hq, hqc⟩ := ih (hx.trans h)
        exact ⟨q, List.mem_cons_of_mem p hq, hqc⟩

theorem orElse_cons_true {c : Nat} {xs : List (Bool × Nat)} (hlow : ∀ p ∈ xs, c < p.2) (r : Issue) : orElse ((true, c) :: xs) r = .raise c := by
  have hfirst : lowestExc ((true, c) :: xs) = some c := by
    rw [lowestExc]
    split
    next => rfl
    next x hx =>
      obtain ⟨p, hp, rfl⟩ := lowestExc_mem hx
      simp [hlow p hp]
  rw [orElse, hfirst]

/-! ### The loop stack -/

theorem loopLeave_of_inside {v : LoopLevel} {target : Nat} (h : v.first ≤ target ∧ target ≤ v.last) (r : List LoopLevel) :
    loopLeave (v :: r) target = v :: r := by
  simp [loopLeave, inBody, h]

theorem loopLeave_of_outside {v : LoopLevel} {target : Nat} (h : target < v.first ∨ v.last < target) (r : List LoopLevel) :
    loopLeave (v :: r) target = r.filter (fun y => decide (y.first ≤ target) && decide (target ≤ y.last)) := by
  have hout : inBody v target = false := by
    simp only [inBody, Bool.and_eq_false_iff, decide_eq_false_iff_not]
    omega
  rw [loopLeave, hout]
  rfl

theorem loopBack_of_ne {v : LoopLevel} {pc : Nat} (h : v.last ≠ pc) (r : List LoopLevel) : loopBack (v :: r) pc = (v :: r, (pc + 8) % 2 ^ 32) := by
  rw [loopBack, if_neg h]

theorem loopBack_of_left {v : LoopLevel} {pc : Nat} (h : v.last = pc) (hleft : 1 < v.left) (r : List LoopLevel) :
    loopBack (v :: r) pc = ({ v with left := v.left - 1, iter := v.iter + 1 } :: r, v.first) := by
  rw [loopBack, if_pos h, if_pos hleft]

theorem loopBack_of_last {v : LoopLevel} {pc : Nat} (h : v.last = pc) (hleft : v.left ≤ 1) (r : List LoopLevel) :
    loopBack (v :: r) pc = loopBack r pc := by
  rw [loopBack, if_pos h, if_neg (by omega)]

section IssuesOfLoops

variable {s : State} {l : StreamLoc} {o w : Nat} {body : Nat → Issue}

/-! ### The issue of a ready instruction that sets its stream's place itself -/

theorem issue_jump {u : State} {target : Nat} (h : ready s l o w = true) (hal : target % 8 = 0) (hb : body w = .jump u target) :
    nx (issue s l (isOp o) body) = .next (goTo u l target) := by
  rw [issue_isOp h, hb, finishIssue, if_neg (by omega)]
  rfl

theorem issue_loop {levels : List LoopLevel} {next : Nat} (h : ready s l o w = true) (hb : body w = .loop s levels next) :
    nx (issue s l (isOp o) body)
      = .next (countIssue (modStream s l (fun t => { t with loops := levels, pc := BitVec.ofNat 32 next, wait := .none })) l) := by
  rw [issue_isOp h, hb]
  rfl

/-! ### Branches, jumps and HALT (R148, R154, R155) -/

theorem branch_away_from_loop_end {i : Instr} {f : W64 → W64 → Bool} (hi : exec i s = branch s l o f) (h : ready s l o w = true)
    (hend : atLoopEnd (getStream s l).loops (getStream s l).pc.toNat = false) :
    let t := getStream s l
    let taken := f (getReg t (fRS1 w)) (getReg t (fRS2 w))
    let target := pcPlus t.pc.toNat (fIMMs w)
    (taken = false → exec i s = issued s l s) ∧ (taken = true → target % 8 = 0 → exec i s = .next (goTo s l target)) := by
  dsimp only
  rw [hi]
  refine ⟨fun htaken => issue_done h ?falls, fun htaken hal => issue_jump h hal ?leaves⟩
  case falls => simp [htaken, hend, orElse_noExc, noExc]
  case leaves => simp [htaken, hal, hend, orElse_noExc, noExc]

theorem branch_at_loop_end {i : Instr} {f : W64 → W64 → Bool} (hi : exec i s = branch s l o f) (h : ready s l o w = true)
    (hal : pcPlus (getStream s l).pc.toNat (fIMMs w) % 8 = 0)
    (hend : atLoopEnd (getStream s l).loops (getStream s l).pc.toNat = true) : exec i s = .next (raiseIssue s l xLoopEnd) := by
  rw [hi]
  exact issue_raise h (by simp [hal, hend, orElse_cons_false, orElse_cons_true])

theorem jumpTo_away_from_loop_end {target : Nat} (hal : target % 8 = 0)
    (hend : atLoopEnd (getStream s l).loops (getStream s l).pc.toNat = false) :
    jumpTo s l w target = .jump (modStream s l (fun t => setReg t (fRD w) (BitVec.ofNat 64 (t.pc.toNat + 8)))) target :=
  orElse_noExc (by simp [noExc, hal, hend]) _

theorem jumpTo_at_loop_end {target : Nat} (hal : target % 8 = 0)
    (hend : atLoopEnd (getStream s l).loops (getStream s l).pc.toNat = true) : jumpTo s l w target = .raise xLoopEnd := by
  simp [jumpTo, hal, hend, orElse_cons_false, orElse_cons_true]

theorem halt_at_loop_end (h : ready s l 0x01 w = true) (hend : atLoopEnd (getStream s l).loops (getStream s l).pc.toNat = true) :
    exec (.halt l) s = .next (raiseIssue s l xLoopEnd) :=
  issue_raise h (by simp [hend, orElse_cons_true])

/-! ### LOOP and LOOPI (R150, R151, R155) -/

variable {count : Nat}

/-- The PC_RANGE condition of a LOOP fails where END is a positive multiple of 8. -/
theorem decide_end_bad (hpos : 0 < fIMMs w) (hal : fIMMs w % 8 = 0) : (decide (fIMMs w ≤ 0) || fIMMs w % 8 != 0) = false := by
  simp [hal, hpos]

/-- The LOOP_DEPTH condition fails where no level is pushed or one is free. -/
theorem decide_too_deep {depth : Nat} (h : count = 0 ∨ depth < 4) : (decide (0 < count) && decide (4 ≤ depth)) = false := by
  simp only [Bool.and_eq_false_iff, decide_eq_false_iff_not]
  omega

theorem noExc_loopExcs {t : Stream} (hpos : 0 < fIMMs w) (hal : fIMMs w % 8 = 0) (hdepth : count = 0 ∨ t.loops.length < 4)
    (hend : atLoopEnd t.loops t.pc.toNat = false) : noExc (loopExcs t w count) = true := by
  simp [noExc, loopExcs, decide_end_bad hpos hal, decide_too_deep hdepth, hend]

theorem enterLoop_of_positive (hpos : 0 < fIMMs w) (hal : fIMMs w % 8 = 0)
    (hend : atLoopEnd (getStream s l).loops (getStream s l).pc.toNat = false) (hcount : 0 < count) (hdepth : (getStream s l).loops.length < 4) :
    let pc := (getStream s l).pc.toNat
    enterLoop s l w count
      = .loop s ({ first := pc + 8, last := pc + (fIMMs w).toNat, left := count, iter := 0 } :: (getStream s l).loops) (pc + 8) := by
  intro pc
  rw [enterLoop, orElse_noExc (noExc_loopExcs hpos hal (.inr hdepth) hend), if_neg (by omega)]

theorem enterLoop_of_zero_outside (hpos : 0 < fIMMs w) (hal : fIMMs w % 8 = 0) (hcount : count = 0) (houter : (getStream s l).loops = []) :
    enterLoop s l w count = .loop s [] (((getStream s l).pc.toNat + (fIMMs w).toNat + 8) % 2 ^ 32) := by
  have hend : atLoopEnd (getStream s l).loops (getStream s l).pc.toNat = false := by rw [houter]; rfl
  rw [enterLoop, orElse_noExc (noExc_loopExcs hpos hal (.inl hcount) hend), if_pos hcount, houter]
  rfl

theorem enterLoop_of_bad_end (hbad : fIMMs w ≤ 0 ∨ fIMMs w % 8 ≠ 0) : enterLoop s l w count = .raise xPcRange := by
  have hrange : (decide (fIMMs w ≤ 0) || fIMMs w % 8 != 0) = true := by simpa using hbad
  rw [enterLoop, loopExcs, hrange]
  exact orElse_cons_true (by simp [xPcRange, xLoopDepth, xLoopEnd]) _

theorem enterLoop_of_four_levels (hpos : 0 < fIMMs w) (hal : fIMMs w % 8 = 0) (hcount : 0 < count) (hdepth : 4 ≤ (getStream s l).loops.length) :
    enterLoop s l w count = .raise xLoopDepth := by
  have hfull : (decide (0 < count) && decide (4 ≤ (getStream s l).loops.length)) = true := by simp [hcount, hdepth]
  rw [enterLoop, loopExcs, decide_end_bad hpos hal, orElse_cons_false, hfull]
  exact orElse_cons_true (by simp [xLoopDepth, xLoopEnd]) _

theorem enterLoop_at_loop_end (hpos : 0 < fIMMs w) (hal : fIMMs w % 8 = 0) (hdepth : count = 0 ∨ (getStream s l).loops.length < 4)
    (hend : atLoopEnd (getStream s l).loops (getStream s l).pc.toNat = true) : enterLoop s l w count = .raise xLoopEnd := by
  rw [enterLoop, loopExcs, decide_end_bad hpos hal, orElse_cons_false, decide_too_deep hdepth, orElse_cons_false, hend]
  exact orElse_cons_true (by simp) _

theorem loop_enters (hb : body w = enterLoop s l w count) (h : ready s l o w = true) (hpos : 0 < fIMMs w) (hal : fIMMs w % 8 = 0)
    (hend : atLoopEnd (getStream s l).loops (getStream s l).pc.toNat = false) :
    let pc := (getStream s l).pc.toNat
    (0 < count → (getStream s l).loops.length < 4 →
      nx (issue s l (isOp o) body) = .next (countIssue (modStream s l (fun t => { t with
        loops := { first := pc + 8, last := pc + (fIMMs w).toNat, left := count, iter := 0 } :: (getStream s l).loops
        pc := BitVec.ofNat 32 (pc + 8), wait := .none })) l))
    ∧ (count = 0 → (getStream s l).loops = [] →
      nx (issue s l (isOp o) body) = .next (countIssue (modStream s l (fun t => { t with
        loops := [], pc := BitVec.ofNat 32 ((pc + (fIMMs w).toNat + 8) % 2 ^ 32), wait := .none })) l)) :=
  ⟨fun hcount hdepth => issue_loop h (hb.trans (enterLoop_of_positive hpos hal hend hcount hdepth)),
    fun hcount houter => issue_loop h (hb.trans (enterLoop_of_zero_outside hpos hal hcount houter))⟩

theorem loop_raises (hb : body w = enterLoop s l w count) (h : ready s l o w = true) :
    let t := getStream s l
    ((fIMMs w ≤ 0 ∨ fIMMs w % 8 ≠ 0) → nx (issue s l (isOp o) body) = .next (raiseIssue s l xPcRange))
    ∧ (0 < fIMMs w → fIMMs w % 8 = 0 →
      (0 < count → 4 ≤ t.loops.length → nx (issue s l (isOp o) body) = .next (raiseIssue s l xLoopDepth))
      ∧ ((count = 0 ∨ t.loops.length < 4) → atLoopEnd t.loops t.pc.toNat = true →
          nx (issue s l (isOp o) body) = .next (raiseIssue s l xLoopEnd))) :=
  ⟨fun hbad => issue_raise h (hb.trans (enterLoop_of_bad_end hbad)), fun hpos hal =>
    ⟨fun hcount hdepth => issue_raise h (hb.trans (enterLoop_of_four_levels hpos hal hcount hdepth)),
      fun hdepth hend => issue_raise h (hb.trans (enterLoop_at_loop_end hpos hal hdepth hend))⟩⟩

end IssuesOfLoops

/-- Settles O3: a branch by its condition, a jump by its target, and the levels left by `loopLeave`. -/
theorem controlTransfer : Obligations.ControlTransfer := by
  intro s l w t pc a b target branches
  refine ⟨branch_away_from_loop_end (exec_beq l s), branch_away_from_loop_end (exec_bne l s), branch_away_from_loop_end (exec_blt l s),
    branch_away_from_loop_end (exec_bge l s), branch_away_from_loop_end (exec_bltu l s), branch_away_from_loop_end (exec_bgeu l s),
    ?jal, ?jr, ?levels⟩
  case jal =>
    intro h hend hal
    exact issue_jump h hal (jumpTo_away_from_loop_end hal hend)
  case jr =>
    intro h hend jr hal
    exact issue_jump h hal (jumpTo_away_from_loop_end hal hend)
  case levels =>
    intro u v r dst hu hl hloops
    rw [getStream_goTo hu hl, hloops]
    exact ⟨fun hin => loopLeave_of_inside hin r, fun hout => loopLeave_of_outside hout r⟩

/-- Settles O4: LOOP and LOOPI enter a loop alike, each with its own count. -/
theorem loops : Obligations.Loops := by
  intro s l w t pc enters
  exact ⟨loop_enters rfl, loop_enters rfl⟩

/-- Settles O58, from the exception that each body raises and from what the stream reads as after it. -/
theorem loopExceptions : Obligations.LoopExceptions := by
  refine ⟨?raises, fun v r pc => ⟨rfl, fun h => loopBack_of_ne h r, fun h hleft => loopBack_of_left h hleft r,
    fun h hleft => loopBack_of_last h hleft r⟩⟩
  intro s l w t pc atEnd goes loops branches
  refine ⟨loop_raises rfl, loop_raises rfl, branch_at_loop_end (exec_beq l s), branch_at_loop_end (exec_bne l s),
    branch_at_loop_end (exec_blt l s), branch_at_loop_end (exec_bge l s), branch_at_loop_end (exec_bltu l s),
    branch_at_loop_end (exec_bgeu l s), ?jal, ?jr, halt_at_loop_end, ?stream, ?moves⟩
  case jal =>
    intro h hal hend
    exact issue_raise h (jumpTo_at_loop_end hal hend)
  case jr =>
    intro h hal hend
    exact issue_raise h (jumpTo_at_loop_end hal hend)
  case stream =>
    intro c hs hl
    exact getStream_raiseIssue hs hl c
  case moves =>
    intro u p hu hl
    exact ⟨rfl, getStream_moveOn hu hl pc⟩

end Sys2Proof.Machine
end

section
/-! The Bill commands (R213, Table 7.17). -/

namespace Sys2Proof.Machine

/-- Past the start of the command and the test of its owner, the slot's state and the selects decide (R213, Table 7.17). -/
theorem billUnload_of_owner {s : State} {d : DieId} {q cseq : Nat} {c : Started} (hc : freshCmd s d q cseq 0x11 = some c)
    (ho : ownerSlot s d (cmdF c.word 0x10 1) = some (queuePart s d q)) :
    let r : CmdRef := { q := q, cseq := cseq }
    let slot := cmdF c.word 0x10 1
    let st := (getSlot (getDie s d) slot).st
    exec (.billUnload d q cseq) s =
      if st = .empty then .next (doneCmd s d r 0 0)
      else if st ≠ .loaded ∨ slotNamed s d (queuePart s d q) slot = true then .next (failCmd s d r 0x29)
      else .next (modSlot (doneCmd s d r 0 0) d slot (fun x => { st := .empty, lastStatus := x.lastStatus })) := by
  rw [exec_billUnload, execBillUnload, hc]
  exact if_neg (not_not_intro ho)

/-- Settles O59, by the state of the slot: LOADED and not named, EMPTY, and every other. -/
theorem billUnload : Obligations.BillUnload := by
  intro s d q cseq c r p slot st hc ho
  rw [billUnload_of_owner hc ho]
  refine ⟨?loaded, fun hempty => if_pos hempty, ?busy⟩
  case loaded =>
    intro hloaded hfree
    have hne : st ≠ .empty := by simp [hloaded]
    have hidle : ¬ (st ≠ .loaded ∨ slotNamed s d p slot = true) := by simp [hloaded, hfree]
    exact (if_neg hne).trans (if_neg hidle)
  case busy =>
    intro hne hbusy
    exact (if_neg hne).trans (if_pos hbusy)

end Sys2Proof.Machine
end

section
/-! Proofs about HBM (R296, R306) and the error logs (R459, R460). -/

namespace Sys2Proof.Machine

/-! ### What a store leaves in HBM -/

/-- A run of writes reads back. -/
theorem tabRead_tabWrite {α : Type} [DecidableEq α] (d : α) : ∀ (vs : List α) (t : Tab α) (k : Nat), tabWf d t = true →
    tabRead d (tabWrite d t k vs) k vs.length = vs
  | [], _, _, _ => rfl
  | v :: vs, t, k, h => by
    have hw := tabWf_tabSet d k v t h
    have hhead : tabGet d (tabWrite d (tabSet d t k v) (k + 1) vs) k = v := by
      rw [tabGet_tabWrite_out d vs _ _ _ (by omega), tabGet_tabSet_self d k v t h]
    rw [List.length_cons, tabRead, tabWrite, hhead, tabRead_tabWrite d vs _ (k + 1) hw]

/-- Uses of lines at their homes change which lines are cached and dirty, and nothing else of the die. -/
theorem foldl_cacheUse_eq (dirty : Bool) (ls : List Nat) (x : Die) :
    ∃ lines dirties, ls.foldl (cacheUse dirty) x = { x with cacheLines := lines, cacheDirty := dirties } := by
  induction ls generalizing x with
  | nil => exact ⟨_, _, rfl⟩
  | cons l ls ih =>
    obtain ⟨lines, dirties, hx⟩ := ih (cacheUse dirty x l)
    exact ⟨lines, dirties, hx⟩

theorem getDie_storeHbm (s : State) (hpa : Nat) (bs : List Byte) :
    ∃ lines dirties, getDie (storeHbm s hpa bs) (hpaDie hpa) = { getDie s (hpaDie hpa) with
      cacheLines := lines, cacheDirty := dirties
      cacheLost := (getDie s (hpaDie hpa)).cacheLost.filter
        (fun l => !(decide (hpa ≤ l * 256) && decide (l * 256 + 256 ≤ hpa + bs.length))) } := by
  obtain ⟨lines, dirties, hx⟩ := foldl_cacheUse_eq true (lines256 hpa bs.length) (getDie s (hpaDie hpa))
  refine ⟨lines, dirties, ?_⟩
  rw [storeHbm, getDie_modDie]
  cases hd : hpaDie hpa <;> simp only [hd, getDie] at hx ⊢ <;> rw [hx]

theorem storeHbm_hbmBad (s : State) (hpa : Nat) (bs : List Byte) : (storeHbm s hpa bs).hbmBad =
    s.hbmBad.filter (fun u => !(decide (hpa ≤ u * 32) && decide (u * 32 + 32 ≤ hpa + bs.length))) := by
  simp [storeHbm]

/-- What is uncorrectable in the range of a write that is not blocked lies in accesses and lines that it covers whole. -/
theorem hbmUncorr_storeHbm {s : State} {hpa : Nat} {bs : List Byte} (h : writeBlocked s hpa bs.length = false) :
    hbmUncorr (storeHbm s hpa bs) hpa bs.length = false := by
  obtain ⟨lines, dirties, hx⟩ := getDie_storeHbm s hpa bs
  simp only [writeBlocked, Bool.or_eq_false_iff, List.any_eq_false] at h
  obtain ⟨hunits, hlines⟩ := h
  simp only [hbmUncorr, Bool.or_eq_false_iff, List.any_eq_false, hx, storeHbm_hbmBad]
  refine ⟨fun u hu hbad => hunits u hu ?_, fun l hl hbad => hlines l hl ?_⟩
  · simpa [List.mem_filter] using hbad
  · refine Bool.or_eq_true_iff.mpr ((Bool.or_eq_true_iff.mp hbad).imp (fun hlost => ?_) id)
    simpa [List.mem_filter] using hlost

/-- A write is accepted where the die can be reached, the range lies in its memory and nothing blocks it. -/
theorem writePhys_open {s t : State} {d : DieId} {hpa : Nat} {bs : List Byte} (h : writePhys s d hpa bs = .ok t) :
    ¬ (hpaDie hpa ≠ d ∧ (!(getDie s (hpaDie hpa)).clk.running) = true)
      ∧ ¬ capacity (getDie s (hpaDie hpa)) < hpaOff hpa + bs.length ∧ writeBlocked s hpa bs.length = false := by
  unfold writePhys at h
  dsimp only at h
  split at h
  · cases h
  next hreach =>
    split at h
    · cases h
    next hcap =>
      split at h
      · cases h
      next hopen => exact ⟨hreach, hcap, Bool.eq_false_iff.mpr hopen⟩

/-- Settles O54: nothing uncorrectable is left in the range, and a run of writes reads back. -/
theorem memoryReadsBack : Obligations.MemoryReadsBack := by
  intro s t d hpa bs hwf ht
  obtain ⟨hreach, hcap, hopen⟩ := writePhys_open ht
  cases writePhys_ok ht
  obtain ⟨lines, dirties, hx⟩ := getDie_storeHbm s hpa bs
  refine ⟨?reads, storeHbm_wf s hpa bs hwf, fun a ha => ?frame⟩
  case reads =>
    rw [readPhys, hx]
    dsimp only
    rw [if_neg hreach, if_neg (by exact hcap), if_neg (Bool.eq_false_iff.mp (hbmUncorr_storeHbm hopen)), readHbm, storeHbm_hbm,
      tabRead_tabWrite 0 bs s.hbm hpa hwf]
  case frame =>
    rw [storeHbm_hbm]
    exact tabGet_tabWrite_out 0 bs _ _ _ ha

/-! ### Error logs -/

@[simp] theorem getLog_setLog (s : State) (w : Option DieId) (e : Elog) : getLog (setLog s w e) w = e := by
  cases w <;> simp [getLog, setLog]

@[simp] theorem getLog_sendIrq (s : State) (a i : Nat) (w : Option DieId) : getLog (sendIrq s a i) w = getLog s w := by
  cases w <;> simp [getLog]

/-- A log after a record: the record in the place of its SEQ, and in a full log the oldest one lost (R456, R459). -/
def logged (s : State) (w : Option DieId) (r : ErrRec) : Elog :=
  let e := getLog s w
  let full := (e.wr - e.rd).toNat = 1024
  { e with
    recs := tabSet 0 e.recs (e.wr.toNat % 1024) (packErr (timeOf s w) e.wr.toNat (logNum w) (r.part.any (confidential s)) r)
    wr := e.wr + 1
    rd := if full then e.rd + 1 else e.rd
    lost := if full then BitVec.ofNat 32 (satAdd 32 e.lost.toNat 1) else e.lost }

theorem logErr_eq (s : State) (w : Option DieId) (r : ErrRec) :
    let e := getLog s w
    logErr s w r = if decide (e.wr = e.rd) && e.irqEn then sendIrq (setLog s w (logged s w r)) (e.irqAddr.toNat * 4) e.irqEiid.toNat
      else setLog s w (logged s w r) := by
  simp only [logErr, logged, decide_eq_true_eq]

theorem getLog_logErr (s : State) (w : Option DieId) (r : ErrRec) : getLog (logErr s w r) w = logged s w r := by
  rw [logErr_eq]
  split <;> simp

/-- SEQ stands in bits 95 to 64 of a record (Table 18.1). -/
theorem fld_packErr (time seq die : Nat) (redact : Bool) (r : ErrRec) (h : seq < 2 ^ 32) :
    fld (packErr time seq die redact r) 95 64 = seq := by
  rw [packErr, fld, Nat.shiftRight_eq_div_pow]
  omega

/-- A record never makes more than 1,024 records unread. -/
theorem unread_le {wr rd : W32} (h : (wr - rd).toNat ≤ 1024) :
    (wr + 1 - if (wr - rd).toNat = 1024 then rd + 1 else rd).toNat ≤ 1024 := by
  split <;> bv_omega

/-- Settles O60, from the log after a record and the arithmetic of its two counts. -/
theorem errorLog : Obligations.ErrorLog := by
  intro s w r e full redact word e1
  have hroom (h : ¬ full) : logged s w r = e1 :=
    congrArg₂ (fun rd lost => { e1 with rd := rd, lost := lost }) (if_neg h) (if_neg h)
  rw [getLog_logErr]
  refine ⟨hroom, ?overwrites, fld_packErr _ _ _ _ _ e.wr.isLt, unread_le, ?sends⟩
  case overwrites =>
    intro hfull
    exact congrArg₂ (fun rd lost => { e1 with rd := rd, lost := lost }) (if_pos hfull) (if_pos hfull)
  case sends =>
    intro hempty hirq
    have hsends : (decide (e.wr = e.rd) && e.irqEn) = true := by simp [hempty, hirq]
    have hfree : ¬ full := by simp [full, hempty]
    rw [logErr_eq, hroom hfree, if_pos hsends]

end Sys2Proof.Machine
end

section
/-! Proofs about scalar work, control and configuration (R104, R147, R149, R176, R178) and the queue of commands. -/

namespace Sys2Proof.Machine

/-- Settles O1: a step with a command at the front is that command's meaning, by definition. -/
theorem stepRunsFront : Obligations.StepRunsFront := fun _ _ _ => rfl

/-! ### Scalar work -/

section ReadyStream

variable {s : State} {l : StreamLoc} {o w : Nat} {body : Nat → Issue}

/-- An instruction whose result depends on its stream writes what the stream held when it issued. -/
theorem issue_writesReg {r : Nat} {g : Stream → W64} {v : W64} (hv : g (getStream s l) = v)
    (hb : body w = .done (modStream s l (fun t => setReg t r (g t)))) (h : ready s l o w = true) :
    nx (issue s l (isOp o) body) = writesReg s l r v := by
  rw [← hv]
  exact issue_done h hb

/-- An instruction that takes effect where no exception is due. -/
theorem issue_unless {xs : List (Bool × Nat)} {t : State} (h : ready s l o w = true) (hx : noExc xs = true)
    (hb : body w = orElse xs (.done t)) : nx (issue s l (isOp o) body) = issued s l t := issue_done h (hb.trans (orElse_noExc hx _))

/-- An instruction that holds its stream at its address. -/
theorem issue_stay {t : State} (h : ready s l o w = true) (hb : body w = .stay t) :
    nx (issue s l (isOp o) body) = .next (countIssue (modStream t l (fun t => { t with wait := .halt })) l) := by
  rw [issue_isOp h, hb]
  rfl

end ReadyStream

/-- s0 reads as zero, and a write of it is discarded (R147). -/
theorem register_zero (t : Stream) (v : W64) : getReg t 0 = 0 ∧ setReg t 0 v = t := ⟨rfl, rfl⟩

/-- Settles O2: each instruction writes its function of the operands. -/
theorem scalarWork : Obligations.ScalarWork := by
  refine ⟨?_, register_zero⟩
  intro s l w t a b rd
  exact ⟨issue_writesReg rfl rfl, issue_writesReg rfl rfl, issue_writesReg rfl rfl, issue_writesReg rfl rfl, issue_writesReg rfl rfl,
    issue_writesReg rfl rfl, issue_writesReg rfl rfl, issue_writesReg rfl rfl, issue_writesReg rfl rfl, issue_writesReg rfl rfl,
    issue_writesReg rfl rfl, issue_writesReg rfl rfl, issue_writesReg rfl rfl⟩

/-! ### NOP, HALT and FENCE -/

theorem execHaltComplete_of_idle {s : State} {l : StreamLoc} {w : Nat} (hrun : (getStream s l).st = .running)
    (hwait : (getStream s l).wait = .halt) (hbusy : streamBusy (getCell s (cellOf l)).m l.stream = false)
    (hword : wordAt s l (getStream s l).pc.toNat = some w) :
    let s1 := modStream s l (fun t => { t with st := .halted, wait := .none })
    execHaltComplete l s = .next (if bit w 8 then streamEvent s1 l 2 else s1) := by
  simp [execHaltComplete, hrun, hwait, hbusy, hword, nx]

/-- An instruction in flight is of a class that a FENCE names. -/
theorem class_of_inClass {ops : List Op} {ts cs ext : Bool} (h : ops.any (fun o => inClass o ts cs ext) = true) : (ts || cs || ext) = true := by
  by_contra hnone
  simp only [Bool.or_eq_true, not_or, Bool.not_eq_true] at hnone
  obtain ⟨⟨rfl, rfl⟩, rfl⟩ := hnone
  simp [inClass] at h

/-- Settles O5: each clause is the branch of the instruction's body that its premises select. -/
theorem controlInstructions : Obligations.ControlInstructions := by
  intro s l w t x unmask
  refine ⟨fun h => issue_done h rfl, ?halt, execHaltComplete_of_idle, ?streamScope, ?cellScope⟩
  case halt =>
    intro h hend
    exact issue_stay h (orElse_noExc (by simp [noExc, t, hend]) _)
  case streamScope =>
    intro h hscope hfree
    exact issue_done h (by simp [hscope, hfree, x, unmask])
  case cellScope =>
    intro h hscope hany
    have hclass := class_of_inClass hany
    exact issue_done h (by simp [hscope, hclass, hany, x, unmask])

/-! ### TCFG, SCRR and SCRW -/

theorem execTcfgApply_of_due {s : State} {c : CellLoc} {op n : Nat} {o : Op} {cfg : Slot} (hfind : findOp (getCell s c).m op = some o)
    (hkind : o.kind = .tcfg n cfg)
    (hfree : (getCell s c).m.ops.any (fun y => decide (y.id < op) && needsConfig y n) = false) :
    execTcfgApply c op s = .next (modM
      (modC s c (fun k => setStat (setTslot k n { cfg with gen := ((getTslot k n).gen + 1) % 256 }) n {})) c
      (fun m => removeOp (mapEngines (dropLatches (fun i => i == n)) m) op)) := by
  simp [execTcfgApply, hfind, hkind, hfree, nx]

/-- Settles O7: each clause is the branch of the instruction's body that its premises select. -/
theorem configurationInstructions : Obligations.ConfigurationInstructions := by
  intro s l w op o c x
  refine ⟨?tcfg, ?apply, ?scrr, ?scrw⟩
  case tcfg =>
    intro h hx
    exact issue_unless h hx rfl
  case apply =>
    intro n cfg hfind hkind hfree
    exact execTcfgApply_of_due hfind hkind hfree
  case scrr =>
    intro v h hv
    exact issue_done h (by rw [hv])
  case scrw =>
    intro h hreg
    exact issue_done h (if_pos hreg)

end Sys2Proof.Machine
end

section
/-! Proofs about transfers between a cell and memory (R107 to R109, R117, R157 to R159). -/

namespace Sys2Proof.Machine

/-! ### Issue -/

theorem findOp_id {m : CellMem} {op : Nat} {o : Op} (h : findOp m op = some o) : o.id = op := by
  simpa using List.find?_some h

theorem slotsFree_iff {m : CellMem} {slot : Nat} {t : Touch} : slotsFree m slot t = true ↔ tcfgWaits m slot = false ∧ sbHolds m t = false := by
  simp [slotsFree]

theorem issueTransfer_of_free {s : State} {l : StreamLoc} {store : Bool} {w e : Nat}
    (he : cellHandle s (cellOf l) (regFld (getStream s l) (fld w 18 14) 31 0) = some e)
    (hdual : (store && eDual e && (getEpoch (getDie s l.die) (eGroup e)).commit.isSome) = false)
    (hfree : slotsFree (getCell s (cellOf l)).m (fld w 13 8)
      { reads := if store then [fld w 13 8] else [], writes := if store then [] else [fld w 13 8] } = true)
    (hx : noExc (transferExcs (getCell s (cellOf l)) store (fld w 13 8) e) = true) :
    issueTransfer s l store w = .done (cellWants (addOp s l none (.transfer
      { store := store, slot := fld w 13 8, cfg := getTslot (getCell s (cellOf l)).c (fld w 13 8), ent := e
        coord := (getReg (getStream s l) (fld w 23 19)).toNat })) (cellOf l) (getCell s (cellOf l)).m.nextOp) := by
  obtain ⟨hwaits, hholds⟩ := slotsFree_iff.mp hfree
  simp only [issueTransfer, he, hwaits, hholds, hdual, orElse_noExc hx, Bool.false_eq_true, if_false]

/-! ### Rows -/

section Rows

variable {s : State} {c : CellLoc} {op : Nat} {o : Op} {t : Transfer}

theorem execTfetchRowCommit_of_arrived {bits sc : Nat} (hfind : findOp (getCell s c).m op = some o) (hkind : o.kind = .transfer t)
    (hgoes : t.stopped = none) (hact : mayAct (getCell s c) o = true) (hrow : t.row < t.cfg.rows) (hstore : t.store = false)
    (harr : tabGet none t.arrived t.row = some (bits, sc)) :
    let x1 := putLine (getCell s c) t.slot t.cfg false t.row bits
    let x2 := { x1 with c := putRowScales x1.c t.slot t.cfg t.row sc }
    execTfetchRowCommit c op s = .next (if t.row + 1 = t.cfg.rows then
        let x3 := filledSlot x2 t.slot t.cfg none
        settle (setCell s c { x3 with m := removeOp x3.m op }) c
      else setCell s c { x2 with m := setOp x2.m op (.transfer { t with
        row := t.row + 1, arrived := tabSet none t.arrived t.row none }) }) := by
  have hmore : ¬ t.cfg.rows ≤ t.row := by omega
  simp only [execTfetchRowCommit, hfind, hkind, hgoes, hact, hmore, hstore, harr, Option.isSome_none, Bool.not_true, Bool.or_false,
    Bool.false_eq_true, if_false, nx]
  split <;> rfl

theorem execTstoreRowAccept_of_accepted {s1 : State} (hfind : findOp (getCell s c).m op = some o) (hkind : o.kind = .transfer t)
    (hgoes : t.stopped = none) (hact : mayAct (getCell s c) o = true) (hrow : t.row < t.cfg.rows) (hstore : t.store = true)
    (hissued : rowIssued s c op t.row = true)
    (hacc : storeRow (rowDone (modM s c (fun m => served m op)) c op t.row) c t = .ok s1) :
    execTstoreRowAccept c ⟨op, false⟩ s = .next (storedRow (gateRanges (dropAnswers s1 c.die) c.die (groupOf c.site)
      (cellPart (modM s c (fun m => served m op)) c) (rowRanges t.ent (writeBase t.ent) t.coord t.row t.cfg.cols)) c o t) := by
  have hmore : ¬ t.cfg.rows ≤ t.row := by omega
  simp [execTstoreRowAccept, withParity, findOp_id hfind, hfind, hkind, hgoes, hact, hmore, hstore, hissued, hacc, nx]

theorem storedRow_last {u : State} (hlast : t.row + 1 = t.cfg.rows) : storedRow u c o t = settle (modM u c (fun m => removeOp m o.id)) c :=
  if_pos hlast

theorem storedRow_next {u : State} (hmore : t.row + 1 ≠ t.cfg.rows) (hstop : t.stopReq = false) :
    storedRow u c o t = modM u c (fun m => setOp m o.id (.transfer { t with row := t.row + 1 })) := by
  simp [storedRow, hmore, hstop]

theorem storedRow_stops {u : State} (hmore : t.row + 1 ≠ t.cfg.rows) (hstop : t.stopReq = true) :
    storedRow u c o t = recordStop (modStream (modM u c (fun m => setOp m o.id (.transfer { t with
      row := t.row + 1, stopReq := false, stopped := some kAsyncStop }))) (opLoc c o) (fun t => { t with asyncStop := true })) (opLoc c o) := by
  simp [storedRow, hmore, hstop]

theorem execTransferFault_of_fetch {k : Nat} (hfind : findOp (getCell s c).m op = some o) (hkind : o.kind = .transfer t)
    (hgoes : t.stopped = none) (hact : mayAct (getCell s c) o = true) (hstore : t.store = false)
    (hfault : tabGet 0 t.faults t.row = k) (hk : k ≠ 0) : execTransferFault c op s = .next (stopTransfer s c o t k) := by
  simp [execTransferFault, hfind, hkind, hgoes, hact, hstore, hfault, hk, nx]

theorem execTransferFault_of_store {k : Nat} (hfind : findOp (getCell s c).m op = some o) (hkind : o.kind = .transfer t)
    (hgoes : t.stopped = none) (hact : mayAct (getCell s c) o = true) (hrow : t.row < t.cfg.rows) (hstore : t.store = true)
    (hissued : rowIssued s c op t.row = true) (hfault : storeRow s c t = .fault k) :
    execTransferFault c op s = .next (stopTransfer (rowDone s c op t.row) c o t k) := by
  have hmore : ¬ t.cfg.rows ≤ t.row := by omega
  simp [execTransferFault, hfind, hkind, hgoes, hact, hmore, hstore, hissued, hfault, nx]

end Rows

/-- Settles O8, from the issue of a transfer and from what one row of it does. -/
theorem transfers : Obligations.Transfers := by
  refine ⟨?issues, ?rows⟩
  case issues =>
    intro s l w e t x slot joins he
    refine ⟨fun h hfree hx => issue_done h ?_, fun h hfree hx hdual => issue_done h ?_⟩
    · exact issueTransfer_of_free he rfl hfree hx
    · exact issueTransfer_of_free he hdual hfree hx
  case rows =>
    intro s c op o t x accessed hfind hkind hgoes hact hrow
    refine ⟨?commit, ?accept, ?fetchFault, ?storeFault⟩
    case commit =>
      intro bits sc hstore harr
      exact execTfetchRowCommit_of_arrived hfind hkind hgoes hact hrow hstore harr
    case accept =>
      intro s1 hstore hissued hacc
      exact ⟨execTstoreRowAccept_of_accepted hfind hkind hgoes hact hrow hstore hissued hacc, storedRow_last, storedRow_next, storedRow_stops⟩
    case fetchFault =>
      intro k hstore hfault hk
      exact execTransferFault_of_fetch hfind hkind hgoes hact hstore hfault hk
    case storeFault =>
      intro k hstore hissued hfault
      exact execTransferFault_of_store hfind hkind hgoes hact hrow hstore hissued hfault

/-! ### Moves between a slot or a Cask and the store -/

theorem issueMove_of_free {s : State} {l : StreamLoc} {store : Bool} {w : Nat}
    (hfree : slotsFree (getCell s (cellOf l)).m (moveArgs s l store w).slot (moveTouch (moveArgs s l store w)) = true)
    (hx : noExc (moveExcs (getCell s (cellOf l)) (moveArgs s l store w)) = true) :
    issueMove s l store w = .done (addOp s l none (.move (moveArgs s l store w))) := by
  obtain ⟨hwaits, hholds⟩ := slotsFree_iff.mp hfree
  simp only [issueMove, hwaits, hholds, orElse_noExc hx, Bool.false_eq_true, if_false]

theorem issueCask_of_free {s : State} {l : StreamLoc} {store : Bool} {w : Nat}
    (hx : noExc (caskExcs (getCell s (cellOf l)) (ctxOf l.stream) (fld w 9 8) (regFld (getStream s l) (fld w 19 15) 19 0)) = true)
    (hfree : sbHolds (getCell s (cellOf l)).m { range := some (regFld (getStream s l) (fld w 19 15) 19 0, 65536, store) } = false) :
    issueCask s l store w = .done (addOp s l (getAcc (getCell s (cellOf l)).c (getCask (getCell s (cellOf l)).c (fld w 9 8)).pt).inst
      (.cask store (fld w 9 8) (regFld (getStream s l) (fld w 19 15) 19 0) 0)) := by
  simp only [issueCask, hfree, orElse_noExc hx, Bool.false_eq_true, if_false]

section Port

variable {s : State} {c : CellLoc} {op : Nat} {o : Op}

/-- The store port is free where it serves a move. -/
theorem portTaken_of_portServes {x : CellAll} (h : portServes x o = true) : portTaken x = false := by
  simp only [portServes, Bool.and_eq_true, Option.isNone_iff_eq_none] at h
  obtain ⟨⟨⟨hgrant, hheld⟩, -⟩, -⟩ := h
  simp [portTaken, hgrant, hheld]

/-- One access of a move, whose data `perr` says to have a parity error. -/
theorem execInternalAccess_move {mv : Move} (perr : Bool) (hfind : findOp (getCell s c).m op = some o) (hport : portServes (getCell s c) o = true)
    (hkind : o.kind = .move mv) :
    let access := fun (s : State) =>
      let x := getCell s c
      let x1 := if mv.store then tstLine x mv else tldLine x mv
      if mv.line + 1 < moveLines mv.cfg mv.col then
        setCell s c { x1 with m := setOp x1.m op (.move { mv with line := mv.line + 1 }) }
      else settle (setCell s c { x1 with m := removeOp x1.m op }) c
    execInternalAccess c op perr s = .next (withParity s c o mv.slot (perr && mv.store) access) := by
  simp [execInternalAccess, hfind, hport, hkind, nx]

theorem execInternalAccess_cask {store : Bool} {img off line : Nat} (perr : Bool) (hfind : findOp (getCell s c).m op = some o)
    (hport : portServes (getCell s c) o = true) (hkind : o.kind = .cask store img off line) :
    let x1 := caskLine (getCell s c) store img off line
    let m1 := served x1.m op
    execInternalAccess c op perr s = .next (if line + 1 < 256 then
        setCell s c { x1 with m := setOp m1 op (.cask store img off (line + 1)) }
      else settle (setCell s c { x1 with m := removeOp m1 op }) c) := by
  simp only [execInternalAccess, hfind, hport, hkind, Bool.not_true, Bool.false_eq_true, if_false, nx]
  split <;> rfl

variable {slot : Nat} {go : State → State}

theorem withParity_good : withParity s c o slot false go = go (modM s c (fun m => served m o.id)) := rfl

theorem withParity_retries (hvalid : (getTslot (getCell s c).c slot).srcValid = true) (hfree : portTaken (getCell s c) = false) :
    withParity s c o slot true go = go (parityRetry (modM s c (fun m => served m o.id)) c slot) := by
  simp [withParity, hvalid, hfree]

theorem withParity_raises (hvalid : (getTslot (getCell s c).c slot).srcValid = false) (hraise : canRaise s (opLoc c o) = true) :
    withParity s c o slot true go = parityFail s c o slot := by
  simp [withParity, hvalid, hraise]

theorem execXfetchFault_of_fault {f : Xfetch} {k : Nat} (hfind : findOp (getCell s c).m op = some o) (hkind : o.kind = .xfetch f)
    (hnone : f.fault = none) (hact : mayAct (getCell s c) o = true) (hraise : canRaise s (opLoc c o) = true)
    (hfault : xfetchTiles s c f f.nt = .fault k) : execXfetchFault c op s = .next (raiseXfetch s c o f k) := by
  simp [execXfetchFault, hfind, hkind, hnone, hact, hraise, hfault, nx]

end Port

/-- Settles O9, from the issue of each move and from one access of the store port, with and without a parity error. -/
theorem moves : Obligations.Moves := by
  refine ⟨?issues, ?accesses⟩
  case issues =>
    intro s l w t x moves casks
    refine ⟨?tld, ?tst, ?caskld, ?caskst, ?xfetch⟩
    case tld => exact fun h hfree hx => issue_done h (issueMove_of_free hfree hx)
    case tst => exact fun h hfree hx => issue_done h (issueMove_of_free hfree hx)
    case caskld => exact fun h hx hfree => issue_done h (issueCask_of_free hx hfree)
    case caskst => exact fun h hx hfree => issue_done h (issueCask_of_free hx hfree)
    case xfetch =>
      intro e h he f hrange hfree
      simp only [t] at he
      have hx : noExc [(xfetchRangeBad (xfetchArgs s l w e), xStoreRange)] = true := by simp [noExc, hrange, f]
      refine issue_done h ?_
      simp only [he]
      rw [orElse_noExc hx]
      exact if_neg (by simp [hfree, f, x])
  case accesses =>
    intro s c op o x hfind
    refine ⟨?move, ?cask, ?xfetch⟩
    case move =>
      intro mv hport hkind access s0
      have hid := findOp_id hfind
      refine ⟨?good, ?retry, ?raise⟩
      case good => rw [exec_internalAccess, execInternalAccess_move false hfind hport hkind, Bool.false_and, withParity_good, hid]
      case retry =>
        intro hstore hvalid
        have hperr : (true && mv.store) = true := hstore
        rw [exec_internalAccess, execInternalAccess_move true hfind hport hkind, hperr,
          withParity_retries hvalid (portTaken_of_portServes hport), hid]
      case raise =>
        intro hstore hvalid hraise
        have hperr : (true && mv.store) = true := hstore
        rw [exec_internalAccess, execInternalAccess_move true hfind hport hkind, hperr, withParity_raises hvalid hraise]
    case cask =>
      intro store img off line hport hkind
      exact execInternalAccess_cask false hfind hport hkind
    case xfetch =>
      intro f k hkind hnone hact hraise hfault
      exact execXfetchFault_of_fault hfind hkind hnone hact hraise hfault

end Sys2Proof.Machine
end

section
/-! Proofs about execute instructions (R54, R72 to R75, R83, R84, R164, R167, R168). -/

namespace Sys2Proof.Machine

/-! ### ACC_OPEN, ACC_CLOSE, SPILL and RESUME -/

section Names

variable {s : State} {l : StreamLoc} {an inst : Nat} {excs : List (Bool × Nat)} {body : Nat → Issue}

theorem onName_bound (hbound : getName (getCell s (cellOf l)).c (ctxOf l.stream) an = .bound inst) : onName s l an excs body = body inst := by
  rw [onName, hbound]

end Names

/-- Settles O10, from what each instruction does with a bound name and ACC_OPEN with its engine and tile. -/
theorem accumulatorNames : Obligations.AccumulatorNames := by
  intro s l w inst c x ctx an pt
  refine ⟨?opens, fun hbound => ⟨?close, ?spill, ?resume⟩⟩
  case opens =>
    intro h hx
    refine ⟨?any, ?disabled, ?free⟩
    case any =>
      intro hany
      exact issue_unless h hx (by simp [hany, x, c, pt, ctx, an])
    case disabled =>
      intro hany hoff
      exact issue_unless h hx (by simp [hany, hoff, x, c, pt, ctx, an])
    case free =>
      intro hany hon hfree y
      exact issue_unless h hx (by simp [hany, hon, hfree, x, c, pt, ctx, an, y])
  case close =>
    intro h
    exact issue_done h (onName_bound hbound)
  case spill =>
    intro h hx
    exact issue_unless h hx (onName_bound hbound)
  case resume =>
    intro h hrepro
    exact issue_unless h (by simp [noExc, hrepro, x, c]) (onName_bound hbound)

/-! ### DRAIN and RED -/

theorem issueDrain_of_bound {s : State} {l : StreamLoc} {w inst : Nat} {dest : Dest}
    (hbound : getName (getCell s (cellOf l)).c (ctxOf l.stream) (fld w 13 11) = .bound inst)
    (hdest : destOf s l (fld w 15 14) (fld w 21 16) (fld w 26 22) = some dest)
    (hx : noExc (drainExcs (getCell s (cellOf l)) w (drainArgs s l w dest)) = true) (hsettled : drainTcfg (getCell s (cellOf l)) w = false) :
    let d := drainArgs s l w dest
    let p := drawFor s l d.rnd ((drainShape d).rows * (drainShape d).cols)
    issueDrain s l w = .done (chainOp (unbind p.2 l (fld w 13 11)) l inst (.drain { d with
      draws := p.1, srWas := (getStream s l).sr, srNow := (getStream p.2 l).sr })) := by
  simp only [issueDrain, hsettled, hdest, onName_bound hbound, orElse_noExc hx, Bool.false_and, Bool.false_eq_true, if_false]

/-- Settles O12: a DRAIN and a RED of a name end its binding, a RED of a slot reads the slot. -/
theorem drainAndRed : Obligations.DrainAndRed := by
  intro s l w inst c x t an wfmt tag slot
  refine ⟨?drain, ?redName, ?redSlot⟩
  case drain =>
    intro dest h hbound hdest d p hx hsettled
    exact issue_done h (issueDrain_of_bound hbound hdest hx hsettled)
  case redName =>
    intro h hname hbound hx
    exact issue_unless h hx ((if_pos hname).trans (onName_bound hbound))
  case redSlot =>
    intro h hslot hx hfree
    obtain ⟨hwaits, hholds⟩ := slotsFree_iff.mp hfree
    refine issue_done h ?_
    simp only [x, c, slot, wfmt] at hx hwaits hholds
    simp [hslot, hwaits, hholds, orElse_noExc hx, x, c, slot, wfmt, tag, t]

/-! ### Element-wise operations -/

theorem exec_ewTable (s : State) (l : StreamLoc) (perr : Option Nat) : ∀ p ∈ ewTable l perr, exec p.2 s = ew p.1 l perr s :=
  List.forall_iff_forall_mem.mp ⟨rfl, rfl, rfl, rfl, rfl, rfl, rfl, rfl, rfl, rfl, rfl, rfl,
    rfl, rfl, rfl, rfl, rfl, rfl, rfl, rfl, rfl, rfl, rfl, rfl⟩

/-- An EW whose turn has come takes its effect, as its parity error has it. -/
theorem ewRuns_ewRead {s : State} {c : CellLoc} {o : Op} {e : EwOp} {perr : Option Nat} (out : State → Res)
    (hturn : ewTurn (getCell s c) o e = true) : ewRuns s c o e perr out (out (ewRead s c o e perr)) := by
  have hread : ewRead s c o e perr
      = withParity s c o ((ewParity e.op e.g perr).getD e.g.sa) (ewParity e.op e.g perr).isSome (fun s => ewEffect s c o e) := by
    simp [ewRead, hturn]
  rw [hread]
  refine ⟨?good, ?retry, ?raise⟩
  case good =>
    intro hgood
    rw [hgood]
    rfl
  case retry =>
    intro t hbad hvalid hfree
    rw [hbad]
    exact congrArg out (withParity_retries hvalid hfree)
  case raise =>
    intro t hbad hvalid hraise
    rw [hbad]
    exact congrArg out (withParity_raises hvalid hraise)

/-- An EW that waits in flight is one of its operation whose turn has come. -/
theorem ewTurn_of_heldEw {s : State} {l : StreamLoc} {op : Nat} {o : Op} {e : EwOp} (h : heldEw s l op = some (o, e)) :
    ewTurn (getCell s (cellOf l)) o e = true := by
  obtain ⟨y, -, hy⟩ := List.exists_of_findSome?_eq_some h
  split at hy
  next f hkind =>
    split at hy
    next hturn =>
      cases hy
      exact hturn.2.2
    · cases hy
  · cases hy

theorem issueEw_of_free {s : State} {l : StreamLoc} {op w : Nat} {perr : Option Nat} {d : Dest}
    (hdest : destOf s l (ewArgs (getStream s l) w).dkind (ewArgs (getStream s l) w).dslot (ewArgs (getStream s l) w).dreg = some d)
    (hsettled : ewTcfg (getCell s (cellOf l)) op (ewArgs (getStream s l) w) = false)
    (hx : noExc (ewExcs (getCell s (cellOf l)) op (ewArgs (getStream s l) w) d) = true)
    (hfree : ewHolds (getCell s (cellOf l)) op (ewArgs (getStream s l) w) d = false) :
    let q := ewOp s l op (ewArgs (getStream s l) w) d
    let o : Op := { id := (getCell s (cellOf l)).m.nextOp, stream := l.stream, pc := (getStream s l).pc.toNat, inst := none, kind := .ew q.1 }
    issueEw s l op perr w = .done (ewRead (addOp q.2 l none (.ew q.1)) (cellOf l) o q.1 perr) := by
  simp only [issueEw, hsettled, hdest, orElse_noExc hx, hfree, Bool.false_eq_true, if_false]

/-- Settles O13: an EW in flight or at issue takes its effect in its turn, by `ewRuns_ewRead`. -/
theorem elementWise : Obligations.ElementWise := by
  intro s l w d perr p hp c x g q o s1
  rw [exec_ewTable s l perr p hp]
  refine ⟨?issues, ?held⟩
  case issues =>
    intro h hop hdest hnone hsettled hx hfree
    have hmine : (opcode w == 0x64 && fld w 13 8 == p.1) = true := by simp [ready_opcode h, hop]
    have hissues : ew p.1 l perr s = issued s l (ewRead s1 c o q.1 perr) := by
      rw [ew, hnone]
      dsimp only
      rw [issue_ready h (fun w => opcode w == 0x64 && fld w 13 8 == p.1) hmine, issueEw_of_free hdest hsettled hx hfree]
      rfl
    rw [hissues]
    refine ⟨ewRuns_ewRead (issued s l), fun hlater => ?_⟩
    simp [ewRead, hlater]
  case held =>
    intro o e hheld
    have hruns : ew p.1 l perr s = .next (ewRead s c o e perr) := by
      rw [ew, hheld]
      rfl
    rw [hruns]
    exact ewRuns_ewRead _ (ewTurn_of_heldEw hheld)

end Sys2Proof.Machine
end

section
/-! Proofs about the engines and the drain unit (R54, R68, R82, R83, R118, R124 to R130, R137). -/

namespace Sys2Proof.Machine

section Engines

variable {s : State} {c : CellLoc} {op eng pt : Nat} {o : Op} {t : Task}

/-! ### Placement and choice -/

theorem execTaskPlacement_of_head {h : Chain} {e : Nat} (hfind : findOp (getCell s c).m op = some o)
    (hplace : needsPlacement (getCell s c).c o = true) (hhead : isHead (getCell s c).m o = true)
    (hheld : (taskOf o).isSome = true → opHeld (getCell s c) o = false) (hclear : isOpa o = true → sbClear (getCell s c).m o = true)
    (hchain : o.inst.bind (getChain (getCell s c).c) = some h) (heng : placeEngine (getCell s c) = some e)
    (hfree : engFreeTile (getCell s c).c e = some pt) :
    execTaskPlacement c op s = .next (settle (modC s c (fun k => bindTile k pt h.inst h.ctx h.an)) c) := by
  have hgoes : ((taskOf o).isSome && opHeld (getCell s c) o) = false := by simpa using hheld
  have hsb : (isOpa o && !sbClear (getCell s c).m o) = false := by simpa using hclear
  simp only [execTaskPlacement, hfind, hplace, hhead, hgoes, hsb, hchain, heng, hfree, Bool.not_true, Bool.or_false, Bool.false_eq_true,
    if_false, nx]

theorem execTaskReady_of_free (hfind : findOp (getCell s c).m op = some o) (hkind : o.kind = .task t) (hst : t.st = .waiting)
    (hhead : isHead (getCell s c).m o = true) (htile : (opTile (getCell s c) o).isSome = true) (hact : mayAct (getCell s c) o = true)
    (hgoes : opHeld (getCell s c) o = false) :
    execTaskReady c op s = .next (modM s c (fun m => setOp m op (.task { t with st := .ready }))) := by
  simp [execTaskReady, hfind, hkind, hst, hhead, htile, hact, hgoes, nx]

theorem execTaskChoice_of_idle {first : Op} {rest : List Op} {k : Nat} (heng : eng < 4) (hidle : (getEngine (getCell s c).m eng).cur = none)
    (hnone : engTasks (getCell s c) eng (fun t => t.st == .running) = [])
    (hable : (engTasks (getCell s c) eng (fun _ => true)).filter (choosable (getCell s c)) = first :: rest) :
    let p := chooseContext (getCell s c).c.sched (getEngine (getCell s c).m eng)
      (fun k => (first :: rest).any (fun o => opCtx o == k)) (opCtx first)
    p.1 = some k → (first :: rest).find? (fun o => opCtx o == k) = some o → taskOf o = some t → opTile (getCell s c) o = some pt →
    execTaskChoice c eng s = .next (dispatch (modM s c (fun m => setEngineOf m eng p.2)) c eng o t pt) := by
  intro p hctx hop htask htile
  simp only [execTaskChoice, Nat.not_le.mpr heng, if_false, hidle, hnone, hable]
  simp only [p] at hctx
  simp only [hctx, hop, htask, htile, nx, p]

theorem execTaskChoice_of_turn {id : Nat} (heng : eng < 4) (hcur : (getEngine (getCell s c).m eng).cur = some id)
    (hturn : (getEngine (getCell s c).m eng).turn = true) (hto : turnTo (getCell s c) eng id = some o) (htask : taskOf o = some t)
    (htile : opTile (getCell s c) o = some pt) : execTaskChoice c eng s = .next (dispatch s c eng o t pt) := by
  simp [execTaskChoice, Nat.not_le.mpr heng, hcur, hturn, hto, htask, htile, nx]

/-! ### Entry into a slot and the rank-one step -/

theorem lowestExc_of_agree {p q : Bool} {a b : Nat} (hp : p = false) (hq : q = false) : lowestExc [(p, a), (q, b)] = none :=
  lowestExc_none (by simp [noExc, hp, hq])

theorem execSlotEntry_of_agree {sideB : Bool} (hcur : curTask (getCell s c) eng = some (o, t, pt)) (hstep : stepping t = true) :
    let x := getCell s c
    let r := ringOf t sideB
    let y := getTslot x.c (ringSlot r)
    r.entered = false → (r.len = 1 ∨ y.filled = true) → (y.saxis = 0 ∨ y.saxis = (if r.row then 2 else 1)) → y.fmt = r.fmt →
    let p := if redExtent y r.row = 0 then leaveSlot x.c r else (x.c, { r with entered := true })
    execSlotEntry c eng sideB s = .next (setCell s c { c := p.1, m := setOp x.m o.id (.task (setRing t sideB p.2)) }) := by
  intro x r y hout hfilled haxis hfmt p
  have hready : ¬ (!stepping t || r.entered || (r.len != 1 && !y.filled)) = true := by
    simpa [hstep, hout, Classical.or_iff_not_imp_left] using hfilled
  have haxisOk : (y.saxis != 0 && y.saxis != (if r.row then 2 else 1)) = false := by
    simpa [Classical.or_iff_not_imp_left] using haxis
  have hfmtOk : (y.fmt != r.fmt) = false := by simp [hfmt]
  simp only [execSlotEntry, hcur]
  rw [if_neg hready, lowestExc_of_agree haxisOk hfmtOk]
  rfl

theorem execRankOneStep_of_held (hcur : curTask (getCell s c) eng = some (o, t, pt)) (hstep : stepping t = true) :
    let x := getCell s c
    let e := getEngine x.m eng
    t.a.entered = true → t.b.entered = true → e.collA.retry = none → e.collB.retry = none →
    (latchHit x e t = true ∨ tagOf e.collA.cur = some (needGroup t.a)) → tagOf e.collB.cur = some (needGroup t.b) →
    (e.turn = false ∨ turnTo x eng o.id = none) → execRankOneStep c eng s = .next (takeStep s c eng o t pt) := by
  intro x e ha hb hra hrb hA hB hturn
  have hheld : operandsHeld x e t = true := by simp [operandsHeld, ha, hb, hra, hrb, hA, hB]
  have hstays : (e.turn && (turnTo x eng o.id).isSome) = false := by
    rcases hturn with hno | hno <;> simp [hno]
  simp only [x, e] at hheld hstays
  simp [execRankOneStep, hcur, hstep, hheld, hstays, nx]

end Engines

/-- Settles O14, from the choice of R129 and R130 and from what an engine does with the task that it chose. -/
theorem engineTasks : Obligations.EngineTasks := by
  refine ⟨?chooses, ?steps⟩
  case chooses =>
    intro s c op eng o x
    refine ⟨?placement, ?ready, ?idle, ?turn⟩
    case placement =>
      intro h e pt hfind hplace hhead hheld hclear hchain heng hfree
      exact execTaskPlacement_of_head hfind hplace hhead hheld hclear hchain heng hfree
    case ready =>
      intro t hfind hkind hst hhead htile hact hgoes
      exact execTaskReady_of_free hfind hkind hst hhead htile hact hgoes
    case idle =>
      intro first rest k t pt able p s1 heng hidle hnone hable
      simp only [p, s1, hable]
      exact execTaskChoice_of_idle heng hidle hnone hable
    case turn =>
      intro id t pt heng hcur hturn hto htask htile
      exact execTaskChoice_of_turn heng hcur hturn hto htask htile
  case steps =>
    intro s c eng sideB o t pt x r y e hcur hstep
    exact ⟨execSlotEntry_of_agree hcur hstep, execRankOneStep_of_held hcur hstep⟩

/-! ### Operand fetches and their retries -/

section Fetches

variable {s : State} {c : CellLoc} {eng pt : Nat} {sideB : Bool} {o : Op} {t : Task}

/-- A fetch of the next block group, by the parity of its data and by whether its slot can be read again. -/
theorem execGroupFetch_of_due {slot g : Nat} (perr : Bool) (hcur : curTask (getCell s c) eng = some (o, t, pt)) (hstep : stepping t = true)
    (hin : (ringOf t sideB).entered = true) (hretry : (collOf (getEngine (getCell s c).m eng) sideB).retry = none)
    (hfetch : fetchGroup (getCell s c).c (ringOf t sideB) (collOf (getEngine (getCell s c).m eng) sideB) = some (slot, g)) :
    let x := getCell s c
    let e := getEngine x.m eng
    let k := collOf e sideB
    execGroupFetch c eng sideB perr s
      = if !perr then .next (modM s c (fun m => setEngineOf m eng (setColl e sideB (fetched x.c (ringOf t sideB) k))))
        else if (getTslot x.c slot).srcValid then .next (modM s c (fun m => setEngineOf m eng (setColl e sideB { k with retry := some slot })))
        else if canRaise s (opLoc c o) then .next (stopTask (recParity s c o 1 eng slot) c eng xTregParity o t)
        else .next s := by
  simp only [execGroupFetch, hcur, hstep, hin, hretry, hfetch, Option.isSome_none, Bool.not_true, Bool.or_false, Bool.false_eq_true, if_false, nx]

theorem execParityRetryWrite_of_free {slot : Nat} (hretry : (collOf (getEngine (getCell s c).m eng) sideB).retry = some slot)
    (hfree : portTaken (getCell s c) = false) (hvalid : (getTslot (getCell s c).c slot).srcValid = true) :
    let s1 := parityRetry s c slot
    let y := getCell s1 c
    let e1 := getEngine y.m eng
    let k1 := { collOf e1 sideB with retry := none }
    execParityRetryWrite c eng sideB s = .next (setCell s1 c { y with m := setEngineOf y.m eng (setColl e1 sideB
      (match curTask y eng with
        | some (_, t, _) => fetched y.c (ringOf t sideB) k1
        | none => k1)) }) := by
  simp only [execParityRetryWrite, hretry, hfree, hvalid, Bool.not_true, Bool.false_eq_true, if_false, nx] <;> rfl

end Fetches

section Spills

variable {s : State} {c : CellLoc} {eng pt : Nat} {o : Op} {t : Task}

theorem execSpillPoint_of_due
    (hdue : (engTasks (getCell s c) eng (fun t => t.st == .running && t.needSpill)).find? (fun o => (opTile (getCell s c) o).any
      (inputFree (getCell s c))) = some o) (htask : taskOf o = some t) (htile : opTile (getCell s c) o = some pt) :
    execSpillPoint c eng s = .next (settle (modM (spillTile s (opLoc c o) pt) c (fun m => spillDone (getCell s c) m eng o t)) c) := by
  simp [execSpillPoint, hdue, htask, htile, nx]

theorem execLastSlice_of_due
    (hdue : (engTasks (getCell s c) eng (fun t => t.st == .running && t.step == t.k && !t.needSpill)).head? = some o) :
    let left := fun (e : Engine) => if e.cur = some o.id then { e with cur := none, turn := false } else e
    execLastSlice c eng s = .next (settle (modM s c (fun m => removeOp (setEngineOf m eng (left (getEngine m eng))) o.id)) c) := by
  simp only [execLastSlice, hdue, nx]

end Spills

/-! ### What the drain unit reads and writes -/

section DrainUnit

variable {s : State} {c : CellLoc} {op pt : Nat} {o : Op} {d : DrainOp}

theorem execDrainRead_of_drain (perr : Bool) (hfind : findOp (getCell s c).m op = some o) (hhead : isHead (getCell s c).m o = true)
    (htile : opTile (getCell s c) o = some pt) (hfree : inputFree (getCell s c) pt = true) (hkind : o.kind = .drain d)
    (htaken : d.taken = none) (hgood : o.bad = false) :
    let reads := fun (s : State) =>
      let p := takeTile s (opLoc c o) pt
      settle (modM p.1 c (fun m => setOp m op (.drain { d with taken := some p.2 }))) c
    execDrainRead c ⟨op, perr⟩ s = .next (withParity s c o d.zslot (perr && d.fmode == 2 && mayAct (getCell s c) o) reads) := by
  simp only [execDrainRead, hfind, hhead, htile, hfree, hkind, htaken, hgood, Option.isSome_none, Bool.or_false, Bool.not_true,
    Bool.false_eq_true, if_false, nx]

theorem execDrainRead_of_red {wfmt tag win : Nat} (hfind : findOp (getCell s c).m op = some o) (hhead : isHead (getCell s c).m o = true)
    (htile : opTile (getCell s c) o = some pt) (hfree : inputFree (getCell s c) pt = true) (hkind : o.kind = .redAcc wfmt tag win none) :
    let p := takeTile s (opLoc c o) pt
    execDrainRead c ⟨op, false⟩ s = .next (settle (modM p.1 c (fun m => setOp m op (.redAcc wfmt tag win (some p.2)))) c) := by
  simp only [execDrainRead, hfind, hhead, htile, hfree, hkind, Bool.not_true, Bool.false_eq_true, if_false, nx]

theorem drainWrite_of_drain {t : Taken} (hfind : findOp (getCell s c).m op = some o) (hkind : o.kind = .drain d) (htaken : d.taken = some t)
    (hact : mayAct (getCell s c) o = true) (hheld : ∀ id, (getCell s c).m.outHeld = some id → id = op)
    (hport : (toStore d.dest && (getCell s c).c.grant.isSome) = false) :
    let s0 := modM s c (fun m => { m with outHeld := none })
    let x0 := getCell s0 c
    let sh := drainShape d
    let f := (fmtOfCode d.fmt).getD .fp32
    let k := convTile f ((rndOfCode d.rnd).getD .rne) sh.sat sh.saxis sh.rows sh.cols (drainVal x0 d t) d.draws
    let y := putConv x0 d.dest f d.cfg sh.rows sh.cols k
    let s1 := setCell s0 c { y with m := removeOp y.m op }
    drainWrite s c op = settle (bump (flagDest s1 (opLoc c o) d.dest k.flags) c.die (setCellSet c.site) 4 1) c := by
  have hmine : (getCell s c).m.outHeld.any (fun id => id != op) = false := by
    cases hout : (getCell s c).m.outHeld with
    | none => rfl
    | some id => simp [hheld id hout]
  simp only [drainWrite, hfind, hkind, htaken, hact, hmine, hport, Bool.not_true, Bool.or_false, Bool.false_eq_true, if_false]

theorem drainWrite_of_ew {e : EwOp} {r : List (Nat × List Byte) × Bool} (hfind : findOp (getCell s c).m op = some o) (hkind : o.kind = .ew e)
    (hout : e.out = some r) (hfree : (getCell s c).c.grant = none) : drainWrite s c op = ewWrite s c o e r := by
  simp [drainWrite, hfind, hkind, hout, hfree]

theorem drainWrite_of_red {wfmt tag win slot r : Nat} {t : Taken} (hfind : findOp (getCell s c).m op = some o)
    (hkind : o.kind = .redAcc wfmt tag win (some t)) (hfirst : (firstRed (getCell s c).m).any (fun f => f.id == op) = true)
    (hroute : cellRedRoute s c = some (slot, r)) (hempty : (getRoute (getDie s c.die) slot r).outq = []) :
    drainWrite s c op = flagAcc (queueItem s c.die slot r (redAccItem t wfmt tag win).1) (opLoc c o) t.pt (redAccItem t wfmt tag win).2 := by
  simp [drainWrite, hfind, hkind, hfirst, hroute, hempty]

/-- The write of a result is that of the drain unit, and then the accesses of the cell that waited for it are served. -/
theorem execDrainResultWrite_of_write {u : State} (h : drainWrite s c op = u) :
    execDrainResultWrite c op s = .next (serveCell (getCell u c).m.access.length u c) := by
  rw [← h]
  rfl

end DrainUnit

/-- Settles O15, from what a collector, a spill point, the last slice and each read and write of the drain unit do. -/
theorem engineMemory : Obligations.EngineMemory := by
  refine ⟨?engine, ?drainUnit⟩
  case engine =>
    intro s c eng sideB o t pt x r e k
    refine ⟨?fetch, ?retryWrite, execSpillPoint_of_due, execLastSlice_of_due⟩
    case fetch =>
      intro slot g hcur hstep hin hretry hfetch
      have hruns := fun perr => execGroupFetch_of_due perr hcur hstep hin hretry hfetch
      refine ⟨hruns false, fun hvalid => ?_, fun hvalid hraise => ?_⟩
      · exact (hruns true).trans (if_pos hvalid)
      · exact (hruns true).trans ((if_neg (Bool.eq_false_iff.mp hvalid)).trans (if_pos hraise))
    case retryWrite =>
      intro slot hretry hfree hvalid s1 y e1 k1
      have hruns := execParityRetryWrite_of_free hretry hfree hvalid
      refine ⟨fun hcur => hruns.trans ?_, fun o' t' pt' hcur => hruns.trans ?_⟩
      · simp only [y, s1] at hcur
        simp only [hcur, y, s1, e1, k1]
      · simp only [y, s1] at hcur
        simp only [hcur, y, s1, e1, k1]
  case drainUnit =>
    intro s c op o x s0 wrote hfind
    refine ⟨?drainRead, ?redRead, ?drainWrite, ?ewWrite, ?redWrite⟩
    case drainRead =>
      intro d pt hhead htile hfree hkind htaken hgood reads
      have hruns := fun perr => execDrainRead_of_drain perr hfind hhead htile hfree hkind htaken hgood
      have hid := findOp_id hfind
      refine ⟨?good, ?retry⟩
      case good =>
        rw [exec_drainRead, hruns false, Bool.false_and, Bool.false_and, withParity_good, hid]
      case retry =>
        intro hmode hact hvalid hport
        have hperr : (true && d.fmode == 2 && mayAct (getCell s c) o) = true := by simp [hmode, show mayAct (getCell s c) o = true from hact]
        rw [exec_drainRead, hruns true, hperr, withParity_retries hvalid hport, hid]
    case redRead =>
      intro wfmt tag win pt hhead htile hfree hkind
      exact execDrainRead_of_red hfind hhead htile hfree hkind
    case drainWrite =>
      intro d t hkind htaken hact hheld hport
      exact execDrainResultWrite_of_write (drainWrite_of_drain hfind hkind htaken hact hheld hport)
    case ewWrite =>
      intro e r hkind hout hfree
      exact execDrainResultWrite_of_write (drainWrite_of_ew hfind hkind hout hfree)
    case redWrite =>
      intro wfmt tag win t slot r hkind hfirst hroute hempty
      exact execDrainResultWrite_of_write (drainWrite_of_red hfind hkind hfirst hroute hempty)

end Sys2Proof.Machine
end

section
/-! Proofs about actions on streams, faulted transfers, grants and sector controllers (R19, R112, R134 to R136, R171 to R175). -/

namespace Sys2Proof.Machine

/-! ### Actions on streams (Table 6.20) -/

section Actions

variable {s u : State} {agent : Nat} {l : StreamLoc}

theorem streamWrite_of_free {reg v : Nat} (hreach : reachesCell s agent (cellOf l) = true) (hfree : cellHeld s (cellOf l) = false)
    (hl : l.stream < 6) : streamWrite s agent l reg v u = acked agent u := by
  simp [streamWrite, cellReg, answer, hreach, hfree, hl, acked]

/-- An action writes what it does in this state, and where it does nothing ACT_IGNORED. -/
theorem streamActCmd_of_free {act : Nat} (hreach : reachesCell s agent (cellOf l) = true) (hfree : cellHeld s (cellOf l) = false)
    (hl : l.stream < 6) :
    streamActCmd s agent l act = acked agent ((streamAct s l act).getD (modStream s l (fun t => { t with actIgnored := true }))) :=
  streamWrite_of_free hreach hfree hl

end Actions

/-- Settles O16, by the action and the state of the stream. -/
theorem streamActions : Obligations.StreamActions := by
  intro s agent l t c ignored hreach hfree hl
  have hdoes : ∀ {act u}, streamAct s l act = some u → streamActCmd s agent l act = acked agent u := by
    intro act u h
    rw [streamActCmd_of_free hreach hfree hl, h]
    rfl
  have hnone : ∀ {act}, streamAct s l act = none → streamActCmd s agent l act = ignored := by
    intro act h
    rw [streamActCmd_of_free hreach hfree hl, h]
    rfl
  simp only [t]
  refine ⟨?start, ?retry, ?skip, ?skipIssued, ?stop, ?resume, ?noStart, ?noException, ?noStop, ?noResume⟩
  case start =>
    rintro (hst | hst)
    · exact hdoes (by simp [streamAct, hst])
    · exact hdoes (by simp [streamAct, hst])
  case retry =>
    intro hst
    exact hdoes (by simp [streamAct, hst])
  case skip =>
    intro hst hop
    exact hdoes (by simp [streamAct, hst, hop])
  case skipIssued =>
    intro id hst hop
    exact hdoes (by simp [streamAct, hst, hop, c])
  case stop =>
    rintro (hst | ⟨hst, hat⟩)
    · exact hdoes (by simp [streamAct, hst])
    · exact hdoes (by simp [streamAct, hst, hat])
  case resume =>
    intro hst
    exact hdoes (by simp [streamAct, hst, c])
  case noStart =>
    intro hidle hhalted
    exact hnone (by cases hst : (getStream s l).st <;> simp_all [streamAct])
  case noException =>
    intro hne
    exact ⟨hnone (by cases hst : (getStream s l).st <;> simp_all [streamAct]), hnone (by cases hst : (getStream s l).st <;> simp_all [streamAct])⟩
  case noStop =>
    intro hrun hbeat
    refine hnone ?_
    cases hst : (getStream s l).st with
    | running => exact absurd hst hrun
    | exception =>
      have hlater : ¬ (getStream s l).excAt = some (beatNow s l) := fun hat => hbeat ⟨hst, hat⟩
      simp [streamAct, hst, hlater]
    | _ => simp [streamAct, hst]
  case noResume =>
    intro hne
    exact hnone (by cases hst : (getStream s l).st <;> simp_all [streamAct])

/-- Settles O17: with a transfer stopped, RESUME and CANCEL each take effect. -/
theorem faultResolution : Obligations.FaultResolution := by
  intro s agent l c held hreach hfree hl hacc hheld
  have hsome : (stoppedOf (getCell s (cellOf l)).m l.stream).isEmpty = false := by simpa using hheld
  have hwrites : ∀ act, sfltCmd s agent l act = acked agent (sfltAct s l act) := by
    intro act
    rw [sfltCmd, streamWrite_of_free hreach hfree hl, if_neg (by simp [hacc])]
  exact ⟨(hwrites 1).trans (by simp [sfltAct, hsome, c]), (hwrites 2).trans (by simp [sfltAct, hsome, c, held])⟩

/-! ### Grants -/

section Grants

variable {s : State} {d : DieId} {group site : Nat}

theorem execGrantStart_of_xfetch {op : Nat} {o : Op} {f : Xfetch} {tiles : List (Nat × List Byte)}
    (hturn : grantTurn s d group (.xfetch site op) = true) (hfind : findOp (getCell s { die := d, site := site }).m op = some o)
    (hkind : o.kind = .xfetch f) (htiles : xfetchTiles s { die := d, site := site } f f.nt = .ok tiles) :
    execGrantStart d group (.xfetch site op) s = .next (dropAnswers (startGrant s d group site (.xfetch site op)
      { kind := 0, off := f.off + f.done
        data := xfetchPart (getCell s { die := d, site := site }).m f tiles, op := some op, route := none }) d) := by
  simp [execGrantStart, hturn, hfind, hkind, htiles, nx]

theorem execGrantStart_of_delivery {slot route off : Nat} {h : W64} {a : StAt} {bs : List Byte}
    (hturn : grantTurn s d group (.delivery slot route) = true) (hroute : rtAt s d slot route = some a)
    (hhead : routeHead s (dstOf a route) route = some (.tile h off bs))
    (hfits : deliverOff a.bill route (getRoute (getDie s d) slot route) off bs + bs.length ≤ storeSize) :
    execGrantStart d group (.delivery slot route) s = .next (startGrant s d group (dstOf a route).place (.delivery slot route)
      { kind := extKind a.kind, off := deliverOff a.bill route (getRoute (getDie s d) slot route) off bs, data := bs, op := none
        route := some (rtKey slot route, true) }) := by
  simp [execGrantStart, hturn, hroute, hhead, Nat.not_lt.mpr hfits, nx]

theorem execGrantEnd_of_xfetch {g : Grant} {op : Nat} (hsite : (getGate (getDie s d) group).grantSite = some site)
    (hgrant : (getCell s { die := d, site := site }).c.grant = some g) (hdata : g.data ≠ []) (hop : g.op = some op) (hroute : g.route = none) :
    let c : CellLoc := { die := d, site := site }
    let s1 := modCell (modGate s d group (fun g => { g with grantSite := none })) c (fun x => writeStore x g.off g.data)
    execGrantEnd d group s = .next (xfetchGranted
      (modCell s1 c (fun x => markWaits { x with c := { x.c with grant := none, gapRun := x.c.minGap != 0 } })) c op) := by
  simp [execGrantEnd, hsite, hgrant, hdata, hop, hroute, nx]

end Grants

/-- Settles O19, by the request whose grant starts and by the end of a grant. -/
theorem grants : Obligations.Grants := by
  intro s d group site c x
  refine ⟨?xfetch, ?delivery, ?ends, fun hgap => if_pos hgap⟩
  case xfetch =>
    intro op o f tiles hturn hfind hkind htiles
    exact execGrantStart_of_xfetch hturn hfind hkind htiles
  case delivery =>
    intro slot route a h off bs hturn hroute hhead at_ hfits
    exact execGrantStart_of_delivery hturn hroute hhead hfits
  case ends =>
    intro g op hsite hgrant hdata hop hroute
    exact execGrantEnd_of_xfetch hsite hgrant hdata hop hroute

/-! ### Sector controllers -/

/-- Settles O20: the check and its time-out exclude each other by the answer. -/
theorem sectorControllers : Obligations.SectorControllers := by
  intro s d sec x hrun hsec happly
  refine ⟨?answers, ?fails⟩
  case answers =>
    refine if_pos ?_
    simpa [x, hsec, happly] using hrun
  case fails =>
    intro hgood hlate
    refine if_pos ?_
    simp only [x] at hrun hgood hlate
    simp [hrun, hsec, hgood, happly, hlate]

end Sys2Proof.Machine
end

section
/-! Proofs about routes, stations and reduction links (R190 to R200, R275 to R283, R289, R310, R314). -/

namespace Sys2Proof.Machine

/-! ### Lines of a route -/

section Routes

variable {s : State} {d : DieId} {slot route : Nat} {a : StAt} {i : Item} {rest : List Item}

/-- A route is that of its slot on its die. -/
theorem rtAt_place (h : rtAt s d slot route = some a) : a.d = d ∧ a.slot = slot := by
  unfold rtAt at h
  split at h
  · split at h
    · cases h
      exact ⟨rfl, rfl⟩
    · cases h
  · cases h

/-- The state in which a route sends: its RED of a slot, if one waits, has formed its contribution. -/
def sendsFrom (s : State) (a : StAt) (route : Nat) : State :=
  match redReady s a route with
  | some o => redForm (modM s { die := a.d, site := a.place } (fun m => served m o.id)) a route o
  | none => s

theorem execLineSend_of_ready (hroute : rtAt s d slot route = some a) (hsources : sourcesStopped s a = false) (hsite : siteLost s a = false)
    (hline : lineReady (sendsFrom s a route) a route = true) (hturn : linkTurn (sendsFrom s a route) a route = true) :
    execLineSend d slot ⟨route, false⟩ s = .next (sendLine (sendsFrom s a route) a route) := by
  obtain ⟨rfl, rfl⟩ := rtAt_place hroute
  unfold sendsFrom at *
  cases hred : redReady s a route with
  | none =>
    rw [hred] at hline hturn
    simp [execLineSend, hroute, hsources, hsite, hred, hline, hturn, nx]
  | some o =>
    rw [hred] at hline hturn
    simp [execLineSend, hroute, hsources, hsite, hred, hline, hturn, withParity_good, nx]

/-- A line of a route takes its credit and the route's first ring link. -/
def lineGone (s : State) (a : StAt) (route : Nat) (y : Route) : State :=
  freeOut (modRoute (tookLink s a route 0) a.d a.slot route (fun _ => y)) a route 1

theorem sendLine_of_more {h : W64} {off : Nat} {bs : List Byte} (hq : (getRoute (getDie s a.d) a.slot route).outq = .tile h off bs :: rest)
    (hmore : (getRoute (getDie s a.d) a.slot route).sentLines + 1 < itemLines (.tile h off bs)) :
    let x := getRoute (getDie s a.d) a.slot route
    sendLine s a route = bump (lineGone s a route { x with
      credits := x.credits - 1, transit := x.transit ++ [min 1 (routeLinks a route).length], sentLines := x.sentLines + 1 })
      a.d (setStationSet a.kind a.place) 2 1 := by
  simp [sendLine, hq, lineGone, Nat.not_le.mpr hmore]

theorem sendLine_of_last {h : W64} {off : Nat} {bs : List Byte} (hq : (getRoute (getDie s a.d) a.slot route).outq = .tile h off bs :: rest)
    (hlast : (getRoute (getDie s a.d) a.slot route).sentLines + 1 = itemLines (.tile h off bs)) :
    let x := getRoute (getDie s a.d) a.slot route
    let set := setStationSet a.kind a.place
    sendLine s a route = bump (bucketSent (redSent (bump (lineGone s a route { x with
      credits := x.credits - 1, transit := x.transit ++ [min 1 (routeLinks a route).length]
      outq := rest, sentLines := 0, flight := x.flight ++ [.tile h off bs] }) a.d set 2 1) a route) a h) a.d set 1 1 := by
  simp [sendLine, hq, lineGone, hlast]

theorem sendLine_of_token {q : W32} {arg : W64} (hq : (getRoute (getDie s a.d) a.slot route).outq = .token q arg :: rest)
    (hnew : (getRoute (getDie s a.d) a.slot route).sentLines = 0) :
    let x := getRoute (getDie s a.d) a.slot route
    sendLine s a route = lineGone s a route { x with
      credits := x.credits - 1, transit := x.transit ++ [min 1 (routeLinks a route).length]
      outq := rest, sentLines := 0, flight := x.flight ++ [.token q arg] } := by
  simp [sendLine, hq, lineGone, hnew, itemLines]

/-! ### Items and tokens that reach their input port -/

/-- The item leaves the lines in flight for the input port. -/
def itemIn (s : State) (d : DieId) (slot route : Nat) (i : Item) (rest : List Item) : State :=
  modRoute s d slot route (fun x => { x with flight := rest, inbox := x.inbox ++ [i], transit := x.transit.drop (itemLines i) })

section Presents

variable (hroute : rtAt s d slot route = some a) (harr : itemArrived a route (getRoute (getDie s d) slot route) = true)
include hroute harr

theorem execItemPresent_tile {h : W64} {off : Nat} {bs : List Byte}
    (hflight : (getRoute (getDie s d) slot route).flight = .tile h off bs :: rest) :
    let dst := dstOf a route
    let s2 := stMod (itemIn s d slot route (.tile h off bs) rest) dst 0 (fun x => { x with order := x.order ++ [route] })
    execItemPresent d slot route s = .next (if dst.kind = 1 then askGrant s2 d (groupOf dst.place) [.delivery slot route]
      else if [4, 6, 7].contains dst.kind then stAsks s2 dst else sendChain s2 dst) := by
  simp only [execItemPresent, hroute, harr, hflight, itemIn, Bool.not_true, Bool.false_eq_true, if_false, nx]

theorem execItemPresent_token {q : W32} {arg : W64} (hflight : (getRoute (getDie s d) slot route).flight = .token q arg :: rest) :
    let dst := dstOf a route
    let s1 := itemIn s d slot route (.token q arg) rest
    execItemPresent d slot route s =
      if dst.kind = 9 ∨ dst.kind = 10 then .next (sendChain (stMod s1 dst 0 (fun x => { x with order := x.order ++ [route] })) dst)
      else if rtGating a.bill route || dst.kind == 11 then .next s1
      else .next (consumeHead s1 dst route) := by
  simp only [execItemPresent, hroute, harr, hflight, itemIn, Bool.not_true, Bool.false_eq_true, if_false, nx]

end Presents

theorem execCreditReturn_of_owed (hroute : rtAt s d slot route = some a) (howed : (getRoute (getDie s d) slot route).owed ≠ 0) :
    execCreditReturn d slot route s = .next (modRoute s d slot route (fun x => { x with owed := x.owed - 1, credits := x.credits + 1 })) := by
  simp [execCreditReturn, hroute, howed, nx]

theorem execRouteRelease_of_due {sem : Nat} (hroute : rtAt s d slot route = some a) (hkind : (dstOf a route).kind = 1)
    (hwait : (getCell s { die := d, site := (dstOf a route).place }).c.semWait.find? (fun p => p.1 == route) = some (route, sem))
    (hroom : getSem (getCell s { die := d, site := (dstOf a route).place }).c sem < 255) :
    execRouteRelease d slot route s = .next (modC s { die := d, site := (dstOf a route).place } (fun k =>
      { setSem k sem (getSem k sem + 1) with semWait := k.semWait.erase (route, sem) })) := by
  simp [execRouteRelease, hroute, hkind, hwait, Nat.not_le.mpr hroom, nx]

end Routes

/-- Settles O21, from what a line, a presented item, a credit and a release do. -/
theorem routeTraffic : Obligations.RouteTraffic := by
  refine ⟨?lines, ?presents⟩
  case lines =>
    intro s d slot route a i rest s1 x x1 set put gone hroute hsources hsite hq hline hturn
    obtain ⟨rfl, rfl⟩ := rtAt_place hroute
    have hsends := execLineSend_of_ready hroute hsources hsite hline hturn
    refine ⟨?more, ?last, ?token⟩
    case more =>
      rintro h off bs rfl hmore
      exact hsends.trans (congrArg _ (sendLine_of_more hq hmore))
    case last =>
      rintro h off bs rfl hlast
      exact hsends.trans (congrArg _ (sendLine_of_last hq hlast))
    case token =>
      rintro q arg rfl hnew
      exact hsends.trans (congrArg _ (sendLine_of_token hq hnew))
  case presents =>
    intro s d slot route a i rest x dst s1 hroute
    refine ⟨?items, execCreditReturn_of_owed hroute, ?release⟩
    case release =>
      intro sem c k hkind hwait hroom
      exact execRouteRelease_of_due hroute hkind hwait hroom
    case items =>
      intro hflight harr
      refine ⟨?tile, ?fifo, ?gates, ?consumed⟩
      case tile =>
        rintro h off bs rfl s2
        exact execItemPresent_tile hroute harr hflight
      case fifo =>
        rintro q arg rfl hkind
        exact (execItemPresent_token hroute harr hflight).trans (if_pos hkind)
      case gates =>
        rintro q arg rfl h9 h10 hgates
        exact (execItemPresent_token hroute harr hflight).trans ((if_neg (not_or.mpr ⟨h9, h10⟩)).trans (if_pos hgates))
      case consumed =>
        rintro q arg rfl h9 h10 hgates
        exact (execItemPresent_token hroute harr hflight).trans
          ((if_neg (not_or.mpr ⟨h9, h10⟩)).trans (if_neg (Bool.eq_false_iff.mp hgates)))

end Sys2Proof.Machine
end

section
/-! Proofs about stations and reduction links (R195 to R200, R275 to R283, R289, R310, R314). -/

namespace Sys2Proof.Machine

/-! ### Micro-batches -/

section Stations

variable {s : State} {d : DieId} {slot station : Nat} {a : StAt}

theorem execMicroBatchBegin_of_captured {ctx : Nat} {cap : Captured} (hst : stAt s d slot station = some a) (hbegin : mayBegin s a ctx = true)
    (hlist : listFetched s a = true) (hcap : captureFor s a (stGet s a ctx).begun = .ok cap) :
    execMicroBatchBegin d slot station ctx s = .next (dropAnswers (beginWith s a ctx cap) d) := by
  simp [execMicroBatchBegin, hst, hbegin, hlist, hcap, nx]

theorem execMicroBatchEnd_of_done {ctx : Nat} (hst : stAt s d slot station = some a) (hctx : ctx < 3) (hkind : a.kind = 1 ∨ ctx = 0)
    (hrun : (stGet s a ctx).begun = (stGet s a ctx).ended + 1) (hgoes : stHalted s a = false) (hdone : workDone s a ctx = true) :
    execMicroBatchEnd d slot station ctx s = .next (bump
      (emitTokens (stMod s a ctx (fun x => { x with ended := x.ended + 1, asked := 0, got := 0 })) a (doneRoutes a.bill a.st ctx)
        (stGet s a ctx).seq (stGet s a ctx).arg) d (setStationSet a.kind a.place) 0 1) := by
  simp [execMicroBatchEnd, hst, hctx, hkind, hrun, hgoes, hdone, nx]

/-! ### The items of a micro-batch -/

theorem decide_ne_of_eq {x y : Nat} (h : x = y) : decide (x ≠ y) = false := by simp [h]

section Items

variable (hst : stAt s d slot station = some a) (hgoes : stHalted s a = false) (hrun : (stGet s a 0).begun = (stGet s a 0).ended + 1)
  (hgot : stepFetched a (stGet s a 0) = true)
include hst hgoes hrun hgot

theorem execDrainStageItem_of_written {r : Nat} {hdr : W64} {bs : List Byte} {s1 : State} (hkind : a.kind = 4)
    (hmore : (stGet s a 0).count < a.p 4 4) (hitem : nextItem s a = some (r, hdr, bs))
    (hsize : itemLines (.tile 0 0 bs) = ceilDiv (tileBytes (stGet s a 0).ent) 256) (hrw : eReadOnly (stGet s a 0).ent = false) :
    let x := stGet s a 0
    let coord := coordPlus (a.p 8 8) ((x.begun - 1) * a.p 4 4 + x.count)
    writeTile s d (stCaches s a) a.part x.ent (writeBase x.ent) coord bs = .ok s1 →
    execDrainStageItem d slot station s = .next (stMod
      (takeItem (stBytes (dropAnswers s1 d) a (writeBase x.ent + rowOff x.ent coord 0) (tileBytes x.ent)) a) a 0
      (fun x => { stepDone a x with count := x.count + 1 })) := by
  intro x coord hwrite
  simp only [x, coord] at hwrite
  have hleft : decide (a.p 4 4 ≤ (stGet s a 0).count) = false := by simp [hmore]
  simp only [execDrainStageItem, hst, decide_ne_of_eq hkind, hgoes, decide_ne_of_eq hrun, hleft, hgot, hitem, ne_eq, hsize, hrw,
    hwrite, Bool.or_false, Bool.not_true, Bool.false_eq_true, if_false, not_true, nx, x, coord]

section Relay

variable {w : Work} {rest : List Work} {r : Nat} {hdr : W64} {bs : List Byte}

/-- What a relay does with an item once it is written: it sends it on and counts it. -/
def relayed (a : StAt) (rest : List Work) (count : Nat) (hdr : W64) (bs : List Byte) (s : State) : State :=
  stMod (relaySend (takeItem s a) a count hdr bs) a 0 (fun x => { stepDone a x with work := rest, count := x.count + 1 })

theorem execRelayItem_of_plain (hkind : a.kind = 7) (hwork : (stGet s a 0).work = w :: rest) (hitem : nextItem s a = some (r, hdr, bs))
    (hgood : bit hdr.toNat 30 = false) (hent : (stGet s a 0).ent = 0) :
    execRelayItem d slot station s = .next (relayed a rest (stGet s a 0).count hdr bs s) := by
  simp only [execRelayItem, hst, decide_ne_of_eq hkind, hgoes, decide_ne_of_eq hrun, hgot, hwork, hitem, hgood, hent,
    Bool.or_false, Bool.not_true, Bool.false_eq_true, if_false, if_true, nx, relayed]

theorem execRelayItem_of_written {s1 : State} (hkind : a.kind = 7) (hwork : (stGet s a 0).work = w :: rest)
    (hitem : nextItem s a = some (r, hdr, bs)) (hgood : bit hdr.toNat 30 = false) (hent : (stGet s a 0).ent ≠ 0)
    (hfmt : eFmt (stGet s a 0).ent = wireFmt hdr.toNat) (hrw : eReadOnly (stGet s a 0).ent = false)
    (hwrite : writeTile s d (stCaches s a) a.part (stGet s a 0).ent (writeBase (stGet s a 0).ent) w.coord bs = .ok s1) :
    execRelayItem d slot station s = .next (relayed a rest (stGet s a 0).count hdr bs (stBytes (dropAnswers s1 d) a
      (writeBase (stGet s a 0).ent + rowOff (stGet s a 0).ent w.coord 0) (tileBytes (stGet s a 0).ent))) := by
  simp only [execRelayItem, hst, decide_ne_of_eq hkind, hgoes, decide_ne_of_eq hrun, hgot, hwork, hitem, hgood, hent, ne_eq, hfmt, hrw, hwrite,
    Bool.or_false, Bool.not_true, Bool.false_eq_true, if_false, not_true, nx, relayed]

theorem execScheduleDelivery_of_read {r : Nat} {bs : List Byte} (hkind : a.kind = 3) (hwork : (stGet s a 0).work = w :: rest)
    (hroute : portRoute a w.port 0 = some r) (hread : readTile s d (stCaches s a) a.part w.ent w.base w.coord = .ok bs) :
    let s1 := stBytes (dropAnswers s d) a (w.base + rowOff w.ent w.coord 0) (tileBytes w.ent)
    execScheduleDelivery d slot station s =
      .next (stMod (queueItem s1 d slot r (.tile 0 w.off bs)) a 0 (fun x => { stepDone a x with work := rest })) := by
  simp only [execScheduleDelivery, hst, decide_ne_of_eq hkind, hgoes, decide_ne_of_eq hrun, hgot, hwork, hroute, hread,
    Bool.or_false, Bool.not_true, Bool.false_eq_true, if_false, nx]

end Relay

theorem execMoverBlock_of_step {s1 : State} (hkind : a.kind = 6) (hmore : (stGet s a 0).count < mvNblk a)
    (hturn : mvOutOfOrder s a (stGet s a 0).count = false) (hstep : moverStep s a (stGet s a 0) (stGet s a 0).count = some (s1, .ok ())) :
    let x := stGet s a 0
    let s2 := if mvImage a = 0 then s1 else stBytes s1 a (mvImage a + 65536 * x.count) 65544
    execMoverBlock d slot station s = .next (moverAsks
      (stMod (dropAnswers (mvEntryBytes s2 a x) d) a 0 (fun x => { stepDone a x with count := x.count + 1 })) a) := by
  have hleft : decide (mvNblk a ≤ (stGet s a 0).count) = false := by simp [hmore]
  simp only [execMoverBlock, hst, decide_ne_of_eq hkind, hgoes, decide_ne_of_eq hrun, hgot, hleft, hturn, hstep,
    Bool.or_false, Bool.not_true, Bool.false_eq_true, if_false, nx]

end Items

end Stations

/-- Settles O22: a micro-batch begins and ends, and each kind of station handles its next item. -/
theorem stations : Obligations.Stations := by
  refine ⟨?batches, ?items⟩
  case batches =>
    intro s d slot station ctx a x hst
    refine ⟨fun cap hbegin hlist hcap => execMicroBatchBegin_of_captured hst hbegin hlist hcap, ?ends⟩
    case ends =>
      intro hctx hkind hrun hgoes hdone
      exact execMicroBatchEnd_of_done hst hctx hkind hrun hgoes hdone
  case items =>
    intro s d slot station a x hst hgoes hrun hgot
    refine ⟨?drain, ?relay, ?schedule, ?mover⟩
    case drain =>
      intro r hdr bs s1 hkind hmore hitem hsize hrw coord hwrite
      exact execDrainStageItem_of_written hst hgoes hrun hgot hkind hmore hitem hsize hrw hwrite
    case relay =>
      intro w rest r hdr bs hkind hwork hitem hgood sent
      refine ⟨fun hent => execRelayItem_of_plain hst hgoes hrun hgot hkind hwork hitem hgood hent, ?written⟩
      case written =>
        intro s1 hent hfmt hrw hwrite
        exact execRelayItem_of_written hst hgoes hrun hgot hkind hwork hitem hgood hent hfmt hrw hwrite
    case schedule =>
      intro w rest r bs hkind hwork hroute hread s1
      exact execScheduleDelivery_of_read hst hgoes hrun hgot hkind hwork hroute hread
    case mover =>
      intro s1 hkind hmore hturn hstep s2
      exact execMoverBlock_of_step hst hgoes hrun hgot hkind hmore hturn hstep

/-! ### Reduction links -/

section Links

variable {s : State} {d : DieId} {slot route : Nat} {src : StAt} {hdr : W64} {off : Nat} {bs : List Byte}

section Judged

variable (hroute : rtAt s d slot route = some src) (hkind : (dstOf src route).kind = 5)
  (hhead : routeHead s (dstOf src route) route = some (.tile hdr off bs))
include hroute hkind hhead

theorem execRedItemJudge_fold :
    let a := dstOf src route
    let t := fld hdr.toNat 11 0
    let k := getLink (getDie s d) a.place
    judgeItem a k route t = .fold → (findPlace k t).any (overdue a k (timeOf s (some d))) = false →
    execRedItemJudge d slot route s =
      .next (modLink (popItem s a route) d a.place (fun k => joinPlace k (timeOf s (some d)) t route hdr.toNat bs)) := by
  intro a t k hjudge hlate
  simp only [a, t, k] at hjudge hlate
  simp [execRedItemJudge, hroute, hkind, hhead, hjudge, hlate, nx, a, t]

theorem execRedItemJudge_opens :
    let a := dstOf src route
    let t := fld hdr.toNat 11 0
    let k := getLink (getDie s d) a.place
    judgeItem a k route t = .opens →
    execRedItemJudge d slot route s = .next (modLink (popItem s a route) d a.place (fun k =>
      joinPlace { openTag k t with places := (openTag k t).places ++ [{
        tag := t, fmt := wireFmt hdr.toNat, win := fld hdr.toNat 26 17, hdr := 0, opened := timeOf s (some d) }] }
        (timeOf s (some d)) t route hdr.toNat bs)) := by
  intro a t k hjudge
  simp only [a, t, k] at hjudge
  simp [execRedItemJudge, hroute, hkind, hhead, hjudge, nx, a, t]

theorem execRedItemJudge_misrouted :
    let a := dstOf src route
    let t := fld hdr.toNat 11 0
    let k := getLink (getDie s d) a.place
    judgeItem a k route t = .misrouted →
    execRedItemJudge d slot route s = .next (modLink (oweLines (popItem s a route) a route (ceilDiv bs.length 256)) d a.place (fun k =>
      { k with misrouted := BitVec.ofNat 16 (satAdd 16 k.misrouted.toNat 1) })) := by
  intro a t k hjudge
  simp only [a, t, k] at hjudge
  simp [execRedItemJudge, hroute, hkind, hhead, hjudge, nx, a]

theorem execRedItemJudge_stale :
    let a := dstOf src route
    let t := fld hdr.toNat 11 0
    let k := getLink (getDie s d) a.place
    judgeItem a k route t = .stale ∨ (judgeItem a k route t = .fold ∧ (findPlace k t).any (overdue a k (timeOf s (some d))) = true) →
    execRedItemJudge d slot route s = .next (modLink (oweLines (popItem s a route) a route (ceilDiv bs.length 256)) d a.place (fun k =>
      { k with stale := BitVec.ofNat 16 (satAdd 16 k.stale.toNat 1) })) := by
  intro a t k hstale
  simp only [a, t, k] at hstale
  rcases hstale with hjudge | ⟨hjudge, hlate⟩
  · simp [execRedItemJudge, hroute, hkind, hhead, hjudge, nx, a]
  · simp [execRedItemJudge, hroute, hkind, hhead, hjudge, hlate, nx, a]

end Judged

section Buckets

variable {station head : Nat} {a : StAt} {p : Place}

theorem execRedFold_of_ready (hst : stAt s d slot station = some a) (hkind : a.kind = 5)
    (hfirst : (getLink (getDie s d) a.place).places.find? (fun p =>
      (nextFold a p).isSome && !overdue a (getLink (getDie s d) a.place) (timeOf s (some d)) p) = some p)
    (hnext : nextFold a p = some (route, head, bs)) :
    let f := foldPlace p route head bs
    let s1 := modLink (oweLines s a route (ceilDiv bs.length 256)) d a.place (fun k => setPlace k f.1)
    let s2 := if f.2.nonfinite then stepNonfinite s1 d a.part 0x1FF 3 else s1
    execRedFold d slot station s = .next (if f.1.faulted && !p.faulted then bucketFault s2 a p.tag 1 else s2) := by
  simp only [execRedFold, hst, hkind, hfirst, hnext, ne_eq, not_true, if_false, nx]

theorem execRedEmit_of_full {tag : Nat} (hst : stAt s d slot station = some a) (hkind : a.kind = 5) (hgoes : sourcesStopped s a = false)
    (hfind : findPlace (getLink (getDie s d) a.place) tag = some p) (hnew : p.emitted = false) (hfull : bucketFull a p = true) :
    execRedEmit d slot station tag s = .next (emitPlace s a p) := by
  simp [execRedEmit, hst, hkind, hgoes, hfind, hnew, hfull, nx]

theorem execBucketTimeout_of_late {place tag : Nat} (hfind : findPlace (getLink (getDie s d) place) tag = some p)
    (hst : stationAt s d 5 place = some a) (htmo : (getLink (getDie s d) place).tmo ≠ 0) (hnew : p.emitted = false)
    (hpart : bucketFull a p = false) (hlate : limitAt (getLink (getDie s d) place) p ≤ timeOf s (some d))
    (hquiet : lastInTime a (getLink (getDie s d) place) p = false) :
    let s1 := p.waiting.foldl (fun s w => oweLines s a w.1 (ceilDiv w.2.2.length 256)) s
    let s2 := modLink s1 d place (fun k => { k with stale := BitVec.ofNat 16 (satAdd 16 k.stale.toNat p.waiting.length) })
    execBucketTimeout d place tag s = .next (emitPlace (if p.faulted then s2 else bucketFault s2 a tag 2) a
      { p with fault := true, faulted := true, waiting := [] }) := by
  have hdue : decide (timeOf s (some d) < limitAt (getLink (getDie s d) place) p) = false := by simp [hlate]
  simp only [execBucketTimeout, hfind, hst, htmo, hnew, hpart, hdue, hquiet, decide_false, Bool.or_false, Bool.false_eq_true, if_false, nx]

end Buckets

end Links

/-- Settles O23, by the judgement of an item and by what a bucket of the link does. -/
theorem reduction : Obligations.Reduction := by
  refine ⟨?judged, ?buckets⟩
  case judged =>
    intro s d slot route src hdr off bs a t k back hroute hkind hhead late
    exact ⟨execRedItemJudge_fold hroute hkind hhead, execRedItemJudge_opens hroute hkind hhead, execRedItemJudge_misrouted hroute hkind hhead,
      execRedItemJudge_stale hroute hkind hhead⟩
  case buckets =>
    intro s d slot station place agent a p v k
    refine ⟨?fold, ?emit, ?timeout, ?write⟩
    case fold =>
      intro route hdr bs hst hkind hfirst hnext
      exact execRedFold_of_ready hst hkind hfirst hnext
    case emit =>
      intro tag hst hkind hgoes hfind hnew hfull
      exact execRedEmit_of_full hst hkind hgoes hfind hnew hfull
    case timeout =>
      intro tag k hfind hst htmo hnew hpart hlate hquiet
      exact execBucketTimeout_of_late hfind hst htmo hnew hpart hlate hquiet
    case write =>
      intro hreach hplace
      simp [exec_rlCtlWrite, execRlCtlWrite, answer, hreach, hplace, writeRl, acked]

end Sys2Proof.Machine
end

section
/-! Proofs about loading, selecting and switching Bills (R212, R215 to R218, Table 7.16). -/

namespace Sys2Proof.Machine

/-! ### Loads and selects -/

section Bills

variable {s : State} {d : DieId} {q cseq slot : Nat} {c : Started}

theorem execBillLoad_of_free (hc : freshCmd s d q cseq 0x10 = some c) (howner : ownerSlot s d (cmdF c.word 0x10 1) = some (queuePart s d q))
    (hst : (getSlot (getDie s d) (cmdF c.word 0x10 1)).st = .empty ∨ (getSlot (getDie s d) (cmdF c.word 0x10 1)).st = .loaded)
    (hfree : slotNamed s d (queuePart s d q) (cmdF c.word 0x10 1) = false) :
    let r : CmdRef := { q := q, cseq := cseq }
    let slot := cmdF c.word 0x10 1
    execBillLoad d q cseq s = .next (modDie
      (modSlot (waitCmd s d r) d slot (fun x => { x with st := .loading, bill := [], meas := 0, imgMeas := [] })) d
      (fun y => { y with loads := y.loads ++ [{ slot := slot, part := queuePart s d q, va := cmdF c.word 0x18 8, cmd := r }] })) := by
  have hidle : ¬ (((getSlot (getDie s d) (cmdF c.word 0x10 1)).st ≠ .empty ∧ (getSlot (getDie s d) (cmdF c.word 0x10 1)).st ≠ .loaded)
      ∨ slotNamed s d (queuePart s d q) (cmdF c.word 0x10 1) = true) := by
    rcases hst with h | h <;> simp [h, hfree]
  simp only [execBillLoad, hc, howner, ne_eq, not_true, if_false, hidle, nx]

theorem judgeSelect_of_loaded {p : Nat} {w : Select} (htarget : w.target = some slot) (howner : ownerSlot s d slot = some p)
    (hst : (getSlot (getDie s d) slot).st = .loaded) (hsw : (getPart (getDie s d) p).sw = none) (hheld : (getPart (getDie s d) p).held = none) :
    judgeSelect s d p w = startSwitch s d p w := by
  simp [judgeSelect, targetState, htarget, howner, hst, hsw, hheld]

theorem execBillSelect_of_slot (hc : freshCmd s d q cseq 0x12 = some c) (hslot : cmdF c.word 0x10 1 < 8)
    (howner : ownerSlot s d (cmdF c.word 0x10 1) = some (queuePart s d q)) :
    let r : CmdRef := { q := q, cseq := cseq }
    execBillSelect d q cseq s = .next (judgeSelect (waitCmd (activatePart s (queuePart s d q)) d r) d (queuePart s d q)
      { target := some (cmdF c.word 0x10 1), abort := bit (cmdF c.word 0x11 1) 0, cmd := r }) := by
  have hnone : cmdF c.word 0x10 1 ≠ 0xFF := by omega
  simp only [execBillSelect, hc, howner, if_true, hnone, if_false, nx]

theorem execBillLoadBegin_of_waiting {l : Load} {rest : List Load} (hloads : (getDie s d).loads = l :: rest) (hidle : l.running = false) :
    execBillLoadBegin d s = .next
      (askTransfer (modDie s d (fun x => { x with loads := { l with running := true } :: rest })) d (gateOfPart s d l.part) .loader) := by
  simp [execBillLoadBegin, hloads, hidle, modLoad, modDie, nx]

theorem execBillLoadComplete_of_passed {l : Load} {rest : List Load} {b : List Byte} (hloads : (getDie s d).loads = l :: rest)
    (hrun : l.running = true) (hfetched : loadFetched s d l = true) (hread : readBill s d l.part l.va = .ok b)
    (hpass : billStatus s d l.part b = 0) :
    execBillLoadComplete d s = .next (endLoad (dropAnswers s d) d l b 0 (bLength b)) := by
  simp [execBillLoadComplete, hloads, hrun, hfetched, hread, hpass, nx]

/-- A load that passed leaves its slot LOADED with its images placed, and a select only where one waits for it. -/
theorem endLoad_of_passed {l : Load} {b : List Byte} {n : Nat} :
    let s1 := modSlot (doneCmd (modDie s d (fun x => { x with loads := x.loads.tail })) d l.cmd 0 n) d l.slot (fun _ => heldBill b)
    let s2 := (billStations s1 d l.slot 1).foldl placeImages s1
    selectWaiting s2 d l.part l.slot = none → endLoad s d l b 0 n = s2 := by
  intro s1 s2 hnone
  simp only [s1, s2] at hnone
  simp [endLoad, hnone, s1, s2]

end Bills

/-- Settles O24, from what each command, the loader and a held select do. -/
theorem billCommands : Obligations.BillCommands := by
  refine ⟨?commands, ?held⟩
  case commands =>
    intro s d q cseq c r p slot x
    refine ⟨?load, ?select, ?loader⟩
    case load =>
      intro hc howner hst hfree
      exact execBillLoad_of_free hc howner hst hfree
    case select =>
      intro hc hslot howner s1 w howner1 hst hsw hheld
      rw [exec_billSelect, execBillSelect_of_slot hc hslot howner]
      exact congrArg _ (judgeSelect_of_loaded rfl howner1 hst hsw hheld)
    case loader =>
      intro l rest hloads
      refine ⟨execBillLoadBegin_of_waiting hloads, ?complete⟩
      case complete =>
        intro b hrun hfetched hread hpass s1 s2 hnone
        rw [exec_billLoadComplete, execBillLoadComplete_of_passed hloads hrun hfetched hread hpass]
        exact congrArg _ (endLoad_of_passed hnone)
  case held =>
    intro s d part w x hsw hheld
    simp only [x] at hsw hheld
    simp [exec_heldSelectStart, execHeldSelectStart, hsw, hheld, nx]

/-! ### The phases of a switch -/

/-- Settles O25: each phase is the branch of its row that the switch's phase selects. -/
theorem switchPhases : Obligations.SwitchPhases := by
  intro s d part t w x set hsw htarget
  simp only [x] at hsw
  refine ⟨?quiescence, ?close, ?reset, ?configure, ?tables, ?opens⟩
  case quiescence =>
    intro out hphase hout hquiet
    simp [exec_switchQuiescence, execSwitchQuiescence, beginClose, hsw, hphase, hout, hquiet, nx, set]
  case close =>
    intro out hphase hout hempty s1 hnone
    simp only [s1] at hnone
    simp [exec_switchClose, execSwitchClose, hsw, hphase, hout, hempty, hnone, htarget, nx, s1]
  case reset =>
    intro hphase
    simp [exec_switchReset, execSwitchReset, hsw, hphase, htarget, nx, set]
  case configure =>
    intro hphase
    simp [exec_switchConfigure, execSwitchConfigure, hsw, hphase, htarget, nx, set]
  case tables =>
    intro hphase
    simp [exec_switchTables, execSwitchTables, hsw, hphase, htarget, nx, set]
  case opens =>
    intro hphase
    simp [exec_switchOpen, execSwitchOpen, hsw, hphase, htarget, nx]

end Sys2Proof.Machine
end

section
/-! Proofs about command queues and the commands on descriptors (R233, R234, R238 to R240, R245, R250, R251). -/

namespace Sys2Proof.Machine

/-! ### A command queue of a die -/

section Queues

variable {s : State} {agent : Nat} {d : DieId} {q : Nat}

/-- The queues of a die are not the flash store's. -/
theorem ne_flQ (hq : q < 64) : q ≠ flQ := by
  unfold flQ
  omega

theorem cmdQueue_of_lt (hq : q < 64) : cmdQueue s d q = getQueue (getDie s d) q := if_neg (ne_flQ hq)

theorem queueFn_of_lt (hq : q < 64) : queueFn s d q = (getQueue (getDie s d) q).fn := if_neg (ne_flQ hq)

theorem queueReg_of_reach {t : State} (hq : q < 64) (hreach : reachesQueue s agent d q = true) : queueReg s agent d q t = acked agent t := by
  simp [queueReg, answer, hreach, hq, acked]

theorem execCommandWrite_of_room {off : Nat} {data : List Byte} (hq : q < 64) (hreach : reachesQueue s agent d q = true) (hoff : off < 4096)
    (hal : off % 64 = 0) (hlen : data.length = 64) (hon : (getQueue (getDie s d) q).fn.st = .on)
    (hgoes : (getQueue (getDie s d) q).halted = false) (hfree : (getQueue (getDie s d) q).free ≠ 0) :
    execCommandWrite agent d q off data s = .next (writeHeader (modCmdQueue s d q (fun x =>
      { x with entries := x.entries ++ [leNat data], accSeq := x.accSeq + 1, free := x.free - 1 })) d q) := by
  simp [execCommandWrite, judgeWrite, cmdQueue_of_lt hq, queueFn_of_lt hq, hq, hreach, hoff, hal, hlen, hon, hgoes, hfree, nx]

/-- A command that may start leaves its entry, and its opcode decides what its start does. -/
theorem execCommandStart_of_ready {w : Nat} {rest : List Nat} (hq : q < 64) (hentries : (getQueue (getDie s d) q).entries = w :: rest)
    (hstart : mayStart s d q w = true) (hvalid : cmdValid w = true) :
    let x := getQueue (getDie s d) q
    let r : CmdRef := { q := q, cseq := x.startSeq.toNat }
    let s1 := startHead s d q w rest { cseq := 0, word := w }
    execCommandStart d q s =
      if cmdOp w = 0 then .next (doneCmd s1 d r 0 0)
      else if cmdOp w = 1 then
        match fetchStation s d q with
        | none => .next (failCmd s1 d r 7)
        | some _ => .next (modQueue (modStarted s1 d q r.cseq (fun c => { c with prog := x.runs })) d q (fun x => { x with runs := x.runs + 1 }))
      else .next (startCheck s1 d r w) := by
  have hdie : ¬ flQ < q := by
    unfold flQ
    omega
  simp only [execCommandStart, ne_flQ hq, hdie, hentries, hstart, hvalid, Bool.not_true, Bool.false_eq_true, if_false, nx] <;> rfl

theorem startCheck_of_other {r : CmdRef} {w : Nat} (hcopy : cmdOp w ≠ 0x30) (hwait : cmdOp w ≠ 0x50) : startCheck s d r w = s :=
  (if_neg hcopy).trans (if_neg hwait)

theorem execCommandComplete_of_done {cseq status result : Nat} {c : Started} (hq : q < 64)
    (hfind : findStarted (getQueue (getDie s d) q) cseq = some c) (hdone : c.phase = .done status result) :
    execCommandComplete d q cseq s = .next (completeRecord
      (modCmdQueue s d q (fun x => { x with started := x.started.filter (fun y => y.cseq != c.cseq) })) d q c status result) := by
  have hdie : ¬ flQ < q := by
    unfold flQ
    omega
  simp [execCommandComplete, completion, finishCmd, cmdQueue_of_lt hq, hdie, hfind, hdone, nx]

theorem resumeAct_of_halted (hq : q < 64) (hhalted : (getQueue (getDie s d) q).halted = true) :
    resumeAct s d q = writeHeader (modCmdQueue s d q (fun x => { x with halted := false })) d q := by
  simp [resumeAct, cmdQueue_of_lt hq, hhalted]

theorem flushAct_of_on (hq : q < 64) (hon : (getQueue (getDie s d) q).fn.st = .on ∨ (getQueue (getDie s d) q).fn.st = .draining) :
    flushAct s d q = flushQueue s d q := by
  rcases hon with h | h <;> simp [flushAct, queueFn_of_lt hq, h]

theorem fnEnable_of_off {f : Func} (hoff : f.st = .off) : fnEnable f true =
    ({ f with en := true, st := .starting, held := false, pend := false }, true) := by
  simp [fnEnable, hoff]

end Queues

/-- Settles O26, by the access, the command at the head of the queue and the action. -/
theorem queueLife : Obligations.QueueLife := by
  refine ⟨?queues, ?run⟩
  case queues =>
    intro s agent d q off data w rest x r s1 hq
    refine ⟨?write, ?start, ?complete, ?resume, ?flush, ?enable⟩
    case write =>
      intro hreach hoff hal hlen hon hgoes hfree
      exact execCommandWrite_of_room hq hreach hoff hal hlen hon hgoes hfree
    case start =>
      intro hentries hstart hvalid
      have hruns := execCommandStart_of_ready hq hentries hstart hvalid
      refine ⟨fun hop => hruns.trans (if_pos hop), ?isRun, ?other, fun _ hcopy hwait => startCheck_of_other hcopy hwait⟩
      case isRun =>
        intro a hop hst
        refine hruns.trans ((if_neg (by omega)).trans ((if_pos hop).trans ?_))
        simp only [hst] <;> rfl
      case other =>
        intro hop
        exact hruns.trans ((if_neg (by omega)).trans (if_neg (by omega)))
    case complete =>
      intro cseq c status result hfind hdone
      exact execCommandComplete_of_done hq hfind hdone
    case resume =>
      intro hreach hhalted
      exact (queueReg_of_reach hq hreach).trans (congrArg _ (resumeAct_of_halted hq hhalted))
    case flush =>
      intro hreach hon
      exact (queueReg_of_reach hq hreach).trans (congrArg _ (flushAct_of_on hq hon))
    case enable =>
      intro irqEn hreach hoff hconf s2 hconf1 hfn
      refine (queueReg_of_reach hq hreach).trans (congrArg _ ?_)
      simp only [writeQueueCtl, hconf1, hfn, fnEnable_of_off hoff, if_true] <;> rfl
  case run =>
    intro s d q cseq c a hc hst
    simp [exec_run, execRun, hc, hst, nx]

end Sys2Proof.Machine
end

section
/-! Proofs about the commands on descriptors (R240). -/

namespace Sys2Proof.Machine

section Descriptors

variable {s : State} {d : DieId} {q cseq op : Nat} {c : Started} {f : State → DieId → Nat → Nat → Started → Nat → EntR}

theorem cmdOp_of_openCmd (h : openCmd s d q cseq op = some c) : cmdOp c.word = op := by
  unfold openCmd at h
  split at h
  · split at h
    next hop =>
      cases h
      exact hop.1
    · cases h
  · cases h

/-- A command on one entry that has handled none runs that entry. -/
theorem descCmd_of_one (hc : openCmd s d q cseq op = some c) (hprog : c.prog = 0) (hskip : c.skipped = 0) (hone : cmdF c.word 0x14 4 = 1)
    (hrange : inTdtRange s d (queuePart s d q) (cmdF c.word 0x10 4) 1 = true) :
    descCmd s d q cseq op f = runEntries d q (queuePart s d q) cseq f 1 (waitCmd s d { q := q, cseq := cseq }) c 0 0 := by
  simp [descCmd, hc, hprog, hskip, hone, hrange]

theorem runEntries_of_done {u t : State} {p : Nat} (hthere : (entryTransfers u d q p c 0).length ≤ cmdGot u d q cseq)
    (h : f u d q p c 0 = .done t) :
    runEntries d q p cseq f 1 u c 0 0 = doneCmd (modStarted (dropAnswers t d) d q cseq (fun c => { c with prog := 1, asked := 0, got := 0 })) d
      { q := q, cseq := cseq } 0 1 := by
  simp [runEntries, Nat.not_lt.mpr hthere, h]

theorem runEntries_of_skip {u : State} {p : Nat} (hthere : (entryTransfers u d q p c 0).length ≤ cmdGot u d q cseq)
    (h : f u d q p c 0 = .skip) :
    runEntries d q p cseq f 1 u c 0 0
      = doneCmd (modStarted u d q cseq (fun c => { c with prog := 1, skipped := 1 })) d { q := q, cseq := cseq } 0 0 := by
  simp [runEntries, Nat.not_lt.mpr hthere, h]

theorem runEntries_of_missing {u : State} {p : Nat} (hmissing : ¬ (entryTransfers u d q p c 0).length ≤ cmdGot u d q cseq) :
    runEntries d q p cseq f 1 u c 0 0 = cmdAsks u d { q := q, cseq := cseq } :=
  if_pos (Nat.not_le.mp hmissing)

theorem entryTransfers_free {u : State} {p n : Nat} (hop : cmdOp c.word = 0x22) : entryTransfers u d q p c n = [] := by
  simp [entryTransfers, hop]

/-! ### One entry -/

variable {p : Nat} {bs : List Byte}

theorem createEntry_of_invalid (hold : eValid (tdtEntry (getDie s d) (cmdF c.word 0x10 4)) = false)
    (hread : readVA s d (queueCaches s d q) p (cmdF c.word 0x18 8) 64 = .ok bs) (hgood : imageStatus s d p (leNat bs) true = 0)
    (hfree : committing s d (eGroup (leNat bs)) = false) (hout : cmdF c.word 0x20 8 = 0) :
    createEntry s d q p c 0 = .done (setTdt s d (cmdF c.word 0x10 4)
      (withGenv (leNat bs) (nextGen (eGen (tdtEntry (getDie s d) (cmdF c.word 0x10 4)))) true)) := by
  simp [createEntry, hold, hread, hgood, hfree, hout]

theorem updateEntry_of_valid (hold : eValid (tdtEntry (getDie s d) (cmdF c.word 0x10 4)) = true)
    (hread : readVA s d (queueCaches s d q) p (cmdF c.word 0x18 8) 64 = .ok bs)
    (hgen : eGen (leNat bs) = eGen (tdtEntry (getDie s d) (cmdF c.word 0x10 4))) (hgood : imageStatus s d p (leNat bs) false = 0)
    (hfree : committing s d (eGroup (tdtEntry (getDie s d) (cmdF c.word 0x10 4))) = false) :
    updateEntry s d q p c 0
      = .done (setTdt s d (cmdF c.word 0x10 4) (keepFields (tdtEntry (getDie s d) (cmdF c.word 0x10 4)) (leNat bs))) := by
  simp [updateEntry, hold, hread, hgen, hgood, hfree]

theorem freeEntry_of_valid (hold : eValid (tdtEntry (getDie s d) (cmdF c.word 0x10 4)) = true)
    (hfree : committing s d (eGroup (tdtEntry (getDie s d) (cmdF c.word 0x10 4))) = false) :
    freeEntry s d q p c 0
      = .done (setTdt s d (cmdF c.word 0x10 4) (setFld (tdtEntry (getDie s d) (cmdF c.word 0x10 4)) 495 495 0)) := by
  simp [freeEntry, hold, hfree]

theorem freeEntry_of_invalid (hold : eValid (tdtEntry (getDie s d) (cmdF c.word 0x10 4)) = false) : freeEntry s d q p c 0 = .skip := by
  simp [freeEntry, hold]

end Descriptors

/-- Settles O27: each command runs its one entry, as `runEntries` says. -/
theorem descriptorCommands : Obligations.DescriptorCommands := by
  intro s d q cseq c bs r p i s1 old e finish hprog hskip hone hrange there
  have hone := fun {op f} (hc : openCmd s d q cseq op = some c) => descCmd_of_one (f := f) hc hprog hskip hone hrange
  refine ⟨?createAsks, ?updateAsks, ?create, ?update, ?free, ?freeInvalid⟩
  case createAsks =>
    intro hc hmissing
    exact congrArg nx ((hone hc).trans (runEntries_of_missing hmissing))
  case updateAsks =>
    intro hc hmissing
    exact congrArg nx ((hone hc).trans (runEntries_of_missing hmissing))
  case create =>
    intro hc hthere hold hread hgood hfree hout
    exact congrArg nx ((hone hc).trans (runEntries_of_done hthere (createEntry_of_invalid hold hread hgood hfree hout)))
  case update =>
    intro hc hthere hold hread hgen hgood hfree
    exact congrArg nx ((hone hc).trans (runEntries_of_done hthere (updateEntry_of_valid hold hread hgen hgood hfree)))
  case free =>
    intro hc hold hfree
    have hthere : (entryTransfers s1 d q p c 0).length ≤ cmdGot s1 d q cseq := by simp [entryTransfers_free (cmdOp_of_openCmd hc)]
    exact congrArg nx ((hone hc).trans (runEntries_of_done hthere (freeEntry_of_valid hold hfree)))
  case freeInvalid =>
    intro hc hold
    have hthere : (entryTransfers s1 d q p c 0).length ≤ cmdGot s1 d q cseq := by simp [entryTransfers_free (cmdOp_of_openCmd hc)]
    exact congrArg nx ((hone hc).trans (runEntries_of_skip hthere (freeEntry_of_invalid hold)))

end Sys2Proof.Machine
end

section
/-! Proofs about COPY, VERSION_WAIT, STREAM_CTL and the step commands (R241 to R243, R261 to R263). -/

namespace Sys2Proof.Machine

/-! ### COPY and VERSION_WAIT -/

section Copies

variable {s : State} {d : DieId} {q cseq e : Nat} {c : Started}

theorem copyCapture_of_handle {w : Nat} (he : handleEnt s d (queuePart s d q) (cmdF w 0x10 4) = some e)
    (hdual : cmdF w 0x15 1 = 1 → eDual e = true) (hfree : captureWaits s d e = false) (hmem : cmdF w 0x14 1 = 0) :
    copyCapture s d { q := q, cseq := cseq } w = captured s d { q := q, cseq := cseq } e := by
  have hversion : ¬ (cmdF w 0x15 1 = 1 ∧ (!eDual e) = true) := by simpa using hdual
  simp only [copyCapture, he, hversion, hfree, hmem, Bool.false_eq_true, if_false, Nat.zero_ne_one]

theorem copyWrite_of_plain {r : CmdRef} {p : Nat} {srcAt : State → Nat → Option Byte} {bs : List Byte} {t : State} (hdigest : eDigest e = false)
    (hwrite : writeVA s d (queueCaches s d r.q) p (versBase e (cmdF c.word 0x15 1 == 1) + cmdF c.word 0x28 8) bs = .ok t) :
    copyWrite s d r p c e srcAt bs = doneCmd (dropAnswers t d) d r 0 (bs.length % 2 ^ 32) := by
  simp [copyWrite, hwrite, hdigest]

theorem copyRun_of_memory {p : Nat} {bs : List Byte} (hmem : cmdF c.word 0x14 1 = 0) (hthere : (copyTransfers s d q c).length ≤ c.got)
    (hread : readVA s d (queueCaches s d q) p (cmdF c.word 0x18 8) (cmdF c.word 0x20 8) = .ok bs) :
    copyRun s d { q := q, cseq := cseq } p c e
      = copyWrite s d { q := q, cseq := cseq } p c e (copyByte d q p (cmdF c.word 0x18 8)) bs := by
  simp [copyRun, hmem, Nat.not_lt.mpr hthere, hread]

theorem execCopy_of_fresh (hc : openCmd s d q cseq 0x30 = some c) (hfresh : c.phase = .fresh) :
    execCopy d q cseq s = .next (copyCapture s d { q := q, cseq := cseq } c.word) := by
  simp [execCopy, hc, hfresh, nx]

theorem execCopy_of_wait (hc : openCmd s d q cseq 0x30 = some c) (hwait : c.phase = .wait) :
    execCopy d q cseq s = .next (copyRun s d { q := q, cseq := cseq } (queuePart s d q) c c.ent) := by
  simp [execCopy, hc, hwait, nx]

theorem versionTest_of_reached {r : CmdRef} {w vc : Nat} (h : versionReached vc (cmdF w 0x14 4) = true) :
    versionTest s d r w vc = doneCmd s d r 0 vc := if_pos h

end Copies

/-- Settles O28, from the capture and the run of a COPY, the test of a VERSION_WAIT and the action of a STREAM_CTL. -/
theorem tensorAndStreamCommands : Obligations.TensorAndStreamCommands := by
  intro s d q cseq c r p h src len
  refine ⟨?capture, ?copy, ?waitFresh, ?waitTest, ?stream⟩
  case capture =>
    intro e hc hfresh he hdual hfree hmem
    exact (execCopy_of_fresh hc hfresh).trans (congrArg _ (copyCapture_of_handle he hdual hfree hmem))
  case copy =>
    intro bs s3 e hc hwait hthere hmem hdigest hread hwrite
    exact (execCopy_of_wait hc hwait).trans (congrArg _ ((copyRun_of_memory hmem hthere hread).trans (copyWrite_of_plain hdigest hwrite)))
  case waitFresh =>
    intro e hc hfresh he hreached
    simp only [h, p] at he
    simp [exec_versionWait, execVersionWait, hc, hfresh, waitCapture, he, versionTest_of_reached hreached, nx, r]
  case waitTest =>
    intro hc hwait hreached
    simp [exec_versionWait, execVersionWait, hc, hwait, versionTest_of_reached hreached, nx, r]
  case stream =>
    intro hc st l act hpresent howner hact hsome
    simp only [l, st, act, p] at hsome howner hact
    simp [exec_streamCtl, execStreamCtl, streamCtlAct, hc, hpresent, howner, hact, hsome, nx, r, l, st, act]

/-! ### STEP_COMMIT, STEP_ABANDON and the barrier -/

section Commits

variable {s : State} {d : DieId} {q cseq eg p : Nat} {c : Started} {k : Commit}

theorem holdGroup_of_free {op : Nat} {abandon : Bool} (hc : freshCmd s d q cseq op = some c)
    (howner : ownerEpoch s d (cmdF c.word 0x10 1) = some (queuePart s d q)) (hfree : committing s d (cmdF c.word 0x10 1) = false) :
    let r : CmdRef := { q := q, cseq := cseq }
    let g := cmdF c.word 0x10 1
    holdGroup s d q cseq op abandon = modEpoch (waitCmd s d r) d g (fun e => { e with
      commit := some { cmd := r, abandon := abandon, barrier := if abandon then 0xFF else cmdF c.word 0x11 1, settle := groupWriters s d g } }) := by
  simp [holdGroup, hc, howner, hfree]

/-- Once the captured writes of a group have settled, what its commit asks for decides. -/
theorem execStepSettleEnd_of_settled (hk : (getEpoch (getDie s d) eg).commit = some k) (howner : ownerEpoch s d eg = some p)
    (hnew : k.voted = none) (hsettled : k.settle.any (fun w => (groupWriters s d eg).contains w) = false) :
    execStepSettleEnd d eg s =
      if k.abandon then .next (doneCmd (endCommit (clearStep s d p) d p eg 2) d k.cmd 0 (verOf s d eg))
      else if k.barrier = 0xFF then .next (commitPoint s d p eg k.cmd (getPart (getDie s d) p).stepNf)
      else match barrierAt s d p k.barrier with
        | none => .next (barrierFail s d p eg k.cmd)
        | some a => .next (modEpoch
          (stMod s a 0 (fun x => { x with votes := x.votes ++ [(getPart (getDie s d) p).stepNf] })) d eg (fun e =>
            { e with commit := some { k with
              voted := some (timeOf s (some d)), mb := some ((stGet s a 0).begun + (stGet s a 0).votes.length) } })) := by
  simp only [execStepSettleEnd, hk, howner, hnew, hsettled, Option.isSome_none, Bool.or_false, Bool.false_eq_true, if_false, nx] <;> rfl

theorem commitPoint_of_commit {r : CmdRef} :
    let s1 := testWaits (flipGroup s d p eg) d
    commitPoint s d p eg r false = doneCmd (endCommit (clearStep s1 d p) d p eg 1) d r 0 (verOf s1 d eg) := rfl

end Commits

/-- Settles O29: the group is held, its commit settles, and the barrier's verdict or its time-out ends it. -/
theorem stepCommit : Obligations.StepCommit := by
  intro s d q cseq eg p c k r g hold
  refine ⟨?holds, fun hk howner => ⟨?settles, ?verdict, ?timeout⟩⟩
  case holds =>
    intro howner hfree
    exact ⟨fun hc => congrArg nx (holdGroup_of_free hc howner hfree), fun hc => congrArg nx (holdGroup_of_free hc howner hfree)⟩
  case settles =>
    intro hnew hsettled
    have hruns := execStepSettleEnd_of_settled hk howner hnew hsettled
    refine ⟨?abandon, ?commit, ?vote⟩
    case abandon =>
      intro habandon
      exact hruns.trans (if_pos habandon)
    case commit =>
      intro habandon hbarrier hfinite s1
      refine hruns.trans ((if_neg (Bool.eq_false_iff.mp habandon)).trans ((if_pos hbarrier).trans ?_))
      rw [hfinite]
      rfl
    case vote =>
      intro a habandon hbarrier hat mb
      refine hruns.trans ((if_neg (Bool.eq_false_iff.mp habandon)).trans ((if_neg hbarrier).trans ?_))
      rw [hat]
  case verdict =>
    intro v hv
    simp [exec_barrierVerdict, execBarrierVerdict, hk, howner, hv, nx]
  case timeout =>
    intro t tmo hvoted htmo hnone hlate
    simp only [tmo] at htmo hlate
    simp [exec_barrierTimeout, execBarrierTimeout, barrierFail, hk, howner, hvoted, htmo, hnone, hlate, nx]

end Sys2Proof.Machine
end

section
/-! Proofs about memory gates, page walks, invalidations, the die cache and the HBM controllers (R295, R299 to R307, R463). -/

namespace Sys2Proof.Machine

/-! ### Memory gates and page walks -/

section Gates

variable {s : State} {d : DieId} {group part va : Nat} {write : Bool}

theorem execGateTransfer_of_due {client : GateReq} (hgroup : group < 16) (hheld : reqHeld s d group client = false)
    (hdue : reqDue s d group client = true) (hroom : gateRoom (getGate (getDie s d) group) (reqLevel s d client) = true)
    (hturn : gateTurn s d group client = true) :
    exec (.gateTransfer d group client) s =
      .next (afterIssue (countAsked (sendPeerLines (modGate s d group (fun g => { g with
        xfers := g.xfers ++ [{
          id := (getGate (getDie s d) group).nextXfer, level := reqLevel s d client, client := reqClient s d group client
          addrs := reqLines s d group client, lines := (reqLines s d group client).length, since := timeOf s (some d) }]
        nextXfer := g.nextXfer + 1 })) d group (getGate (getDie s d) group).nextXfer (reqLines s d group client)) d client) d group client) := by
  simp only [exec, execGateTransfer, Nat.not_le.mpr hgroup, hheld, hdue, hroom, hturn, decide_false, Bool.not_true, Bool.or_self,
    Bool.false_eq_true, if_false, nx]

theorem execGateTransferComplete_of_arrived {xid : Nat} {x : Xfer} {ecc : List (Nat × EccResult)}
    (hx : (getGate (getDie s d) group).xfers.find? (fun x => x.id == xid) = some x)
    (hheld : xferHeld s d x = false) (hasks : xferAsks s d x = []) (hwalk : reqWalk x.client = false) :
    exec (.gateTransferComplete d group ⟨xid, ecc⟩) s = .next (arriveXfer
      (modGate (eccOf s d group x ecc) d group (fun g => { g with xfers := g.xfers.filter (fun y => y.id != xid) })) d group x) := by
  simp only [exec, execGateTransferComplete, hx, hheld, hasks, hwalk, List.isEmpty_nil, Bool.not_true, Bool.false_eq_true, if_false, nx]

/-- A gate without the transfer of a walk that it has issued. -/
def walkGone (s : State) (d : DieId) (group : Nat) (x : Xfer) : State :=
  modGate s d group (fun g => { g with xfers := g.xfers.filter (fun y => y.id != x.id) })

theorem execPageWalk_of_fault {x : Xfer} {k : Nat} (hx : walkXfer s d group none part va write = some x)
    (hwalk : walk s d part va = .error k) : exec (.pageWalk d group none part va write) s = .next (walkGone s d group x) := by
  simp only [exec, execPageWalk, hx, hwalk, nx, walkGone]

theorem execPageWalk_of_leaf {x : Xfer} {lv pte : Nat} {hpa : Place2} (hx : walkXfer s d group none part va write = some x)
    (hwalk : walk s d part va = .ok (lv, pte)) (hleaf : leafPlace s d part lv pte va write = .ok hpa)
    (hidle : (getPart (getDie s d) part).tlbBusy = false) :
    exec (.pageWalk d group none part va write) s =
      .next (modGate (drawFree (walkGone s d group x) 11).2 d group (fun g =>
        { g with tlb := tlbAdd 2048 (drawFree (walkGone s d group x) 11).1 g.tlb
                   { part := part, vpage := va >>> levelShift lv, bits := levelShift lv, pte := pte } })) := by
  simp only [exec, execPageWalk, hx, hwalk, hleaf, hidle, Bool.false_and, Bool.false_eq_true, if_false, nx, walkGone]

end Gates

/-! ### Invalidations and the die cache -/

section Caches

variable {s : State} {d : DieId} {agent part line : Nat}

theorem tlbStart_of_idle (hidle : (getPart (getDie s d) part).tlbBusy = false) :
    tlbStart s agent d part =
      emit (modPart s d part (fun p => { p with tlbBusy := true, tlbNow := (p.tlbVa.toNat, p.tlbCount.toNat) })) (.ack agent) := by
  simp only [tlbStart, hidle, Bool.false_eq_true, if_false]

theorem execTlbInvalidate_of_idle (hreach : reachesDie s agent d = true) (hpart : part < 16)
    (hidle : (getPart (getDie s d) part).tlbBusy = false) :
    exec (.tlbInvalidate agent d part) s =
      acked agent (modPart s d part (fun p => { p with tlbBusy := true, tlbNow := (p.tlbVa.toNat, p.tlbCount.toNat) })) := by
  simp only [exec, execTlbInvalidate, hreach, hpart, tlbStart_of_idle hidle, decide_true, Bool.and_self, if_true, nx, acked]

theorem execTlbInvalidateDone_of_unheld (hbusy : (getPart (getDie s d) part).tlbBusy = true)
    (hheld : (getPart (getDie s d) part).tlbHeld = []) :
    exec (.tlbInvalidateDone d part) s =
      .next (modPart (tlbRemove s d part (getPart (getDie s d) part).tlbNow.1 (getPart (getDie s d) part).tlbNow.2) d part
        (fun p => { p with tlbBusy := false, tlbDone := true })) := by
  simp only [exec, execTlbInvalidateDone, hbusy, hheld, leastAgent, Bool.not_true, Bool.false_eq_true, if_false, nx]

theorem execCacheEvict_of_victim (hline : (getDie s d).cacheLines.contains (hpaOf d (line * 256) / 256) = true)
    (hvictim : cacheVictim (getDie s d).cacheLines (hpaOf d (line * 256) / 256) = some (hpaOf d (line * 256) / 256)) :
    exec (.cacheEvict d line false) s = .next (modDie s d (fun x => { x with
      cacheLines := x.cacheLines.erase (hpaOf d (line * 256) / 256)
      cacheDirty := x.cacheDirty.filter (fun y => y != hpaOf d (line * 256) / 256) })) := by
  simp only [exec, execCacheEvict, hline, hvictim, bne_self_eq_false, Bool.not_true, Bool.not_false, Bool.and_false, Bool.false_eq_true,
    if_false, if_true, nx]

theorem execCacheEvict_of_bad_clean (hline : (getDie s d).cacheLines.contains (hpaOf d (line * 256) / 256) = true)
    (hclean : (getDie s d).cacheDirty.contains (hpaOf d (line * 256) / 256) = false) :
    exec (.cacheEvict d line true) s = .next (countSram (modDie s d (fun x => { x with
      cacheLines := x.cacheLines.erase (hpaOf d (line * 256) / 256)
      cacheDirty := x.cacheDirty.filter (fun y => y != hpaOf d (line * 256) / 256) })) (some d) false) := by
  simp only [exec, execCacheEvict, hline, hclean, Bool.not_true, Bool.not_false, Bool.false_and, Bool.false_eq_true,
    if_false, if_true, nx]

end Caches

/-- Settles O31: each clause is the lemma above about the branch that its command takes. -/
theorem gatesAndTranslation : Obligations.GatesAndTranslation := by
  intro s d group agent part g p
  refine ⟨?issue, ?arrive, ?walked, ?invalidate, ?done, ?evict⟩
  case issue => exact fun client hgroup hheld hdue hroom hturn => execGateTransfer_of_due hgroup hheld hdue hroom hturn
  case arrive => exact fun xid x ecc hx hheld hasks hwalk => execGateTransferComplete_of_arrived hx hheld hasks hwalk
  case walked =>
    exact fun va write x hx => ⟨fun k hwalk => execPageWalk_of_fault hx hwalk,
      fun lv pte hpa hwalk hleaf hidle => execPageWalk_of_leaf hx hwalk hleaf hidle⟩
  case invalidate => exact fun hreach hpart hidle => execTlbInvalidate_of_idle hreach hpart hidle
  case done => exact fun hbusy hheld => execTlbInvalidateDone_of_unheld hbusy hheld
  case evict =>
    exact fun line hline => ⟨fun hvictim => execCacheEvict_of_victim hline hvictim, fun hclean => execCacheEvict_of_bad_clean hline hclean⟩

/-! ### Memory controllers and regions -/

section Controllers

variable {s : State} {d : DieId} {mc agent : Nat}

theorem execPatrolRead_corrected {off : Nat} (hon : (getMc (getDie s d) mc).st = .on) (hpatrol : (getMc (getDie s d) mc).patrolEn = true)
    (hoff : off < capacity (getDie s d)) (hmc : stackOf (getDie s d) off * 32 + channelOf (getDie s d) off = mc) :
    exec (.patrolRead d mc off .corrected) s =
      .next (modMc s d mc (fun m => { m with corrected := BitVec.ofNat 16 (satAdd 16 m.corrected.toNat 1) })) := by
  simp [exec, execPatrolRead, hon, hpatrol, Nat.not_le.mpr hoff, hmc, nx]

theorem execHbmRateChange_of_due {quiet : Bool} (hchanging : s.hd.clk.changing = true) (hmode : (s.hd.clk.modeReq == 2) = quiet)
    (hslewed : quiet = true → slewed s d = true)
    (hany : ((mcsOf (getDie s d)).filter (fun i => decide ((getMc (getDie s d) i).st = .on))).any
      (fun i => (getMc (getDie s d) i).rate != quiet) = true) :
    exec (.hbmRateChange d quiet) s =
      .next (((mcsOf (getDie s d)).filter (fun i => decide ((getMc (getDie s d) i).st = .on))).foldl
        (fun s i => modMc s d i (fun m => { m with st := .rateChange })) s) := by
  have hvoltage : (!quiet || slewed s d) = true := by cases quiet <;> simp_all
  simp only [exec, execHbmRateChange, hchanging, hmode, hvoltage, hany, beq_self_eq_true, Bool.and_self, if_true, nx]

theorem execHbmRateChangeEnd_of_retrained (hstopped : hbmStopped (getDie s d) = true) :
    exec (.hbmRateChangeEnd d 0) s =
      .next (runRings (runRings (serveHeldReqs
        (((List.range 320).filter (fun i => decide ((getMc (getDie s d) i).st = .rateChange))).foldl (fun t i =>
          modMc t d i (fun m => { m with st := .on, rate := s.hd.clk.modeReq == 2 })) s) d) .cd0) .cd1) := by
  simp only [exec, execHbmRateChangeEnd, hstopped, bit, Nat.zero_testBit, Bool.not_true, Bool.false_and, Bool.false_eq_true, if_false,
    List.filter_false, List.foldl_nil, nx]

theorem execMcBroadcastWrite_stack {j off size : Nat} {v : W64} (hsize : regSized off size = true) (hoff : off < 4096) (hj : j < 10)
    (hreach : reachesDie s agent d = true) :
    exec (.mcBroadcastWrite agent (.stack d j) off size v) s = acked agent
      (((mcsOf (getDie s d)).filter (fun i => i / 32 == j && mcClocked (getDie s d) i)).foldl (fun t i =>
        modMc t d i (fun m => mcWrite m (off / 8 * 8) (regW off size v.toNat))) s) := by
  simp only [exec, execMcBroadcastWrite, mcBroadcast, answer, hsize, hoff, hj, hreach, decide_true, Bool.and_self, if_true, acked]

/-- A region without HOST 0 takes no granule from the clean ones. -/
theorem writeRgn_of_free {i v : Nat} (hfree : (List.range 32).any (fun j => j != i && rgnOverlap (rgnOf v) (getRgn (getDie s d) j)) = false)
    (hhost : (rgnOf v).host = false) :
    writeRgn s d i v = modDie s d (fun x => { setRgn x i (rgnOf v) with scrubMap := clearGranules x.scrubMap [] }) := by
  simp only [writeRgn, hfree, hhost, Bool.false_and, Bool.false_eq_true, if_false]

theorem execHbmRgnWrite_of_free {i : Nat} {v : W32} (hreach : reachesDie s 0 d = true) (hi : i < 32)
    (hfree : (List.range 32).any (fun j => j != i && rgnOverlap (rgnOf v.toNat) (getRgn (getDie s d) j)) = false)
    (hhost : (rgnOf v.toNat).host = false) :
    exec (.hbmRgnWrite 0 d i v) s =
      acked 0 (modDie s d (fun x => { setRgn x i (rgnOf v.toNat) with scrubMap := clearGranules x.scrubMap [] })) := by
  simp only [exec, execHbmRgnWrite, answer, hreach, hi, writeRgn_of_free hfree hhost, decide_true, Bool.and_self, if_true, acked]

end Controllers

/-- Settles O32: each clause is the branch of a controller that is ON, of a rate change that is due, or of a write that is accepted. -/
theorem controllers : Obligations.Controllers := by
  intro s d mc agent x m
  refine ⟨?patrol, ?poll, ?refresh, ?change, ?changed, ?broadcast, ?region⟩
  case patrol => exact fun off hon hpatrol hoff hmc => execPatrolRead_corrected hon hpatrol hoff hmc
  case poll => exact fun n severe hon => if_pos hon
  case refresh => exact fun hon => if_pos hon
  case change =>
    intro quiet on hchanging hmode hslewed hany
    exact execHbmRateChange_of_due hchanging hmode hslewed hany
  case changed =>
    intro hstopped
    exact execHbmRateChangeEnd_of_retrained hstopped
  case broadcast => exact fun j off size v hsize hoff hj hreach => execMcBroadcastWrite_stack hsize hoff hj hreach
  case region => exact fun i v hreach hi hfree hhost => execHbmRgnWrite_of_free hreach hi hfree hhost

end Sys2Proof.Machine
end

section
/-! Proofs about the flash store, its units and its readers (R327, R331 to R341). -/

namespace Sys2Proof.Machine

/-! ### Commands -/

section Commands

variable {s : State} {agent off cseq : Nat} {c : Started}

theorem execFlCommandWrite_of_free {data : List Byte} (hreach : reachesFlash s agent = true) (hoff : off < 4096) (halign : off % 64 = 0)
    (hlen : data.length = 64) (hon : s.hd.flash.fn.st = .on) (hgoes : s.hd.flash.q.halted = false) (hfree : s.hd.flash.q.free ≠ 0) :
    exec (.flCommandWrite agent off data) s = .next (writeHeader (modCmdQueue s .cd0 flQ (fun x =>
      { x with entries := x.entries ++ [leNat data], accSeq := x.accSeq + 1, free := x.free - 1 })) .cd0 flQ) := by
  simp [exec, execFlCommandWrite, judgeWrite, cmdQueue, queueFn, hreach, hoff, halign, hlen, hon, hgoes, hfree, nx]

theorem execFlRead_fresh (hopen : openCmd (flOpen s cseq) .cd0 flQ cseq 0x01 = some c) (hblocked : flBlocked (flOpen s cseq) c = false)
    (hrange : flRange c = false) (hphase : c.phase = .fresh) :
    exec (.flRead cseq) s =
      .next (askFor (waitCmd (flOpen s cseq) .cd0 (flRef cseq)) .cd0 flQ cseq (flUnit c) (flCount c)) := by
  simp only [exec, execFlRead, hopen, hblocked, hrange, hphase, Bool.false_eq_true, if_false, if_true, nx]

theorem execFlRead_of_read {bss : List (List Byte)} {s2 : State} (hopen : openCmd (flOpen s cseq) .cd0 flQ cseq 0x01 = some c)
    (hblocked : flBlocked (flOpen s cseq) c = false) (hrange : flRange c = false) (hphase : c.phase = .wait)
    (hread : readRun (flOpen s cseq) (flUnit c) (flCount c) = (bss, none))
    (hturn : runTurn (flOpen s cseq) .cd0 flQ cseq (flUnit c) (flCount c) = true)
    (hheld : hostHeld (flOpen s cseq) (cmdF c.word 0x18 8) (65536 * bss.length) = false)
    (hwrite : hostWrite (noteRun (flOpen s cseq) (flUnit c) bss.length) (cmdF c.word 0x18 8) bss.flatten = (.ok [], s2)) :
    exec (.flRead cseq) s = .next (flOk s2 cseq) := by
  simp [exec, execFlRead, hopen, hblocked, hrange, hphase, hread, hturn, hheld, hwrite, nx]

theorem execFlWrite_of_fresh (hfresh : freshCmd (flOpen s cseq) .cd0 flQ cseq 0x02 = some c) (hblocked : flBlocked (flOpen s cseq) c = false)
    (hmap : mapOpen (flOpen s cseq) = true) (hrange : flRange c = false) (hhealth : (flOpen s cseq).hd.flash.health ≠ 2)
    (hpackage : flPackage (flOpen s cseq) c = false) :
    exec (.flWrite cseq) s = .next (waitCmd (cancelMoves (flOpen s cseq) (flUnit c) (flCount c)) .cd0 (flRef cseq)) := by
  simp only [exec, execFlWrite, hfresh, hblocked, hmap, hrange, hhealth, hpackage, Bool.not_true, Bool.or_self, Bool.false_eq_true,
    if_false, nx]

theorem execFlTrim_of_turn (hfresh : freshCmd (flOpen s cseq) .cd0 flQ cseq 0x03 = some c) (hblocked : flBlocked (flOpen s cseq) c = false)
    (hmap : mapOpen (flOpen s cseq) = true) (hrange : flRange c = false) (hpackage : flPackage (flOpen s cseq) c = false)
    (hturn : ∀ pkg < 16, runMeets (flUnit c) (flCount c) pkg = true →
      noReads (flOpen s cseq) pkg = true ∧ olderWrite (flOpen s cseq) c pkg = false) :
    exec (.flTrim cseq) s = .next (flOk ((List.range (flCount c)).foldl (fun s i =>
      changeEntry s (flUnit c + i) (setFld (mapEntry s (flUnit c + i)) 27 26 0))
        (cancelMoves (flOpen s cseq) (flUnit c) (flCount c))) cseq) := by
  have hall : (List.range 16).all (fun pkg => !runMeets (flUnit c) (flCount c) pkg
      || (noReads (flOpen s cseq) pkg && !olderWrite (flOpen s cseq) c pkg)) = true := by
    refine List.all_eq_true.mpr fun pkg hpkg => ?_
    cases hmeets : runMeets (flUnit c) (flCount c) pkg
    · rfl
    · obtain ⟨hreads, hwrites⟩ := hturn pkg (List.mem_range.mp hpkg) hmeets
      simp [hreads, hwrites]
  simp only [exec, execFlTrim, hfresh, hblocked, hmap, hrange, hpackage, hall, Bool.not_true, Bool.or_self, Bool.false_eq_true, if_false, nx]

theorem execFlFlush_of_fresh (hfresh : freshCmd (flOpen s cseq) .cd0 flQ cseq 0x04 = some c) (hmap : mapOpen (flOpen s cseq) = true) :
    exec (.flFlush cseq) s = .next (flOk (makeDurable (flOpen s cseq)) cseq) := by
  simp only [exec, execFlFlush, hfresh, hmap, if_true, nx]

theorem execFlQueueResume_of_halted (hreach : reachesFlash s agent = true) (hhalted : s.hd.flash.q.halted = true) :
    exec (.flQueueResume agent) s =
      acked agent (writeHeader (modCmdQueue s .cd0 flQ (fun x => { x with halted := false })) .cd0 flQ) := by
  simp [exec, execFlQueueResume, flashReg, answer, queueAct, resumeAct, cmdQueue, hreach, hhalted, acked]

theorem execFlQueueFlush_of_on (hreach : reachesFlash s agent = true) (hon : s.hd.flash.fn.st = .on) :
    exec (.flQueueFlush agent) s = acked agent (flushQueue s .cd0 flQ) := by
  simp [exec, execFlQueueFlush, flashReg, answer, queueAct, flushAct, queueFn, hreach, hon, acked]

end Commands

/-! ### Programs of a WRITE -/

section Programs

variable {s s0 s3 : State} {cseq place : Nat} {c : Started} {bs : List Byte}

/-- What a program of a WRITE finds: its turn at its package, a prepared place and its bytes. -/
structure ProgramReady (s : State) (cseq place : Nat) (c : Started) (s0 s3 : State) (bs : List Byte) : Prop where
  isOpen : openCmd s .cd0 flQ cseq 0x02 = some c
  waits : c.phase = .wait
  works : pkgFailed s (flUnit c + c.prog) = false
  map : mapOpen s = true
  free : hostHeld s (cmdF c.word 0x18 8 + 65536 * c.prog) 65536 = false
  placed : placeOk s (unitPkg (flUnit c + c.prog)) place = true
  unused : placeUsed s (unitPkg (flUnit c + c.prog)) place = false
  reads : noReads s (unitPkg (flUnit c + c.prog)) = true
  oldest : olderWrite s c (unitPkg (flUnit c + c.prog)) = false
  prepared : preparePlace s (unitPkg (flUnit c + c.prog)) place = some s0
  bytes : writeBytes (modFlash s0 (fun x => { x with
    suspended := x.suspended.filter (fun y => y != unitPkg (flUnit c + c.prog) * 8 + fld place 2 0) })) c = (.ok bs, s3)

theorem execFlashProgram_good (h : ProgramReady s cseq place c s0 s3 bs) :
    exec (.flashProgram cseq place true) s = .next (
      let s4 := changeEntry (programUnit (modFlash s3 (fun x => { x with wbuf := tabSet [] x.wbuf cseq [] }))
        (flUnit c + c.prog) place bs) (flUnit c + c.prog) (entAt place)
      if c.prog + 1 = flCount c then flOk s4 cseq
      else modStarted s4 .cd0 flQ cseq (fun c => { c with prog := c.prog + 1 })) := by
  obtain ⟨hopen, hphase, hworks, hmap, hfree, hplace, hunused, hreads, holdest, hprepared, hbytes⟩ := h
  simp only [exec, execFlashProgram, hopen, hphase, hworks, hmap, hfree, hplace, hunused, hreads, holdest, hprepared, hbytes, nx,
    ne_eq, not_true_eq_false, decide_false, Bool.not_true, Bool.or_self, Bool.false_eq_true, and_false, if_false]
  exact (apply_ite Host.Outcome.next _ _ _).symm

theorem execFlashProgram_bad (h : ProgramReady s cseq place c s0 s3 bs) :
    exec (.flashProgram cseq place false) s =
      .next (retireBlock (modFlash s3 (fun x => { x with wbuf := tabSet [] x.wbuf cseq bs })) (unitPkg (flUnit c + c.prog)) place) := by
  obtain ⟨hopen, hphase, hworks, hmap, hfree, hplace, hunused, hreads, holdest, hprepared, hbytes⟩ := h
  simp only [exec, execFlashProgram, hopen, hphase, hworks, hmap, hfree, hplace, hunused, hreads, holdest, hprepared, hbytes, nx,
    ne_eq, not_true_eq_false, decide_false, Bool.not_true, Bool.not_false, Bool.or_self, Bool.false_eq_true, and_false, if_false, if_true]

end Programs

/-- Settles O33: each clause is the branch of its command whose checks pass. -/
theorem flashCommands : Obligations.FlashCommands := by
  intro s agent off cseq data c f s1 r
  refine ⟨?accept, ?read, ?write, ?program, ?trim, ?flush, ?resume, ?cancel⟩
  case accept =>
    exact fun hreach hoff halign hlen hon hgoes hfree => execFlCommandWrite_of_free hreach hoff halign hlen hon hgoes hfree
  case read =>
    exact fun hopen hblocked hrange => ⟨fun hphase => execFlRead_fresh hopen hblocked hrange hphase,
      fun bss s2 hphase hread hturn hheld hwrite => execFlRead_of_read hopen hblocked hrange hphase hread hturn hheld hwrite⟩
  case write =>
    exact fun hfresh hblocked hmap hrange hhealth hpackage => execFlWrite_of_fresh hfresh hblocked hmap hrange hhealth hpackage
  case program =>
    intro place bs s0 s3 hopen hphase u pkg hworks hmap hfree hplace hunused hreads holdest hprepared s2 hbytes
    have hready : ProgramReady s cseq place c s0 s3 bs :=
      ⟨hopen, hphase, hworks, hmap, hfree, hplace, hunused, hreads, holdest, hprepared, hbytes⟩
    exact ⟨execFlashProgram_good hready, execFlashProgram_bad hready⟩
  case trim =>
    exact fun hfresh hblocked hmap hrange hpackage hturn => execFlTrim_of_turn hfresh hblocked hmap hrange hpackage hturn
  case flush => exact fun hfresh hmap => execFlFlush_of_fresh hfresh hmap
  case resume => exact fun hreach hhalted => execFlQueueResume_of_halted hreach hhalted
  case cancel => exact fun hreach hon => execFlQueueFlush_of_on hreach hon

/-! ### Units -/

section Units

variable {s : State} {unit place key : Nat} {x : Stripe}

theorem execFlashUnitRead_of_turn {ok : Bool} (hmap : mapOpen s = true) (hunit : unit < userUnits)
    (hretries : tabGet 0 s.hd.flash.retries unit = 0) (hturn : unitTurn s unit ok = true) (hworks : pkgFailed s unit = false)
    (hstripe : unitStripe s unit = some (key, x)) :
    exec (.flashUnitRead unit ok) s = .next (if ok = true then deliverRead (noteRead s key) unit
      else modFlash (noteRead s key) (fun x => { x with retries := tabSet 0 x.retries unit (mapEntry s unit + 1) })) := by
  simp only [exec, execFlashUnitRead, hmap, Nat.not_le.mpr hunit, hretries, hturn, hworks, hstripe, decide_false, Bool.not_true,
    bne_self_eq_false, Bool.or_self, Bool.false_eq_true, if_false, nx]
  exact (apply_ite Host.Outcome.next _ _ _).symm

theorem execReadRetry_good (hmap : mapOpen s = true) (hretry : tabGet 0 s.hd.flash.retries unit ≠ 0) :
    exec (.readRetry unit true) s =
      .next (let s1 := modFlash s (fun f => { f with retries := tabSet 0 f.retries unit 0 })
        deliverRetried s1 unit (stripeRead s1 unit (tabGet 0 s.hd.flash.retries unit - 1))) := by
  simp only [exec, execReadRetry, hmap, beq_eq_false_iff_ne.mpr hretry, Bool.not_true, Bool.or_self, Bool.false_eq_true, if_false, if_true, nx]

theorem execReadRetry_bad (hmap : mapOpen s = true) (hretry : tabGet 0 s.hd.flash.retries unit ≠ 0) :
    exec (.readRetry unit false) s =
      .next (let v := tabGet 0 s.hd.flash.retries unit
        let s1 := modFlash s (fun f => { f with retries := tabSet 0 f.retries unit 0 })
        let e := mapEntry s1 unit
        let s2 := if entMapped e = true ∧ entPlace e = entPlace (v - 1) then changeEntry s1 unit (setFld e 27 27 1) else s1
        deliverRetried (recUnit s2 unit (entPlace (v - 1))) unit .uncorr) := by
  simp only [exec, execReadRetry, hmap, beq_eq_false_iff_ne.mpr hretry, Bool.not_true, Bool.or_self, Bool.false_eq_true, if_false, nx]

theorem execFlashMove_begins {s1 : State} {ok : Bool} (hnone : s.hd.flash.moves.find? (fun m => m.unit == unit) = none)
    (hmap : mapOpen s = true) (hunit : unit < userUnits) (hplace : placeOk s (unitPkg unit) place = true)
    (hunused : placeUsed s (unitPkg unit) place = false) (hdue : moveDue s unit = true) (hserved : moveServed s (unitPkg unit) = true)
    (hprepared : preparePlace s (unitPkg unit) place = some s1) (hstripe : unitStripe s unit = some (key, x))
    (hblock : blockOf key ≠ blockOf (stripeKey (unitPkg unit) place)) :
    exec (.flashMove unit ⟨place, ok⟩) s = .next (modFlash s1 (fun x => { x with
      moves := x.moves ++ [{ unit := unit, place := place, ent := mapEntry s unit }] })) := by
  simp only [exec, execFlashMove, beginMove, hnone, hmap, Nat.not_le.mpr hunit, hplace, hunused, hdue, hserved, hprepared, hstripe,
    hblock, decide_false, Bool.not_true, Bool.or_self, Bool.false_eq_true, if_false, nx]

theorem execFlashMove_ends {m : FlMove} {ok : Bool} (hmove : s.hd.flash.moves.find? (fun m => m.unit == unit) = some m)
    (hplace : m.place = place) (hmap : mapOpen s = true)
    (hruns : s.hd.flash.suspended.contains (unitPkg unit * 8 + fld place 2 0) = false) :
    exec (.flashMove unit ⟨place, ok⟩) s = .next (endMove s m ok) := by
  simp only [exec, execFlashMove, hmove, hplace, hmap, hruns, beq_self_eq_true, Bool.not_false, Bool.or_true, Bool.and_self, if_true, nx]

theorem endMove_good {m : FlMove} {bs : List Byte}
    (hread : stripeRead (modFlash s (fun x => { x with
      moves := x.moves.erase m, suspended := x.suspended.filter (fun y => y != unitPkg m.unit * 8 + fld m.place 2 0) })) m.unit m.ent = .ok bs) :
    endMove s m true = changeEntry (programUnit (noteRead (modFlash s (fun x => { x with
      moves := x.moves.erase m, suspended := x.suspended.filter (fun y => y != unitPkg m.unit * 8 + fld m.place 2 0) }))
      (stripeKey (unitPkg m.unit) (entPlace m.ent))) m.unit m.place bs) m.unit (entAt m.place) := by
  simp only [endMove, hread, Bool.not_true, Bool.false_eq_true, if_false]

theorem writeExt_of_free {i : Nat} {w : W64}
    (hfree : (List.range 64).any (fun j => j != i && extOverlap (BitVec.ofNat 64 (setFld w.toNat 62 62 0)) (tabGet 0 s.hd.flash.ext j)) = false) :
    writeExt s i w = modFlash s (fun x => { x with ext := tabSet 0 x.ext i (BitVec.ofNat 64 (setFld w.toNat 62 62 0)) }) := by
  simp only [writeExt, hfree, Bool.false_eq_true, if_false]

theorem execFlashScan_of_due {weak : List (Nat × Nat)} (hdue : scanDue s = true) (hidle : ∀ pkg < 16, levelFive s pkg = true) :
    exec (.flashScan weak) s = .next (weak.foldl (fun s x => beginMove s x.1 x.2) (markWeak s weak)) := by
  have hall : (List.range 16).all (levelFive s) = true := List.all_eq_true.mpr fun pkg hpkg => hidle pkg (List.mem_range.mp hpkg)
  simp only [exec, execFlashScan, hdue, hall, Bool.and_self, if_true, nx]

theorem execProgramSuspend_of_read {pkg nand : Nat} (hpkg : pkg < 16) (hnand : nand < 8) (hreads : readsDie s pkg nand = true)
    (hruns : s.hd.flash.suspended.contains (pkg * 8 + nand) = false) (hprograms : programsDie s pkg nand = true) :
    exec (.programSuspend pkg nand) s = .next (modFlash s (fun x => { x with suspended := x.suspended ++ [pkg * 8 + nand] })) := by
  simp only [exec, execProgramSuspend, hpkg, hnand, hreads, hruns, hprograms, decide_true, Bool.not_false, Bool.and_self, if_true, nx]

end Units

/-- Settles O34: each clause is the branch of a unit, a move or a scan whose turn it is. -/
theorem flashUnits : Obligations.FlashUnits := by
  intro s unit place key x bs f
  refine ⟨?read, ?retry, ?begins, ?ends, ?scan, ?extent, ?health, ?suspend⟩
  case read =>
    exact fun ok hmap hunit hretries hturn hworks hstripe => execFlashUnitRead_of_turn hmap hunit hretries hturn hworks hstripe
  case retry => exact fun hmap hretry => ⟨execReadRetry_good hmap hretry, execReadRetry_bad hmap hretry⟩
  case begins =>
    exact fun s1 ok hnone hmap hunit hplace hunused hdue hserved hprepared hstripe hblock =>
      execFlashMove_begins hnone hmap hunit hplace hunused hdue hserved hprepared hstripe hblock
  case ends =>
    intro m pkg s1 hmove hplace hmap hruns
    have hunit : m.unit = unit := by simpa using List.find?_some hmove
    refine ⟨fun hread => (execFlashMove_ends hmove hplace hmap hruns).trans ?_, (execFlashMove_ends hmove hplace hmap hruns).trans ?_⟩
    · subst hunit hplace
      exact congrArg _ (endMove_good hread)
    · subst hunit hplace
      rfl
  case scan => exact fun weak hdue hidle => execFlashScan_of_due hdue hidle
  case extent =>
    intro i w v hreach hi hfree
    simp only [exec, execFlExtWrite, answer, hreach, hi, writeExt_of_free hfree, decide_true, Bool.and_self, if_true, acked, v]
  case health =>
    intro stops first last hon pk st s1
    have hon' : s.hd.flash.fn.st ≠ .off := hon
    simp only [exec, execFlashHealthChange, hon', if_false, nx]
    exact (apply_ite Host.Outcome.next _ _ _).symm
  case suspend => exact fun pkg nand hpkg hnand hreads hruns hprograms => execProgramSuspend_of_read hpkg hnand hreads hruns hprograms

/-! ### Readers -/

section Readers

variable {s : State} {d : DieId} {slot station u : Nat} {a : StAt} {bs : List Byte} {w : Work} {units : List (Nat × Nat × List Byte)}
  {rest : List Work}

theorem execFlashReq_of_next (hstation : stAt s d slot station = some a) (hruns : readerRuns s a = true)
    (hnext : nextUnit (stGet s a 0).work = some u) (hroom : (stGet s a 0).units.length < 64) :
    exec (.flashReq d slot station u) s =
      .next (askRun (stMod s a 0 (fun x => { x with work := askUnit x.work, units := x.units ++ [(u, 0, [])] }))
        { first := u, count := 1, by_ := .reader d slot station }) := by
  simp only [exec, execFlashReq, hstation, hruns, hnext, hroom, beq_self_eq_true, decide_true, Bool.and_self, if_true, nx]

theorem execFlashDlv_to_route (hstation : stAt s d slot station = some a) (hruns : readerRuns s a = true)
    (hunits : (stGet s a 0).units = (u, 1, bs) :: units) (hwork : (stGet s a 0).work = w :: rest) (hsink : w.sink = false) :
    exec (.flashDlv d slot station) s =
      .next (passUnit (stMod (bump s d (setStationSet 8 a.place) 6 1) a 0 (fun x => { x with units := units })) a w rest bs) := by
  simp [exec, execFlashDlv, hstation, hruns, hunits, hwork, hsink, nx]

theorem execFlashDlv_to_sink {s2 : State} (hstation : stAt s d slot station = some a) (hruns : readerRuns s a = true)
    (hunits : (stGet s a 0).units = (u, 1, bs) :: units) (hwork : (stGet s a 0).work = w :: rest) (hsink : w.sink = true)
    (hfetched : stepFetched a (stGet s a 0) = true)
    (hwrite : writeVA (bump s d (setStationSet 8 a.place) 6 1) d (stCaches (bump s d (setStationSet 8 a.place) 6 1) a) a.part (sinkVa w) bs
      = .ok s2) :
    exec (.flashDlv d slot station) s = .next (stAsks (passUnit (stMod (stMod
      (stBytes (dropAnswers s2 d) a (sinkVa w) bs.length) a 0 (fun x => stepDone a x)) a 0 (fun x => { x with units := units })) a w rest bs)
        a) := by
  simp [exec, execFlashDlv, hstation, hruns, hunits, hwork, hsink, hfetched, hwrite, nx]

end Readers

/-- Settles O35: each clause is the branch of a running reader that its next unit or its oldest arrived unit takes. -/
theorem flashReaders : Obligations.FlashReaders := by
  intro s d slot station u a bs w units rest x pop s1 hstation hruns
  refine ⟨fun hnext hroom => execFlashReq_of_next hstation hruns hnext hroom,
    fun hunits hwork => ⟨fun hsink => ?_, fun s2 hsink hfetched hwrite => ?_⟩⟩
  · exact execFlashDlv_to_route hstation hruns hunits hwork hsink
  · exact execFlashDlv_to_sink hstation hruns hunits hwork hsink hfetched hwrite

end Sys2Proof.Machine
end

section
/-! Proofs about the UCIe links, host accesses, management requests and test access ports (R343 to R346, sections 8, 13, 15, 16, 19). -/

namespace Sys2Proof.Machine

/-! ### Accesses that may wait -/

section Waits

variable {s t : State} {ds : List DieId} {c : HostAsk}

/-- An access that reaches no die whose HBM is held has its effect at once. -/
theorem holdAt_of_free (hfree : ∀ e ∈ ds, hbmHeld s e = false) : holdAt s ds c t = t := by
  have hnone : ds.find? (hbmHeld s) = none := List.find?_eq_none.mpr fun e he => Bool.eq_false_iff.mp (hfree e he)
  simp only [holdAt, hnone]

theorem holdAt_one {d : DieId} (hfree : hbmHeld s d = false) : holdAt s [d] c t = t :=
  holdAt_of_free fun _ he => List.mem_singleton.mp he ▸ hfree

end Waits

/-! ### UCIe transactions -/

section Ucie

variable {s s1 : State} {d : DieId} {agent tag addr : Nat}

theorem execMemRd_of_memory {rd : MemRead} {bs : List Byte} (hline : inLine addr rd.len = true) (haperture : apertureAt d addr = none)
    (haddr : addr < 2 ^ 40) (hdie : hpaDie addr = d) (hagent : hostAgent agent = true) (hok : hostOk s addr rd.len = true)
    (hfree : hbmHeld s d = false) (hread : hostRead (eccUnits s (units32 addr rd.len) rd.ecc) addr rd.len = (.ok bs, s1)) :
    exec (.memRd d agent tag addr rd) s = .next (complete s1 d tag 0 bs) := by
  have hrefused : ¬ (2 ^ 40 ≤ addr ∨ hpaDie addr ≠ d ∨ (!hostAgent agent || !hostOk s addr rd.len) = true) := by
    simpa [hdie, hagent, hok] using haddr
  simp only [exec, execMemRd, hline, haperture, if_neg hrefused, readMem, holdAt_one hfree, hread, Bool.not_true, Bool.false_eq_true,
    if_false, nx]

theorem execMemRd_of_aperture {rd : MemRead} {q off : Nat} (hline : inLine addr rd.len = true) (haperture : apertureAt d addr = some (q, off))
    (hreach : reachesQueue s agent d q = true) :
    exec (.memRd d agent tag addr rd) s = .next (complete s d tag 0 (List.replicate rd.len 0)) := by
  simp only [exec, execMemRd, hline, haperture, hreach, Bool.not_true, Bool.false_eq_true, if_false, if_true, nx]

theorem execMemWr_of_memory {data : List Byte} (hline : inLine addr data.length = true) (haddr : addr < 2 ^ 40) (hdie : hpaDie addr = d)
    (hagent : hostAgent agent = true) (haperture : apertureAt d addr = none) (hfree : hbmHeld s d = false) :
    exec (.memWr d agent addr data) s = .next (hostWrite s addr data).2 := by
  have hrefused : ¬ (2 ^ 40 ≤ addr ∨ hpaDie addr ≠ d ∨ (!hostAgent agent) = true) := by
    simpa [hdie, hagent] using haddr
  simp only [exec, execMemWr, hline, haperture, if_neg hrefused, holdAt_one hfree, Bool.not_true, Bool.false_eq_true, if_false, nx]

theorem execCmdWr_of_aperture {q off : Nat} {data : List Byte} (haperture : apertureAt d addr = some (q, off))
    (hreach : reachesQueue s agent d q = true) : exec (.cmdWr d agent addr data) s = .next (judgeWrite s d q off data) := by
  simp only [exec, execCmdWr, haperture, hreach, if_true, nx]

theorem execRegRd_of_value {size v : Nat} (hsize : size = 4 ∨ size = 8) (hread : readAt s agent (dieTarget s d agent addr) size = (.ok v, s1)) :
    exec (.regRd d agent tag addr size) s = .next (complete s1 d tag 0 (leBytes size v)) := by
  simp only [exec, execRegRd, if_pos hsize, hread, reduceCtorEq, if_false, cplStatus, nx]

theorem execRegWr_of_done {size r : Nat} {v : W64} (hsize : size = 4 ∨ size = 8)
    (hwrite : writeAt s agent (dieTarget s d agent addr) size v.toNat = (.ok r, s1)) :
    exec (.regWr d agent tag addr size v) s = .next (complete s1 d tag 0 []) := by
  simp only [exec, execRegWr, if_pos hsize, hwrite, reduceCtorEq, if_false, cplStatus, nx]

theorem execUcieTraining_of_training {m state tx rx : Nat} (htraining : training s d = true) (hm : m < 4) (hstate : state ≤ 2) :
    exec (.ucieTraining d m state tx rx) s = .next (modDie s d (fun x => ucieSubst (setUcie x m { getUcie x m with
      st := BitVec.ofNat 2 state, txRep := BitVec.ofNat 3 (min 4 tx), rxRep := BitVec.ofNat 3 (min 4 rx) }))) := by
  simp only [exec, execUcieTraining, trainUcie, htraining, hm, Nat.not_lt.mpr hstate, decide_true, Bool.and_self, if_true, if_false, nx]

theorem execUcieReservedType_of_up {m : Nat} {flit : UcieFlit} (hm : m < 4) (hup : (getUcie (getDie s d) m).st ≠ 0) :
    exec (.ucieReservedType d m flit) s = .next (if 0xA ≤ (Sys2Proof.ucieHeader flit.header).type then
      logErr (noteRetries s d m flit.retries) (some d)
        { cls := 8, code := 1, unitKind := 8, unitIndex := m, detail := (Sys2Proof.ucieHeader flit.header).type }
      else noteRetries s d m flit.retries) := by
  simp only [exec, execUcieReservedType, hm, beq_eq_false_iff_ne.mpr hup, decide_true, Bool.not_true, Bool.or_self, Bool.false_eq_true,
    if_false, nx]
  exact (apply_ite Host.Outcome.next _ _ _).symm

end Ucie

/-- Settles O36: each clause is the branch of a transaction that is accepted. -/
theorem ucieTransactions : Obligations.UcieTransactions := by
  intro s d agent tag addr
  refine ⟨?memRd, ?aperture, ?memWr, ?cmdWr, ?regRd, ?regWr, fun _ _ => rfl, ?irq, ?trains, ?reserved⟩
  case memRd =>
    exact fun rd bs s1 hline haperture haddr hdie hagent hok hfree hread =>
      execMemRd_of_memory hline haperture haddr hdie hagent hok hfree hread
  case aperture => exact fun rd q off hline haperture hreach => execMemRd_of_aperture hline haperture hreach
  case memWr =>
    exact fun data hline haddr hdie hagent haperture hfree => execMemWr_of_memory hline haddr hdie hagent haperture hfree
  case cmdWr => exact fun q off data haperture hreach => execCmdWr_of_aperture haperture hreach
  case regRd => exact fun size v s1 hsize hread => execRegRd_of_value hsize hread
  case regWr => exact fun size v r s1 hsize hwrite => execRegWr_of_done hsize hwrite
  case irq => exact fun eiid hreach => if_pos hreach
  case trains => exact fun m state tx rx htraining hm hstate => execUcieTraining_of_training htraining hm hstate
  case reserved =>
    intro m flit type s1 hm hup
    exact execUcieReservedType_of_up hm hup

/-! ### Register accesses and BAR2 -/

section Accesses

variable {s s1 : State} {agent addr size : Nat}

theorem execReadClear_of_value {v : Nat} (hload : commandLoad agent addr size = false)
    (hfree : ∀ e ∈ targetDies (target s agent addr), hbmHeld s e = false) (hread : regRead s agent addr size = (.ok v, s1)) :
    exec (.readClear agent addr size) s = .next (emit s1 (.readData agent (BitVec.ofNat 64 v))) := by
  simp only [exec, execReadClear, hload, holdAt_of_free hfree, hread, answerRead, Bool.false_eq_true, if_false, nx]

theorem execRegisterWrite_of_done {v : W64} {r : Nat} (hcommand : commandMem addr = none)
    (hfree : ∀ e ∈ targetDies (target s agent addr), hbmHeld s e = false) (hwrite : regWrite s agent addr size v.toNat = (.ok r, s1)) :
    exec (.registerWrite agent addr size v) s = acked agent s1 := by
  simp only [exec, execRegisterWrite, hcommand, holdAt_of_free hfree, hwrite, answerWrite, Option.isSome_none, Bool.and_false,
    Bool.false_and, Bool.false_eq_true, if_false, nx, acked]

theorem execCommandMemoryStore_store {core : Nat} {bs : List Byte} (hruns : coreRuns s core = true) (hbytes : bs ≠ [])
    (hinside : (List.range bs.length).all (fun i => (commandMem (addr + i)).isSome) = true) :
    exec (.commandMemoryStore core (.store addr bs)) s = .next (gatherStore s core addr bs) := by
  have hsome : bs.isEmpty = false := List.isEmpty_eq_false_iff.mpr hbytes
  simp only [exec, execCommandMemoryStore, hruns, hsome, hinside, Bool.not_true, Bool.or_self, Bool.false_eq_true, if_false, nx]

theorem execCommandMemoryStore_fence {core : Nat} (hruns : coreRuns s core = true) :
    exec (.commandMemoryStore core .fence) s = .next (flushGather s core) := by
  simp only [exec, execCommandMemoryStore, hruns, Bool.not_true, Bool.false_eq_true, if_false, nx]

end Accesses

section Bar2

variable {s s1 : State} {vf va : Nat}

theorem execBar2Access_read {rd : MemRead} {bs : List Byte} (hvf : vfEnabled s vf = true) (hreach : hostReaches s .cd0 = true)
    (hrange : va + rd.len ≤ 2 ^ 36) (hfree : ∀ e ∈ rangeDies s .cd0 [] vf va rd.len false, hbmHeld s e = false)
    (hread : readVA (touchUnits (eccUnits s (rangeUnits s .cd0 [] vf va rd.len) rd.ecc) (rangeUnits s .cd0 [] vf va rd.len)) .cd0 [] vf va
      rd.len = .ok bs) :
    exec (.bar2Access vf va (.read rd)) s = .next (emit (dropAnswers
      (touchUnits (eccUnits s (rangeUnits s .cd0 [] vf va rd.len) rd.ecc) (rangeUnits s .cd0 [] vf va rd.len)) .cd0)
      (.memData (0x21 + vf) bs)) := by
  simp only [exec, execBar2Access, hvf, hreach, Nat.not_lt.mpr hrange, holdAt_of_free hfree, hread, decide_false, Bool.not_true,
    Bool.or_self, Bool.false_eq_true, if_false, nx]

theorem execBar2Access_write {data : List Byte} (hvf : vfEnabled s vf = true) (hreach : hostReaches s .cd0 = true)
    (hrange : va + data.length ≤ 2 ^ 36) (hfree : ∀ e ∈ rangeDies s .cd0 [] vf va data.length true, hbmHeld s e = false)
    (hwrite : writeVA s .cd0 [] vf va data = .ok s1) :
    exec (.bar2Access vf va (.write data)) s = .next (activatePart (dropAnswers s1 .cd0) vf) := by
  simp only [exec, execBar2Access, hvf, hreach, Nat.not_lt.mpr hrange, holdAt_of_free hfree, hwrite, decide_false, Bool.not_true,
    Bool.or_self, Bool.false_eq_true, if_false, nx]

theorem execPerstN_of_root {level : Bool} {width speed : Nat} (hrole : s.hd.power.role = false)
    (hlevel : level = (s.hd.power.hostRails && s.hd.clk.enHd.toNat.testBit 25)) :
    exec (.perstN ⟨level, width, speed⟩) s = .next (emit (modHlink (modPower s (fun p => { p with perstN := level }))
      (fun l => pcieTrained l level width speed)) (.pin "PERST_N" level)) := by
  simp only [exec, execPerstN, hrole, ← hlevel, beq_self_eq_true, Bool.false_eq_true, if_false, if_true, nx]

end Bar2

/-- Settles O37: each clause is the branch of an access that nothing holds and nothing refuses. -/
theorem hostAccesses : Obligations.HostAccesses := by
  intro s agent addr size free
  refine ⟨?read, ?load, ?write, ?store, ?bar, ?perst⟩
  case read => exact fun v s1 hload hfree hread => execReadClear_of_value hload hfree hread
  case load => exact fun hload => if_pos hload
  case write => exact fun v r s1 hcommand hfree hwrite => execRegisterWrite_of_done hcommand hfree hwrite
  case store =>
    exact fun core bs hruns => ⟨execCommandMemoryStore_fence hruns,
      fun hbytes hinside => execCommandMemoryStore_store hruns hbytes hinside⟩
  case bar =>
    intro vf va hvf hreach
    refine ⟨?_, fun data s1 hrange hfree hwrite => execBar2Access_write hvf hreach hrange hfree hwrite⟩
    intro rd bs us s1 hrange hfree hread
    exact execBar2Access_read hvf hreach hrange hfree hread
  case perst => exact fun level width speed => ⟨fun hrole => if_pos hrole, fun hrole hlevel => execPerstN_of_root hrole hlevel⟩

/-! ### Management requests -/

section Management

variable {s s1 : State} {m : MgmtMsg} {addr code : Nat} {body : List Byte} {always : Bool} {act : State → State}

theorem mgmtIn_of_check (hcheck : m.check = msgCheck s m code body) (hup : mgmtUp s m.iface = true) : mgmtIn s m code body = true := by
  simp [mgmtIn, hcheck, hup]

/-- The security core serves a good request from stage SEC_FW on and outside NO_SERVICE. -/
def mgmtServed (s : State) (f : MgmtIf) : Bool :=
  mgmtUp s f && decide (3 ≤ s.hd.boot.stage.toNat) && s.hd.boot.stage != 0xF

theorem serve_of_served (hcheck : m.check = msgCheck s m code body) (hserved : mgmtServed s m.iface = true) :
    serve s m code body always act = act s := by
  simp only [mgmtServed, Bool.and_eq_true, decide_eq_true_eq, bne_iff_ne] at hserved
  obtain ⟨⟨hup, hstage⟩, hservice⟩ := hserved
  simp only [serve, mgmtIn_of_check hcheck hup, Nat.not_lt.mpr hstage, hservice, decide_false, Bool.not_true, Bool.or_self,
    Bool.false_eq_true, if_false]

theorem serveSecure_busy {ch op off : Nat} {b : List Byte} (hbusy : (mgmtService s ch op b off).1 = none) :
    serveSecure s m code ch op b off = respond_ (mgmtService s ch op b off).2 m code mgBusy [] := by
  unfold serveSecure
  split
  next r t ht => simp [ht] at hbusy
  next t ht => simp [ht]

theorem serveSecure_done {ch op off : Nat} {b r : List Byte} (hdone : (mgmtService s ch op b off).1 = some r) :
    serveSecure s m code ch op b off = respond_ (mgmtService s ch op b off).2 m code mgOk r := by
  unfold serveSecure
  split
  next r' t ht => simp_all
  next t ht => simp [ht] at hdone

theorem execGetStatus_of_wrong (hcheck : m.check ≠ msgCheck s m 1 []) : exec (.getStatus m) s = .next s := by
  simp [exec, execGetStatus, mgmtIn, hcheck, nx]

theorem execRegRead_of_value {v : Nat} (hcheck : m.check = msgCheck s m 2 (leBytes 8 addr)) (hserved : mgmtServed s m.iface = true)
    (hfree : ∀ e ∈ targetDies (target s (ifAgent m.iface) addr), hbmHeld s e = false)
    (hread : regRead s (ifAgent m.iface) addr 8 = (.ok v, s1)) :
    exec (.regRead m addr) s = .next (respond_ s1 m 2 mgOk (leBytes 8 v)) := by
  simp only [exec, execRegRead, serve_of_served hcheck hserved, holdAt_of_free hfree, hread, regAnswer, nx]

theorem execRegWrite_of_done {v : W64} {r : Nat} (hcheck : m.check = msgCheck s m 3 (leBytes 8 addr ++ leBytes 8 v.toNat))
    (hserved : mgmtServed s m.iface = true) (hfree : ∀ e ∈ targetDies (target s (ifAgent m.iface) addr), hbmHeld s e = false)
    (hwrite : regWrite s (ifAgent m.iface) addr 8 v.toNat = (.ok r, s1)) :
    exec (.regWrite m addr v) s = .next (respond_ s1 m 3 mgOk []) := by
  simp only [exec, execRegWrite, serve_of_served hcheck hserved, holdAt_of_free hfree, hwrite, regAnswer, nx]

theorem execFwUpdate_of_served {r : FwReq} (hcheck : m.check = msgCheck s m 6 (leBytes 128 addr ++ leBytes 1 r.op ++ leBytes 4 r.off))
    (hserved : mgmtServed s m.iface = true) :
    exec (.fwUpdate m addr r) s = .next (serveSecure s m 6 0 r.op (leBytes 128 addr) r.off) := by
  simp only [exec, execFwUpdate, serve_of_served hcheck hserved, nx]

theorem execUnsupportedCommand_of_served (hcheck : m.check = msgCheck s m code body) (hserved : mgmtServed s m.iface = true)
    (hcode : 7 < code) : exec (.unsupportedCommand m ⟨code, body⟩) s = .next (respond_ s m code mgUnsupported []) := by
  have hattest : code ≠ 5 := by omega
  have hknown : ¬ (1 ≤ code ∧ code ≤ 7) := by omega
  simp only [exec, execUnsupportedCommand, if_neg hattest, if_neg hknown, serve_of_served hcheck hserved, nx]

theorem execUnsupportedCommand_attest (hcheck : m.check = msgCheck s m 5 body) (hserved : mgmtServed s m.iface = true)
    (hlen : body.length = 132) :
    exec (.unsupportedCommand m ⟨5, body⟩) s = .next (serveSecure s m 5 1 4 (body.take 128) (leNat (body.drop 128))) := by
  simp only [exec, execUnsupportedCommand, if_true, if_pos hlen, serve_of_served hcheck hserved, nx]

end Management

/-- Settles O38: a good request is served as its code says, and the answer is respond_'s. -/
theorem managementRequests : Obligations.ManagementRequests := by
  intro s m addr f up served ans free
  refine ⟨?status, ?dropped, ?read, ?write, ?telemetry, ?update, ?exports, ?unknown, ?attest, ?endpoint⟩
  case status => exact fun hcheck hup => if_pos (mgmtIn_of_check hcheck hup)
  case dropped => exact fun hcheck => execGetStatus_of_wrong hcheck
  case read => exact fun v s1 hcheck hserved hfree hread => execRegRead_of_value hcheck hserved hfree hread
  case write => exact fun v r s1 hcheck hserved hfree hwrite => execRegWrite_of_done hcheck hserved hfree hwrite
  case telemetry => exact fun hcheck hserved => congrArg nx (serve_of_served hcheck hserved)
  case update =>
    intro r q hcheck hserved
    refine ⟨fun hbusy => ?_, fun b hdone => ?_⟩
    · exact (execFwUpdate_of_served hcheck hserved).trans (congrArg _ (serveSecure_busy hbusy))
    · exact (execFwUpdate_of_served hcheck hserved).trans (congrArg _ (serveSecure_done hdone))
  case exports =>
    intro off r s1 set hcheck hup
    exact if_pos (mgmtIn_of_check hcheck hup)
  case unknown => exact fun code body hcheck hserved hcode => execUnsupportedCommand_of_served hcheck hserved hcode
  case attest =>
    intro body q hcheck hserved hlen
    refine ⟨fun hbusy => ?_, fun b hdone => ?_⟩
    · exact (execUnsupportedCommand_attest hcheck hserved hlen).trans (congrArg _ (serveSecure_busy hbusy))
    · exact (execUnsupportedCommand_attest hcheck hserved hlen).trans (congrArg _ (serveSecure_done hdone))
  case endpoint => exact fun hrails => if_pos hrails

/-! ### Test access ports -/

section Taps

variable {s : State} {tap code : Nat}

/-- Debug that no token opens, or of a confidential die, acts as BYPASS. -/
theorem execHoltuthDebug_of_closed (hup : tapUp s tap = true) (hlow : 0x10 ≤ code) (hhigh : code ≤ 0x1F)
    (hclosed : s.hd.sec.debugScope.toNat.testBit tap = false ∨ tapConfidential s tap = true) :
    exec (.holtuthDebug tap code) s = .next (setIr s tap code) := by
  have hshut : (s.hd.sec.debugScope.toNat.testBit tap && !tapConfidential s tap) = false := by
    rcases hclosed with hscope | hconfidential
    · rw [hscope, Bool.false_and]
    · rw [hconfidential, Bool.not_true, Bool.and_false]
  simp only [exec, execHoltuthDebug, hup, Nat.not_lt.mpr hlow, Nat.not_lt.mpr hhigh, hshut, decide_false, Bool.not_true, Bool.or_self,
    Bool.false_eq_true, if_false, nx]

theorem execSamplePreload_host {pins preload : Nat} :
    exec (.samplePreload 0 pins preload) s = (if tapUp s 0 then .next (emit
      (modHlink (setIr s 0 2) (fun l => { l with boundary := BitVec.ofNat 8 pins, boundaryOut := BitVec.ofNat 8 preload }))
      (.tap 0 (pins % 256))) else .next s) := by
  cases hup : tapUp s 0 <;> simp only [exec, execSamplePreload, hup, Bool.not_true, Bool.not_false, Bool.false_eq_true, if_true, if_false, nx]

theorem driveCells_eq : nx (driveCells s tap code)
    = .next (if tap = 0 then emit (setIr s tap code) (.tap tap s.hd.link.boundaryOut.toNat) else setIr s tap code) := rfl

end Taps

/-- Settles O39: each clause is the branch of a TAP that is up. -/
theorem testAccessPorts : Obligations.TestAccessPorts := by
  intro s tap code hup out drive
  refine ⟨if_pos hup, fun pins preload => execSamplePreload_host, (if_pos hup).trans driveCells_eq, (if_pos hup).trans driveCells_eq,
    if_pos hup, fun hbypass => ?bypass, fun hlow hhigh hclosed => execHoltuthDebug_of_closed hup hlow hhigh hclosed, fun _ => rfl⟩
  case bypass => exact if_pos (Bool.and_eq_true_iff.mpr ⟨hup, hbypass⟩)

end Sys2Proof.Machine
end

section
/-! Proofs about the chain ports and the Ilupen bridge (R351, R352, R358 to R361, R388). -/

namespace Sys2Proof.Machine

/-! ### Frames received -/

section Frames

variable {s : State} {d : DieId} {port type idx : Nat} {f : Frame} {act : State → Nat → State}

/-- The port has counted a frame that it took. -/
def frameCounted (s : State) (d : DieId) (port : Nat) (f : Frame) : State :=
  bump (bump s d (setChain port) 1 1) d (setChain port) 3 (frameBytes (portForce (getDie s d) port).2.2.2.2 f)

/-- The frame's acknowledgement, where it carries one, has freed what it acknowledges. -/
def frameAcked (s : State) (d : DieId) (port idx : Nat) (f : Frame) : State :=
  if bit f.hflags 2 then freeAcked (frameCounted s d port f) d idx f.ackSeq else frameCounted s d port f

/-- A frame outside the sequence of its entry does what its type says once it is judged good. -/
theorem recvFrame_plain (htype : f.type = type) (hplain : sequencedType type = false) (htakes : portTakes (getDie s d) port = true)
    (hjudge : judgeFrame (getDie (frameCounted s d port f) d) port f = .ok idx) :
    recvFrame s d port type f act = act (frameAcked s d port idx f) idx := by
  simp only [frameCounted] at hjudge
  simp only [recvFrame, htype, htakes, hjudge, hplain, frameAcked, frameCounted, ne_eq, not_true_eq_false, Bool.not_true, Bool.not_false,
    Bool.false_eq_true, or_self, if_false, if_true]

/-- A frame that is the next of its entry's sequence moves the sequence on and does what its type says. -/
theorem recvFrame_next (htype : f.type = type) (hsequenced : sequencedType type = true) (htakes : portTakes (getDie s d) port = true)
    (hjudge : judgeFrame (getDie (frameCounted s d port f) d) port f = .ok idx)
    (hnext : f.seq % 2 ^ 32 = (getPeer (getDie (frameAcked s d port idx f) d) idx).rxExpect.toNat) :
    recvFrame s d port type f act = act (modPeer (frameAcked s d port idx f) d idx (fun p =>
      { p with rxExpect := p.rxExpect + 1, ackDue := true })) idx := by
  simp only [frameCounted] at hjudge
  simp only [frameAcked, frameCounted] at hnext
  simp only [recvFrame, htype, htakes, hjudge, hsequenced, frameAcked, frameCounted, ne_eq, not_true_eq_false, Bool.not_true,
    Bool.false_eq_true, or_self, if_false]
  exact if_pos hnext

theorem takeReq_eq : takeReq s d idx f =
    if hbmStopped (getDie s d) = false ∧ (getPeer (getDie s d) idx).reqHeld = [] then serveReq s d idx f
    else modPeer s d idx (fun p => { p with reqHeld := p.reqHeld ++ [f] }) := by
  by_cases hserved : hbmStopped (getDie s d) = false ∧ (getPeer (getDie s d) idx).reqHeld = []
  · obtain ⟨hruns, hheld⟩ := hserved
    simp [takeReq, hruns, hheld]
  · have hwaits : (hbmStopped (getDie s d) || !(getPeer (getDie s d) idx).reqHeld.isEmpty) = true := by
      by_contra hnot
      simp only [Bool.or_eq_true, Bool.not_eq_true', not_or, Bool.not_eq_true, Bool.not_eq_false, List.isEmpty_iff] at hnot
      exact hserved hnot
    simp only [takeReq, hwaits, if_true, if_neg hserved]

end Frames

/-- Settles O40: every command of a frame is recvFrame with what the frame's type does. -/
theorem chainFrames : Obligations.ChainFrames := by
  intro s d port idx f x s1 s2 p s3 htakes hjudge
  have hplain : ∀ {type act}, f.type = type → sequencedType type = false → nx (recvFrame s d port type f act) = .next (act s2 idx) :=
    fun htype hplain => congrArg nx (recvFrame_plain htype hplain htakes hjudge)
  refine ⟨fun hseq => ?sequenced, fun htype => hplain htype rfl, fun htype => hplain htype rfl, ?nack, fun htype => hplain htype rfl,
    if_pos htakes⟩
  case sequenced =>
    have hnext : ∀ {type act}, f.type = type → sequencedType type = true → nx (recvFrame s d port type f act) = .next (act s3 idx) :=
      fun htype hsequenced => congrArg nx (recvFrame_next htype hsequenced htakes hjudge hseq)
    exact ⟨fun htype => hnext htype rfl, fun htype => hnext htype rfl, fun htype => (hnext htype rfl).trans (congrArg nx takeReq_eq),
      fun htype => hnext htype rfl⟩
  case nack =>
    intro htype s4
    exact hplain htype rfl

/-! ### Peer entries -/

section Entries

variable {s : State} {d : DieId} {n agent : Nat} {v : W64}

theorem execRtoTimeout_of_due {h : Held} {rest : List Held} (hunacked : (getPeer (getDie s d) n).unacked = h :: rest)
    (hvalid : (getPeer (getDie s d) n).valid = true) (hdue : h.sentAt + rtoNs (getDie s d) ≤ timeOf s (some d)) :
    exec (.rtoTimeout d n) s = .next (retryPeer s d n false) := by
  simp only [exec, execRtoTimeout, rtoDue, hunacked, hvalid, hdue, List.head?_cons, Option.any_some, decide_true, Bool.and_self, if_true, nx]

theorem execStandaloneAck_of_due (hdue : (getPeer (getDie s d) n).ackDue = true) (hup : peerUp (getDie s d) n = true) :
    exec (.standaloneAck d n) s = .next (sendPlain s d n 4 []) := by
  simp only [exec, execStandaloneAck, hdue, hup, Bool.and_self, if_true, nx]

theorem execCreditPeriodic_of_named (hup : peerUp (getDie s d) n = true)
    (hnamed : (List.range 4).any (fun c => (chainReceiver s d (getPeer (getDie s d) n).port.toNat n c).isSome) = true) :
    exec (.creditPeriodic d n) s = .next (modPeer (sendPlain s d n 3 ((List.range 4).flatMap (fun c =>
      leBytes 4 (tabGet 0 (getPeer (getDie s d) n).freed c)))) d n (fun q => { q with freedSent := q.freed })) := by
  simp only [exec, execCreditPeriodic, hup, hnamed, Bool.and_self, if_true, nx]

/-- A write of every bit takes its value. -/
theorem over_full {old : Nat} : RegW.over { mask := 2 ^ 64 - 1, val := v.toNat } old = v.toNat := by
  have hval : v.toNat &&& (2 ^ 64 - 1) = v.toNat := by
    rw [Nat.and_two_pow_sub_one_eq_mod]
    exact Nat.mod_eq_of_lt v.isLt
  have hold : old % 2 ^ 64 &&& (2 ^ 64 - 1) = old % 2 ^ 64 := by
    rw [Nat.and_two_pow_sub_one_eq_mod, Nat.mod_mod]
  simp only [RegW.over, hval, hold, Nat.sub_self, Nat.or_zero]

theorem execPeerCfgWrite_of_free (hreach : reachesDie s agent d = true) (hn : n < 4096)
    (hfree : (getPeer (getDie s d) n).valid = false) (hvalid : bit v.toNat 61 = true) :
    exec (.peerCfgWrite agent d n v) s = acked agent (modPeer (modPeer s d n (fun p => { p with
      mac := BitVec.ofNat 48 (fld v.toNat 47 0), port := BitVec.ofNat 4 (fld v.toNat 51 48), part := BitVec.ofNat 4 (fld v.toNat 55 52)
      farPart := BitVec.ofNat 4 (fld v.toNat 59 56), memEn := bit v.toNat 60 })) d n
      (fun p => { p with valid := true, failed := false, txNext := 0, rxExpect := 0, tries := 0, nackAt := none })) := by
  simp only [exec, execPeerCfgWrite, writePeerCfg, over_full, answer, hreach, hn, hfree, hvalid, decide_true, Bool.and_self,
    Bool.false_eq_true, if_true, if_false, acked]

/-- A link of a port in use takes its new state; one that comes back sends what its entries hold ready. -/
theorem execChainLinkStateChange_of_used {up : Bool} (hn : n < 16)
    (hst : (getCp (getDie s d) n).st = .on ∨ (getCp (getDie s d) n).st = .draining) :
    exec (.chainLinkStateChange d n up) s = .next (if up then
      ((getDie (setLink_ s d n up) d).peers.filter (fun e => e.2.port.toNat == n)).foldl (fun s e => sendEntry s d e.1) (setLink_ s d n up)
      else setLink_ s d n up) := by
  have hused : (decide ((getCp (getDie s d) n).st = .on) || decide ((getCp (getDie s d) n).st = .draining)) = true := by simpa using hst
  simp only [exec, execChainLinkStateChange, hn, hused, decide_true, Bool.and_self, if_true, nx]

end Entries

/-- Settles O41: each clause is the branch of an entry or a port that its command takes. -/
theorem chainEntries : Obligations.ChainEntries := by
  intro s d n agent v x p
  refine ⟨?timeout, ?ack, ?credit, ?mark, ?config, ?link⟩
  case timeout => exact fun h rest hunacked hvalid hdue => execRtoTimeout_of_due hunacked hvalid hdue
  case ack => exact fun hdue hup => execStandaloneAck_of_due hdue hup
  case credit => exact fun hup hnamed => execCreditPeriodic_of_named hup hnamed
  case mark =>
    intro htakes hdst hscrub w f0
    have hdest : ((tabGet 0 x.chain.markDst n).toNat == 0) = false :=
      beq_eq_false_iff_ne.mpr fun hzero => hdst (BitVec.eq_of_toNat_eq hzero)
    have hsends : (!portTakes x n || (tabGet 0 x.chain.markDst n).toNat == 0 || portScrubbed s d n) = false := by
      rw [htakes, hdest, hscrub, Bool.not_true, Bool.or_self, Bool.or_self]
    exact if_neg (Bool.eq_false_iff.mp hsends)
  case config => exact fun hreach hn hfree hvalid => execPeerCfgWrite_of_free hreach hn hfree hvalid
  case link => exact fun hn hst => ⟨execChainLinkStateChange_of_used hn hst, execChainLinkStateChange_of_used hn hst⟩

/-! ### Bridge lines -/

section Bridge

variable {s : State} {d : DieId} {seg : Nat}

theorem execBridgeLine_of_turn {vc : Nat} {data : List Byte} (hopen : s.hd.boot.brgWait = false) (hseg : seg ≤ 15) (hvc : vc ≤ 3)
    (hfloor : vc ≠ 2) (hresend : (getSeg (getDie s d) seg).resend = [])
    (hoffer : mayOffer (getSeg (getDie s d) seg) (waitingLine (getSeg (getDie s d) seg) vc data) = true) (hturn : vcTurn s d seg vc = true) :
    exec (.bridgeLine d seg vc none data) s =
      .next (modSeg s d seg (fun g => offer d seg (dropWaiting g vc) (waitingLine (getSeg (getDie s d) seg) vc data))) := by
  have hcases : vc = 0 ∨ vc = 1 ∨ vc = 3 := by omega
  rcases hcases with rfl | rfl | rfl <;>
    simp only [exec, execBridgeLine, hopen, Nat.not_lt.mpr hseg, hresend, hoffer, hturn, hvc, List.isEmpty_nil, decide_true, decide_false,
      Bool.or_self, Bool.and_self, Bool.false_eq_true, if_false, if_true, nx]

theorem execBridgeLine_floor {slot station port : Nat} {data : List Byte} (hopen : s.hd.boot.brgWait = false) (hseg : seg ≤ 15) :
    exec (.bridgeLine d seg 2 (some (slot, station, port)) data) s = .next (offerFloor s d seg slot station port) := by
  simp only [exec, execBridgeLine, hopen, Nat.not_lt.mpr hseg, decide_false, Bool.or_self, Bool.false_eq_true, if_false, nx]

theorem execAckOk_of_memory {l : BrgLine} {rest : List BrgLine} (hflight : (getSeg (getDie s d) seg).flight = l :: rest) (hsrc : l.src = none)
    (hvc : l.vc ≠ 2) :
    exec (.ackOk d seg) s = .next (crossMem (modSeg s d seg (fun g =>
      offerResend d seg (addCredit { g with flight := rest, tries := 0 } l 1))) d seg l) := by
  simp only [exec, execAckOk, hflight, hsrc, if_neg hvc, nx]

theorem execAckOk_of_floor {l : BrgLine} {rest : List BrgLine} {slot station port : Nat}
    (hflight : (getSeg (getDie s d) seg).flight = l :: rest) (hsrc : l.src = some (slot, station, port)) (hvc : l.vc = 2) :
    exec (.ackOk d seg) s = .next (crossLine (modSeg s d seg (fun g =>
      offerResend d seg { g with flight := rest, tries := 0 })) d slot station port) := by
  simp only [exec, execAckOk, hflight, hsrc, if_pos hvc, nx]

/-- A try below the eighth in a row only counts. -/
theorem retrySeg_below_eight (hflight : (getSeg (getDie s d) seg).flight ≠ []) (hup : (getSeg (getDie s d) seg).st = .up)
    (htries : (getSeg (getDie s d) seg).tries < 7) :
    retrySeg s d seg = modSeg s d seg (fun g => { g with
      tries := g.tries + 1
      retries := BitVec.ofNat 16 (satAdd 16 g.retries.toNat g.flight.length) }) := by
  have hsome : (getSeg (getDie s d) seg).flight.isEmpty = false := List.isEmpty_eq_false_iff.mpr hflight
  have hfew : ¬ 8 ≤ (getSeg (getDie s d) seg).tries + 1 := by omega
  simp only [retrySeg, hsome, hup, hfew, ne_eq, not_true_eq_false, decide_false, Bool.or_self, Bool.false_eq_true, if_false]

theorem execBridgeRetrain_of_waiting {up : Nat} (hwaits : s.hd.boot.brgWait = true) (hcd0 : s.cd0.clk.running = true)
    (hcd1 : s.cd1.clk.running = true) : exec (.bridgeRetrain up) s = .next (retrainBridge s up) := by
  simp only [exec, execBridgeRetrain, hwaits, hcd0, hcd1, Bool.and_self, if_true, nx]

end Bridge

/-- Settles O42: each clause is the branch of a line, an acknowledgement or a retry of a segment that is up. -/
theorem bridgeLines : Obligations.BridgeLines := by
  intro s d seg g
  refine ⟨fun hopen hseg => ⟨?line, ?floor⟩, fun l rest hflight => ⟨?memory, ?handed⟩, ?retry, ?retrain⟩
  case line =>
    intro vc data l hvc hfloor hresend hoffer hturn
    exact execBridgeLine_of_turn hopen hseg hvc hfloor hresend hoffer hturn
  case floor => exact fun slot station port data => execBridgeLine_floor hopen hseg
  case memory => exact fun hsrc hvc => execAckOk_of_memory hflight hsrc hvc
  case handed => exact fun slot station port hsrc hvc => execAckOk_of_floor hflight hsrc hvc
  case retry =>
    exact fun hflight hup htries => ⟨congrArg nx (retrySeg_below_eight hflight hup htries),
      congrArg nx (retrySeg_below_eight hflight hup htries)⟩
  case retrain => exact fun up hwaits hcd0 hcd1 => execBridgeRetrain_of_waiting hwaits hcd0 hcd1

end Sys2Proof.Machine
end

section
/-! Proofs about the services of the security core, the Sparge and CAL_CTL.COMMIT (section 16). -/

namespace Sys2Proof.Machine

theorem hostReg_of_reach {s t : State} {agent : Nat} (hreach : reachesHost s agent = true) : hostReg s agent t = acked agent t := by
  simp only [hostReg, answer, hreach, if_true, acked]

theorem dieReg_of_reach {s t : State} {agent : Nat} {d : DieId} (hreach : reachesDie s agent d = true) :
    dieReg s agent d t = acked agent t := by
  simp only [dieReg, answer, hreach, if_true, acked]

/-! ### Requests in progress -/

section Requests

variable {s s1 s2 : State} {ch op : Nat} {b im : List Byte} {failed : List BootPage} {f : State → List Byte → State}

/-- A request in progress whose argument block `b` has been read, leaving `s1`. -/
structure Asked (s : State) (ch op : Nat) (b : List Byte) (s1 : State) : Prop where
  busy : (getChan s ch).busy = true
  service : (getChan s ch).op = op
  channel : ch < 2
  free : argHeld s ch = false
  block : argBlock s ch = (.ok b, s1)

theorem secRun_of_asked (h : Asked s ch op b s1) : secRun s ch op f = f s1 b := by
  obtain ⟨hbusy, hop, hch, hfree, hblock⟩ := h
  simp only [secRun, hbusy, hop, hch, hfree, hblock, bne_self_eq_false, decide_true, Bool.not_true, Bool.or_self, Bool.false_eq_true, if_false]

theorem withHost_of_read {pa n : Nat} (hfree : hostHeld s pa n = false) (hread : hostRead s pa n = (.ok im, s1)) :
    withHost s ch pa n f = f s1 im := by
  simp only [withHost, hfree, hread, Bool.false_eq_true, if_false]

theorem execLayoutSet_of_good (h : Asked s ch 1 b s1) (hfree : hostHeld s1 (argF b 0 8) 4864 = false)
    (hread : hostRead s1 (argF b 0 8) 4864 = (.ok im, s2)) (hgood : layoutStatus s2 im = 0) :
    exec (.layoutSet ch) s = .next (finishSec (installLayout s2 im) ch 0 0) := by
  simp only [exec, execLayoutSet, secRun_of_asked h, withHost_of_read hfree hread, hgood, if_true, nx]

theorem scrubWith_of_present (hidle : s1.hd.sec.scrub = none) (hmode : argF b 0 1 = 0) (hlow : 1 ≤ argF b 1 1) (hhigh : argF b 1 1 ≤ 15)
    (hflags : argF b 2 1 ≤ 1) (hpresent : (getSec s1 (argF b 1 1)).st ≠ .absent) :
    scrubWith s1 ch b = endScrub (modHsec (beginScrub s1 (argF b 1 1)) (fun h => { h with scrub := some {
      part := some (argF b 1 1), trim := bit (argF b 2 1) 0, left0 := scrubGranules (beginScrub s1 (argF b 1 1)) .cd0 (some (argF b 1 1))
      left1 := scrubGranules (beginScrub s1 (argF b 1 1)) .cd1 (some (argF b 1 1)) } })) := by
  have hrange : ¬ (1 < argF b 0 1 ∨ 1 < argF b 2 1 ∨ (argF b 0 1 = 0 ∧ (argF b 1 1 = 0 ∨ 15 < argF b 1 1))) := by omega
  have habsent : ¬ (argF b 0 1 = 0 ∧ (getSec s1 (argF b 1 1)).st = .absent) := fun hnot => hpresent hnot.2
  simp only [scrubWith, hidle, if_neg hrange, if_neg habsent, Option.isSome_none, Bool.false_eq_true, if_false]
  simp only [hmode, beq_self_eq_true, Bool.and_true, if_true]

theorem confWith_of_clean (hpart : argF b 0 1 ≤ 15) (hlen : argF b 0x10 8 % 4096 = 0)
    (howns : ownsRange s1 (argF b 0 1) (argF b 0x18 8) (argF b 0x10 8) = true) (hclean : (getSec s1 (argF b 0 1)).st = .clean)
    (hfree : hostHeld s1 (argF b 8 8) (argF b 0x10 8) = false) (hread : hostRead s1 (argF b 8 8) (argF b 0x10 8) = (.ok im, s2)) :
    confWith s1 ch b = finishSec (modSec
      (setPtRoot (setPtRoot (storeHbm s2 (argF b 0x18 8) im) .cd0 (argF b 0 1) (argF b 0x20 8)) .cd1 (argF b 0 1) (argF b 0x28 8))
      (argF b 0 1)
      (fun x => { x with conf := true, refusedOnce := false, ptMeas := some (digest512 im, argF b 0x18 8, argF b 0x10 8) })) ch 0 0 := by
  have hrange : ¬ (15 < argF b 0 1 ∨ argF b 0x10 8 % 4096 ≠ 0
      ∨ (!ownsRange s1 (argF b 0 1) (argF b 0x18 8) (argF b 0x10 8)) = true) := by
    simp only [Nat.not_lt.mpr hpart, hlen, howns, ne_eq, not_true_eq_false, Bool.not_true, Bool.false_eq_true, or_self, not_false_eq_true]
  simp only [confWith, if_neg hrange, hclean, withHost_of_read hfree hread, ne_eq, not_true_eq_false, if_false]

/-- An ATTEST of the management interface that asked keeps its report. -/
theorem attestWith_kept {a : List Byte} (hlow : 1 ≤ argF b 0 1) (hhigh : argF b 0 1 ≤ 2) (hpart : argF b 1 1 ≤ 15)
    (hblock : (getChan s1 ch).block = some a) :
    attestWith s1 ch b = finishSec (modChan s1 ch (fun c =>
      { c with report := report s1 (argF b 0 1) (argF b 1 1) (argF b 0x40 64) })) ch 0
        (report s1 (argF b 0 1) (argF b 1 1) (argF b 0x40 64)).length := by
  have hrange : ¬ (argF b 0 1 = 0 ∨ 2 < argF b 0 1 ∨ 15 < argF b 1 1) := by omega
  simp only [attestWith, if_neg hrange, hblock, Option.isSome_some, if_true]

/-- An ATTEST of an argument block in memory writes its report to its buffer. -/
theorem attestWith_written {o : List Byte} (hlow : 1 ≤ argF b 0 1) (hhigh : argF b 0 1 ≤ 2) (hpart : argF b 1 1 ≤ 15)
    (hblock : (getChan s1 ch).block = none) (hroom : (report s1 (argF b 0 1) (argF b 1 1) (argF b 0x40 64)).length ≤ argF b 0x10 8)
    (hfree : hostHeld s1 (argF b 8 8) (report s1 (argF b 0 1) (argF b 1 1) (argF b 0x40 64)).length = false)
    (hwrite : hostWrite s1 (argF b 8 8) (report s1 (argF b 0 1) (argF b 1 1) (argF b 0x40 64)) = (.ok o, s2)) :
    attestWith s1 ch b = finishSec s2 ch 0 (report s1 (argF b 0 1) (argF b 1 1) (argF b 0x40 64)).length := by
  have hrange : ¬ (argF b 0 1 = 0 ∨ 2 < argF b 0 1 ∨ 15 < argF b 1 1) := by omega
  simp only [attestWith, if_neg hrange, hblock, Option.isSome_none, Nat.not_lt.mpr hroom, hfree, hwrite, Bool.false_eq_true, if_false]

theorem stageWith_of_good (hfree : hostHeld s1 (argF b 0 8) (argF b 8 4) = false)
    (hread : hostRead s1 (argF b 0 8) (argF b 8 4) = (.ok im, s2)) (hgood : bundleStatus s2 im = 0) :
    stageWith s1 ch b = finishSec (writeSelectors (writeBoot s2 (bundleBase (1 - (selected s2).1)) im) (selectorSeq s2)
      (selected s2).1 (1 - (selected s2).1)) ch 0 0 := by
  simp only [stageWith, withHost_of_read hfree hread, hgood, ne_eq, not_true_eq_false, if_false]

theorem applyWith_of_staged (hstaged : (selected s).2 ≠ 0xFF) :
    applyWith s ch =
      if !liveApply s (selected s).1 (selected s).2 then
        warmReset (writeSelectors s ((selectorSeq s + 1) % 2 ^ 32) (selected s).2 0xFF) 2
      else if s.hd.sec.applying < 2 then modHsec (resumeChecks s) (fun c => { c with applying := c.applying + 1 })
      else finishSec (writeSelectors (modHsec (resumeChecks s) (fun c => { c with applying := 0 })) ((selectorSeq s + 1) % 2 ^ 32)
        (selected s).2 0xFF) ch 0 0 := if_neg hstaged

/-- The window of a die that an apply opens again leaves the security core as it is. -/
theorem resumeChecks_applying : (resumeChecks s).hd.sec.applying = s.hd.sec.applying := by
  unfold resumeChecks
  split
  · rfl
  · cases dieOfNum (s.hd.sec.applying - 1) <;> rfl

/-- A live apply opens the window of the next die. -/
theorem applyWith_live_next (hstaged : (selected s).2 ≠ 0xFF) (hlive : liveApply s (selected s).1 (selected s).2 = true)
    (hmore : s.hd.sec.applying < 2) :
    applyWith s ch = modHsec (resumeChecks s) (fun c => { c with applying := s.hd.sec.applying + 1 }) := by
  rw [applyWith_of_staged hstaged, if_neg (by rw [hlive]; decide), if_pos hmore]
  simp only [modHsec, resumeChecks_applying]

theorem revokeWith_of_token {t : List Byte} {signer : Nat} (hfree : hostHeld s1 (argF b 0 8) 208 = false)
    (hread : hostRead s1 (argF b 0 8) 208 = (.ok t, s2)) (htoken : tokenSlot s2 t "HOLTUTH-REVOKE" = some signer)
    (hk : argF t 0x10 2 ≤ 3) (hmay : mayRevoke s2 signer (argF t 0x10 2) = true)
    (hunburnt : bit s2.hd.ident.keyRevoked.toNat (argF t 0x10 2) = false) :
    revokeWith s1 ch b = finishSec (freshNonce { s2 with hd := { s2.hd with ident := { s2.hd.ident with
      keyRevoked := s2.hd.ident.keyRevoked ||| BitVec.ofNat 4 (2 ^ argF t 0x10 2) } } }) ch 0 0 := by
  simp only [revokeWith, withHost_of_read hfree hread, htoken, Nat.not_lt.mpr hk, hmay, hunburnt, Bool.not_true, Bool.false_eq_true, if_false]

theorem debugWith_of_token {t : List Byte} {signer : Nat} (hfree : hostHeld s1 (argF b 0 8) 208 = false)
    (hread : hostRead s1 (argF b 0 8) 208 = (.ok t, s2)) (henabled : s2.hd.ident.debugDisable = false)
    (htoken : tokenSlot s2 t "HOLTUTH-DEBUG" = some signer) :
    debugWith s1 ch b = finishSec (freshNonce (modHsec s2 (fun c => { c with
      debugScope := c.debugScope ||| BitVec.ofNat 3 (argF t 0x10 2) }))) ch 0 0 := by
  simp only [debugWith, withHost_of_read hfree hread, henabled, htoken, Option.isNone_some, Bool.or_self, Bool.false_eq_true, if_false]

end Requests

/-! ### The Sparge and CAL_CTL -/

section Sparge

variable {s : State} {granule : Nat} {c : Scrub}

theorem execSpargeZeroWrite_cd0 (hscrub : s.hd.sec.scrub = some c) (hruns : hbmStopped (getDie s .cd0) = false) (hleft : granule ∈ c.left0) :
    exec (.spargeZeroWrite .cd0 granule) s = .next (endScrub (modHsec (zeroGranule s .cd0 granule)
      (fun h => { h with scrub := some { c with left0 := c.left0.erase granule } }))) := by
  simp only [exec, execSpargeZeroWrite, hscrub, hruns, List.contains_iff_mem.mpr hleft, Bool.not_true, Bool.or_self, Bool.false_eq_true,
    if_false, nx]

theorem execSpargeZeroWrite_cd1 (hscrub : s.hd.sec.scrub = some c) (hruns : hbmStopped (getDie s .cd1) = false) (hleft : granule ∈ c.left1) :
    exec (.spargeZeroWrite .cd1 granule) s = .next (endScrub (modHsec (zeroGranule s .cd1 granule)
      (fun h => { h with scrub := some { c with left1 := c.left1.erase granule } }))) := by
  simp only [exec, execSpargeZeroWrite, hscrub, hruns, List.contains_iff_mem.mpr hleft, Bool.not_true, Bool.or_self, Bool.false_eq_true,
    if_false, nx]

/-- What holds a range of memory does not depend on the boot registers. -/
theorem hostHeld_modBoot {f : HdBoot → HdBoot} {addr n : Nat} : hostHeld (modBoot s f) addr n = hostHeld s addr n := by
  have hdie : ∀ d, getDie (modBoot s f) d = getDie s d := fun d => by cases d <;> rfl
  simp only [hostHeld, hdie]

/-- A staged set that both reads give and that passes is written into the boot region. -/
theorem runCommit_of_good {head set : List Byte} {s1 s2 : State} (hheld : hostHeld s (s.hd.boot.calSrc.toNat * 4096) 0x20 = false)
    (hhead : hostRead s (s.hd.boot.calSrc.toNat * 4096) 0x20 = (.ok head, s1))
    (hheld2 : hostHeld s (s.hd.boot.calSrc.toNat * 4096) (max 0x20 (min 0x10000 (argF head 8 4))) = false)
    (hset : hostRead s1 (s.hd.boot.calSrc.toNat * 4096) (max 0x20 (min 0x10000 (argF head 8 4))) = (.ok set, s2))
    (hgood : calCheck s.hd.ident.serial.toNat set = 0) :
    runCommit s = modBoot (writeBoot s2 calBase set) (fun b => { b with calPend := false, calResult := 0 }) := by
  simp only [runCommit, hheld, hhead, hheld2, hset, hgood, ne_eq, not_true_eq_false, Bool.false_eq_true, if_false]

theorem calCommit_of_idle (hidle : s.hd.boot.calBusy = false) :
    calCommit s = runCommit (modBoot s (fun b => { b with calBusy := true, calPend := true })) := by
  simp only [calCommit, hidle, Bool.false_eq_true, if_false]

theorem execCalCommit_of_good {agent : Nat} {head set : List Byte} {s1 s2 : State} (hreach : reachesHost s agent = true)
    (hmgmt : mgmtAgent agent = true) (hidle : s.hd.boot.calBusy = false) (hheld : hostHeld s (s.hd.boot.calSrc.toNat * 4096) 0x20 = false)
    (hhead : hostRead (modBoot s (fun b => { b with calBusy := true, calPend := true })) (s.hd.boot.calSrc.toNat * 4096) 0x20
      = (.ok head, s1))
    (hheld2 : hostHeld s (s.hd.boot.calSrc.toNat * 4096) (max 0x20 (min 0x10000 (argF head 8 4))) = false)
    (hset : hostRead s1 (s.hd.boot.calSrc.toNat * 4096) (max 0x20 (min 0x10000 (argF head 8 4))) = (.ok set, s2))
    (hgood : calCheck s.hd.ident.serial.toNat set = 0) :
    exec (.calCommit agent) s =
      acked agent (modBoot (writeBoot s2 calBase set) (fun b => { b with calPend := false, calResult := 0 })) := by
  have hcommit : calCommit s = modBoot (writeBoot s2 calBase set) (fun b => { b with calPend := false, calResult := 0 }) :=
    (calCommit_of_idle hidle).trans
      (runCommit_of_good (hostHeld_modBoot.trans hheld) hhead (hostHeld_modBoot.trans hheld2) hset hgood)
  simp only [exec, execCalCommit, hostReg_of_reach hreach, hmgmt, if_true, hcommit]

end Sparge

/-- Settles O43: a request whose argument block reads is its service, and each service takes its successful branch. -/
theorem securityServices : Obligations.SecurityServices := by
  refine ⟨fun s s1 ch op b failed hbusy hop hch hheld hblock => ?services, fun s agent granule c => ⟨?zero0, ?zero1, ?commit⟩⟩
  case services =>
    intro p done reads z sel
    have hasked : Asked s ch op b s1 := ⟨hbusy, hop, hch, hheld, hblock⟩
    refine ⟨?layout, ?scrub, ?conf, ?attest, ?stage, ?apply, ?discard, ?revoke, ?debug⟩
    case layout =>
      rintro im s2 rfl ⟨hfree, hread⟩ hgood
      exact execLayoutSet_of_good hasked hfree hread hgood
    case scrub =>
      intro hscrub hidle hmode hlow hhigh hflags hpresent s2
      subst hscrub
      exact congrArg nx ((secRun_of_asked hasked).trans (scrubWith_of_present hidle hmode hlow hhigh hflags hpresent))
    case conf =>
      intro im s2 q dst len hconf hpart hlen howns hclean hreads
      subst hconf
      exact congrArg nx ((secRun_of_asked hasked).trans (confWith_of_clean hpart hlen howns hclean hreads.1 hreads.2))
    case attest =>
      intro s2 o kind r hattest hlow hhigh hpart
      subst hattest
      refine ⟨fun a hblock => ?_, fun hblock hroom hfree hwrite => ?_⟩
      · exact congrArg nx ((secRun_of_asked hasked).trans (attestWith_kept hlow hhigh hpart hblock))
      · exact congrArg nx ((secRun_of_asked hasked).trans (attestWith_written hlow hhigh hpart hblock hroom hfree hwrite))
    case stage =>
      rintro im s2 rfl ⟨hfree, hread⟩ hgood
      exact congrArg nx ((secRun_of_asked hasked).trans (stageWith_of_good hfree hread hgood))
    case apply =>
      intro happly hstaged seq n
      subst happly
      have hruns : exec (.fwApply ⟨ch, failed⟩) s = nx _ := congrArg nx ((secRun_of_asked hasked).trans (applyWith_of_staged hstaged))
      refine ⟨fun hcold => ?_, fun hlive hmore => ?_, fun hlive hlast => ?_⟩
      · exact hruns.trans (congrArg nx (if_pos (by rw [hcold, Bool.not_false])))
      · exact congrArg nx ((secRun_of_asked hasked).trans (applyWith_live_next hstaged hlive hmore))
      · have hdone : ¬ n < 2 := by omega
        exact hruns.trans (congrArg nx ((if_neg (by rw [hlive]; decide)).trans (if_neg hdone)))
    case discard =>
      rintro rfl
      exact congrArg nx (secRun_of_asked hasked)
    case revoke =>
      rintro t s2 signer k rfl ⟨hfree, hread⟩ htoken hk hmay hunburnt
      exact congrArg nx ((secRun_of_asked hasked).trans (revokeWith_of_token hfree hread htoken hk hmay hunburnt))
    case debug =>
      rintro t s2 signer rfl ⟨hfree, hread⟩ henabled htoken
      exact congrArg nx ((secRun_of_asked hasked).trans (debugWith_of_token hfree hread henabled htoken))
  case zero0 => exact fun hscrub hruns hleft => execSpargeZeroWrite_cd0 hscrub hruns hleft
  case zero1 => exact fun hscrub hruns hleft => execSpargeZeroWrite_cd1 hscrub hruns hleft
  case commit =>
    intro head set s1 s2 pa n t hreach hmgmt hidle hheld hhead hheld2 hset hgood
    exact execCalCommit_of_good hreach hmgmt hidle hheld hhead hheld2 hset hgood

end Sys2Proof.Machine
end

section
/-! Proofs about clocks, time, the boot and resets (sections 14 and 15). -/

namespace Sys2Proof.Machine

/-! ### Clock sources -/

section Clocks

variable {s : State} {agent n old new i : Nat}

theorem rampStep_before_last {c : HdClk} (hramp : tabGet (0, 0, 0) c.ramps n = (old, new, i)) (hi : i < 7) :
    rampStep c n = { c with
      freq := tabSet 0 c.freq n ((old * (7 - i) + new * (i + 1)) / 8), ramps := tabSet (0, 0, 0) c.ramps n (old, new, i + 1) } := by
  simp only [rampStep, hramp, if_pos hi]

theorem rampStep_last {c : HdClk} (hramp : tabGet (0, 0, 0) c.ramps n = (old, new, i)) (hi : i = 7) (hheld : tabGet 0 c.rampHeld n = 0) :
    rampStep c n = { c with
      freq := tabSet 0 c.freq n ((old * (7 - i) + new * (i + 1)) / 8), ramps := tabKeep (fun k => k != n) c.ramps } := by
  have hlast : ¬ i < 7 := by omega
  simp only [rampStep, hramp, if_neg hlast, hheld]

theorem modClk_congr {f g : HdClk → HdClk} (h : f s.hd.clk = g s.hd.clk) : modClk s f = modClk s g := by
  simp only [modClk, h]

theorem execXtalGood_of_rom (hrails : s.hd.power.hostRails = true) (hstage : s.hd.boot.stage = 2) (hsrc : s.hd.clk.src = 0)
    (hgood : s.hd.clk.xtalGood = false) (hnone : s.hd.clk.noXtal = false) :
    exec .xtalGood s = .next (rampAll (modClk s (fun c => { c with src := 1, xtalGood := true }))) := by
  simp only [exec, execXtalGood, hrails, hstage, hsrc, hgood, hnone, beq_self_eq_true, Bool.not_false, Bool.and_self, if_true, nx]

theorem execNoXtal_of_rom (hrails : s.hd.power.hostRails = true) (hstage : s.hd.boot.stage = 2) (hsrc : s.hd.clk.src = 0)
    (hgood : s.hd.clk.xtalGood = false) : exec .noXtal s = .next (modClk s (fun c => { c with noXtal := true })) := by
  simp only [exec, execNoXtal, hrails, hstage, hsrc, hgood, beq_self_eq_true, Bool.not_false, Bool.and_self, if_true, nx]

theorem xtalRetry_passes (hsrc : s.hd.clk.src ≠ 1) : xtalRetry s true = rampAll (modClk s (fun c => { c with src := 1, xtalGood := true })) := by
  simp only [xtalRetry, beq_eq_false_iff_ne.mpr hsrc, Bool.not_true, Bool.or_self, Bool.false_eq_true, if_false]

end Clocks

/-- Settles O44: a ramp's two kinds of step, and the branch of each change of source. -/
theorem clockSources : Obligations.ClockSources := by
  intro s agent n old new i c f
  refine ⟨fun hany hramp => ⟨fun hi => ?_, fun hi hheld => ?_⟩, fun count hrails htrim => ?trim,
    fun hrails hstage hsrc hgood hnone => ⟨execXtalGood_of_rom hrails hstage hsrc hgood hnone, execNoXtal_of_rom hrails hstage hsrc hgood⟩,
    fun hrails hsrc => ?lost, fun hreach hsrc => ?retry⟩
  · exact (if_pos hany).trans (congrArg nx (modClk_congr (rampStep_before_last hramp hi)))
  · exact (if_pos hany).trans (congrArg nx (modClk_congr (rampStep_last hramp hi hheld)))
  case trim => exact if_pos (Bool.and_eq_true_iff.mpr ⟨hrails, htrim⟩)
  case lost => exact if_pos (Bool.and_eq_true_iff.mpr ⟨hrails, beq_iff_eq.mpr hsrc⟩)
  case retry => exact (hostReg_of_reach hreach).trans (congrArg _ (xtalRetry_passes hsrc))

/-! ### Timebases -/

section Time

variable {s : State} {d : DieId} {agent port : Nat} {e : Int}

theorem execTimebaseFollow_of_close (htimed : dieTimed (getDie s d) = true) (hclose : e.natAbs ≤ 4) :
    exec (.timebaseFollow d e) s =
      .next (modDclk s d (fun c => { c with tb := if c.tb < s.hd.time.tb then c.tb + 1 else c.tb })) := by
  simp only [exec, execTimebaseFollow, htimed, Nat.not_lt.mpr hclose, Bool.not_true, Bool.false_eq_true, if_false, nx]

theorem execTbHoldover_of_late (hrails : s.hd.power.hostRails = true) (hmode : s.hd.time.mode = 2 ∨ s.hd.time.mode = 3)
    (hlate : s.hd.time.lastRef + holdoverNs s.hd.time.mode ≤ s.hd.time.tb) :
    exec .tbHoldover s = .next (modTime s (fun t => { t with holdover := true, slew := 0 })) := by
  have hsource : (s.hd.time.mode == 2 || s.hd.time.mode == 3) = true := by
    rcases hmode with h | h <;> rw [h] <;> rfl
  simp only [exec, execTbHoldover, hrails, hsource, hlate, decide_true, Bool.and_self, if_true, nx]

theorem modDclk_modDclk {f g : DieClk → DieClk} : modDclk (modDclk s d f) d g = modDclk s d (fun c => g (f c)) := by
  cases d <;> rfl

theorem execTbMeasStart_of_reach (hreach : reachesDie s agent d = true) :
    exec (.tbMeasStart agent d port) s = acked agent (modDclk s d (fun c =>
      { c with measPort := BitVec.ofNat 4 port, measDone := false, measTx := true, measRx := true })) := by
  simp only [exec, execTbMeasStart, dieReg_of_reach hreach, startMeas, modDclk_modDclk]

/-- With no later byte of the second copy and no commit the idle step finds the boot region settled. -/
theorem settleBoot_of_settled (hlater : s.hd.flash.bootLater = []) (hidle : s.hd.boot.calBusy = false) : settleBoot s = s := by
  have hboot : commitDone s = s.hd.boot := by simp only [commitDone, hidle, Bool.not_false, Bool.true_or, if_true]
  have hsecond : bootSecond s.hd.flash = s.hd.flash.boot1 := by simp only [bootSecond, hlater, List.foldl_nil]
  simp only [settleBoot, hboot, hsecond, ← hlater]

theorem slewTick_of_small {t : HdTime} (hlow : -100 < t.slew) (hhigh : t.slew < 100) : slewTick t = (1, t) := by
  simp only [slewTick, Int.not_le.mpr hlow, Int.not_le.mpr hhigh, if_false]

theorem idleTick_of_rails (hrails : s.hd.power.hostRails = true) (hlow : -100 < s.hd.time.slew) (hhigh : s.hd.time.slew < 100) :
    idleTick s = tickRing (tickRing { settleBoot s with
      hd := { (settleBoot s).hd with time := { (settleBoot s).hd.time with tb := ((settleBoot s).hd.time.tb + 1) % 2 ^ 64 } }
      cd0 := tickDie 1 (settleBoot s).cd0, cd1 := tickDie 1 (settleBoot s).cd1 } .cd0) .cd1 := by
  have hon : (settleBoot s).hd.power.hostRails = true := hrails
  have hslew : slewTick (settleBoot s).hd.time = (1, (settleBoot s).hd.time) := slewTick_of_small hlow hhigh
  simp only [idleTick, hon, hslew, if_true]

theorem idleTick_of_dark (hdark : s.hd.power.hostRails = false) :
    idleTick s = tickRing (tickRing { settleBoot s with
      cd0 := tickDie 1 (settleBoot s).cd0, cd1 := tickDie 1 (settleBoot s).cd1 } .cd0) .cd1 := by
  have hoff : (settleBoot s).hd.power.hostRails = false := hdark
  simp only [idleTick, hoff, Bool.false_eq_true, if_false]

end Time

/-- Settles O46: each clause is the branch of its command, and the idle step where no slew is due. -/
theorem timeKeeping : Obligations.TimeKeeping := by
  refine ⟨fun s d agent port e => ?commands, fun s hpending => ?idle⟩
  case commands =>
    intro t
    refine ⟨fun htimed hclose => execTimebaseFollow_of_close htimed hclose, fun hrails hmode => ?_,
      fun hrails hmode hlate => execTbHoldover_of_late hrails hmode hlate, fun hreach => execTbMeasStart_of_reach hreach⟩
    exact if_pos (Bool.and_eq_true_iff.mpr ⟨hrails, beq_iff_eq.mpr hmode⟩)
  case idle =>
    intro u rings
    refine ⟨?_, fun hlater hidle => settleBoot_of_settled hlater hidle, fun hrails hlow hhigh => idleTick_of_rails hrails hlow hhigh,
      fun hdark => idleTick_of_dark hdark⟩
    simp only [step, hpending]

/-! ### Stages of a boot -/

section Boot

variable {s : State}

theorem execModEnRise_in_range {role : Bool} {addr : Nat} (hlow : s.hd.power.modEn = false) (hrange : s.hd.power.pwr48 = .inRange)
    (htrip : s.hd.power.tripLatch = false) :
    exec (.modEnRise role addr) s = .next (startPower (modPower s (fun p => { p with
      modEn := true, rolePin := role, addrPin := BitVec.ofNat 2 addr, role := role, addr := BitVec.ofNat 2 addr, bootPending := true }))) := by
  simp only [exec, execModEnRise, hlow, hrange, htrip, Bool.not_false, Bool.false_eq_true, and_self, if_false, if_true, nx]

theorem execPwr48Threshold_starts (hout : s.hd.power.pwr48 ≠ .inRange) (hen : s.hd.power.modEn = true)
    (hrails : s.hd.power.hostRails = false) (hpending : s.hd.power.bootPending = true)
    (htrip : s.hd.power.tripLatch = false ∨ s.hd.power.pwr48 = .absent) :
    exec .pwr48Threshold s = .next (startPower (modPower s (fun p => { p with pwr48 := .inRange, tripLatch := false }))) := by
  have hstill : (s.hd.power.tripLatch && decide (s.hd.power.pwr48 ≠ .absent)) = false := by
    rcases htrip with h | h <;> simp [h]
  simp only [exec, execPwr48Threshold, hout, hen, hrails, hpending, hstill, Bool.not_false, Bool.true_or, Bool.and_self, if_false, if_true, nx]

theorem execFirmwareVerify_accepts {c0 c1 : BootRead} (hstage : s.hd.boot.stage = 2) (hdecided : xtalDecided s = true)
    (htakes : (romTakes (failPages s (c0.failed ++ c1.failed)) 0 c0 || romTakes (failPages s (c0.failed ++ c1.failed)) 1 c1) = true) :
    exec (.firmwareVerify c0 c1) s = .next (modBoot (failPages s (c0.failed ++ c1.failed)) (fun b => { b with
      stage := 3, copy := !romTakes (failPages s (c0.failed ++ c1.failed)) 0 c0
      degraded := b.degraded ||| BitVec.ofNat 16 (2 ^ 9 * b2n (!(c0.readable && c1.readable))
        + 2 ^ 8 * b2n (failPages s (c0.failed ++ c1.failed)).hd.clk.noXtal) })) := by
  have hneither : ¬ (!romTakes (failPages s (c0.failed ++ c1.failed)) 0 c0 && !romTakes (failPages s (c0.failed ++ c1.failed)) 1 c1) = true := by
    rw [← Bool.not_or, htakes]
    decide
  simp only [exec, execFirmwareVerify, hstage, hdecided, if_neg hneither, ne_eq, not_true_eq_false, Bool.not_true, Bool.false_eq_true,
    or_self, if_false, nx]

theorem execLinkTraining_of_stage {r : LinkTrain} (hstage : s.hd.boot.stage = 4) :
    exec (.linkTraining r) s = .next (
      let s1 := trainDie (trainDie s r .cd0) r .cd1
      let s2 := saveSeeds (if s1.hd.boot.brgWait then retrainBridge s1 r.segs else s1)
      modBoot s2 (fun b => { b with stage := 5, degraded := b.degraded ||| BitVec.ofNat 16 (trainDegraded s2 r.segs) })) := by
  simp only [exec, execLinkTraining, hstage, bne_self_eq_false, Bool.and_false, Bool.false_eq_true, if_false, if_true, nx]

end Boot

/-- Settles O47: each clause is the branch of a boot in the stage that its command belongs to. -/
theorem bootStages : Obligations.BootStages := by
  intro s p b
  refine ⟨?rise, ?power, ?verify, ?security, ?train, ?floor, ?host⟩
  case rise => exact fun role addr hlow hrange htrip => execModEnRise_in_range hlow hrange htrip
  case power => exact fun hout hen hrails hpending htrip => execPwr48Threshold_starts hout hen hrails hpending htrip
  case verify =>
    intro c0 c1 t hstage hdecided htakes
    exact execFirmwareVerify_accepts hstage hdecided htakes
  case security => exact fun r hstage => if_pos hstage
  case train =>
    intro r hstage s1 s2
    exact execLinkTraining_of_stage hstage
  case floor => exact fun r hstage => if_pos hstage
  case host =>
    intro hstage hoff s1
    exact if_pos ⟨hstage, by rw [hoff, Bool.not_false]⟩

/-! ### Turn-offs and resets -/

section Resets

variable {s : State} {agent : Nat}

theorem turnOff_of_rails (hrails : s.hd.power.hostRails = true) :
    turnOff s = modPower (powerOff s) (fun p => { p with restartDue := true }) := if_pos hrails

theorem execUndervoltage_of_rails (hrails : s.hd.power.hostRails = true) :
    exec .undervoltage s =
      .next (modPower (modPower (powerOff s) (fun p => { p with restartDue := true })) (fun p => { p with pwr48 := .low })) := by
  simp only [exec, execUndervoltage, turnOff_of_rails hrails, hrails, if_true, nx]

theorem execTurnOffRestart_of_due (hdue : s.hd.power.restartDue = true) (hrange : s.hd.power.pwr48 = .inRange)
    (hen : s.hd.power.modEn = true) (htrip : s.hd.power.tripLatch = false) : exec .turnOffRestart s = .next (startPower s) := by
  simp only [exec, execTurnOffRestart, hdue, hrange, hen, htrip, decide_true, Bool.not_false, Bool.and_self, if_true, nx]

theorem resetServed_of_stage (hstage : s.hd.boot.stage ≠ 0xF) : resetServed s = true := bne_iff_ne.mpr hstage

theorem requestDieReset_of_free {d : DieId} (hrails : s.hd.power.computeRails = true) (hstage : (getDie s d).clk.stage = 0)
    (hhost : holdsHost (getDie s d) = false) : requestDieReset s d = beginDieReset s d := by
  simp only [requestDieReset, hrails, hstage, hhost, bne_self_eq_false, Bool.not_true, Bool.or_self, Bool.false_eq_true, if_false]

end Resets

/-- Settles O48: a turn-off of a powered module, the restart that is due, and the resets of an agent with management rights. -/
theorem turnOffsAndResets : Obligations.TurnOffsAndResets := by
  intro s agent part d p off
  refine ⟨fun hen => if_pos hen, fun hrails => ⟨execUndervoltage_of_rails hrails, ?overvolt, congrArg nx (turnOff_of_rails hrails)⟩,
    fun hdue hrange hen htrip => execTurnOffRestart_of_due hdue hrange hen htrip, fun hreach hmgmt => ⟨?part, ?die, ?warm⟩⟩
  case overvolt => exact congrArg (fun t => nx (modPower t (fun p => { p with pwr48 := .high }))) (turnOff_of_rails hrails)
  case part =>
    intro hpart
    exact (hostReg_of_reach hreach).trans (congrArg _ (if_pos (Bool.and_eq_true_iff.mpr ⟨hmgmt, decide_eq_true hpart⟩)))
  case die =>
    intro hstage hrails hdie hhost
    have hserved : (mgmtAgent agent && resetServed s) = true := by rw [hmgmt, resetServed_of_stage hstage, Bool.and_self]
    exact (hostReg_of_reach hreach).trans (congrArg _ ((if_pos hserved).trans (requestDieReset_of_free hrails hdie hhost)))
  case warm =>
    intro hstage
    have hserved : (mgmtAgent agent && resetServed s) = true := by rw [hmgmt, resetServed_of_stage hstage, Bool.and_self]
    exact (hostReg_of_reach hreach).trans (congrArg _ (if_pos hserved))

/-! ### Trace units and logs -/

section Trace

variable {s : State} {d : DieId} {agent : Nat}

theorem execTapRecord_of_source {r : TapRec} {data : Nat} (hdata : tapData s d r = some data) (hruns : (getDie s d).clk.running = true)
    (hemits : tapEmits s d r = true) (htrigger : trigMatch (getTrace s d) r.kind r.cls (recPlace r).1 = false)
    (hroom : r.lost = false ∨ (getTrace s d).st = 0) :
    exec (.tapRecord d r) s =
      .next (traceRec s d r.kind r.cls (recPlace r).1 (recPlace r).2 ((recSource s d r).1.getD 0) data) := by
  have hkept : (r.lost && (getTrace s d).st != 0) = false := by
    rcases hroom with h | h
    · rw [h, Bool.false_and]
    · rw [h, bne_self_eq_false, Bool.and_false]
  simp only [exec, execTapRecord, hdata, hruns, hemits, htrigger, hkept, Bool.not_true, Bool.or_self, Bool.false_eq_true, if_false, nx]

theorem execTraceTrigger_of_due {cause : Nat} (hruns : (getDie s d).clk.running = true) (hready : trigReady (getTrace s d) = true)
    (hcause : cause ≠ 0) (hdue : cause = causesDue s d) : exec (.traceTrigger d cause) s = .next (takeTrigger s d cause) := by
  have hsome : (cause != 0) = true := bne_iff_ne.mpr hcause
  have hsame : (cause == causesDue s d) = true := beq_iff_eq.mpr hdue
  simp only [exec, execTraceTrigger, hruns, hready, hsome, hsame, Bool.and_self, if_true, nx]

/-- A write of TRC_CTL with EN and without TRIG starts a unit that is off. -/
theorem execTraceEnable_starts {v : W64} (hreach : reachesDie s agent d = true) (hoff : (getTrace s d).en = false)
    (hen : bit v.toNat 0 = true) (htrig : bit v.toNat 3 = false) :
    exec (.traceEnable agent d v) s = acked agent (traceStart (modTrace s d (fun t => { t with
      mode := BitVec.ofNat 2 (fld v.toNat 2 1), part := BitVec.ofNat 4 (fld v.toNat 7 4), groups := BitVec.ofNat 16 (fld v.toNat 31 16)
      kinds := BitVec.ofNat 16 (fld v.toNat 47 32) })) d) := by
  have hone : RegW.one { mask := 2 ^ 64 - 1, val := v.toNat } 3 = false := by
    simp only [RegW.one, Nat.and_two_pow_sub_one_eq_mod, Nat.mod_eq_of_lt v.isLt, htrig]
  simp only [exec, execTraceEnable, dieReg_of_reach hreach, writeTrcCtl, over_full, hoff, hen, hone, Bool.not_false, Bool.and_self,
    Bool.false_eq_true, if_true, if_false]

theorem execRdSeqWrite_die {v : W32} (hreach : reachesDie s agent d = true) :
    exec (.rdSeqWrite agent (some d) v) s = acked agent (writeRdSeq s (some d) v) := by
  simp only [exec, execRdSeqWrite, answer, hreach, if_true, acked]

theorem execRdSeqWrite_host {v : W32} (hreach : reachesHost s agent = true) :
    exec (.rdSeqWrite agent none v) s = acked agent (writeRdSeq s none v) := by
  simp only [exec, execRdSeqWrite, answer, hreach, if_true, acked]

/-- A word whose opcode is not assigned raises ILLEGAL_OP. -/
theorem execReservedOpcodeIssue_unassigned {l : StreamLoc} {w : Nat} (hissue : canIssue s l = true)
    (hgrant : (isExec l.stream || (getCell s (cellOf l)).c.grant.isNone) = true)
    (hword : wordAt s l (getStream s l).pc.toNat = some w) (hreserved : opcodeAssigned (opcode w) = false) :
    exec (.reservedOpcodeIssue l) s = .next (raiseIssue s l xIllegalOp) := by
  have hfree : (!isExec l.stream && (getCell s (cellOf l)).c.grant.isSome) = false := by
    rw [← Option.not_isNone, ← Bool.not_or, hgrant, Bool.not_true]
  simp only [exec, execReservedOpcodeIssue, issue, hissue, hfree, hword, hreserved, Bool.not_true, Bool.not_false, Bool.true_or,
    Bool.false_eq_true, if_false, if_true, nx]

end Trace

/-- Settles O50: each clause is the branch of a record, a cause, a write or a word that its command takes. -/
theorem traceAndLogs : Obligations.TraceAndLogs := by
  intro s d agent t
  refine ⟨?record, ?trigger, ?mark, ?start, fun v => ⟨execRdSeqWrite_die, execRdSeqWrite_host⟩, ?word⟩
  case record =>
    intro r data p hdata hruns hemits htrigger hroom
    exact execTapRecord_of_source hdata hruns hemits htrigger hroom
  case trigger => exact fun cause hruns hready hcause hdue => execTraceTrigger_of_due hruns hready hcause hdue
  case mark => exact fun v hreach => dieReg_of_reach hreach
  case start => exact fun v hreach hoff hen htrig => execTraceEnable_starts hreach hoff hen htrig
  case word => exact fun l w hissue hgrant hword hreserved => execReservedOpcodeIssue_unassigned hissue hgrant hword hreserved

/-! ### The reset state -/

theorem getStream_reset {l : StreamLoc} : getStream State.reset l = {} := by
  obtain ⟨d, site, stream⟩ := l
  have hcell : getCell State.reset { die := d, site := site } = {} := by cases d <;> rfl
  simp only [getStream, cellOf, hcell, streamOf]
  split <;> rfl

/-- Settles O51: the reset state is the record of every field's default, whose tables list nothing. -/
theorem resetState : Obligations.ResetState := by
  unfold Obligations.ResetState
  refine ⟨rfl, rfl, fun _ => rfl, rfl, rfl, rfl, rfl, rfl, fun d => ?_, fun l => ?_⟩
  · cases d <;> exact ⟨rfl, fun _ => rfl⟩
  · rw [getStream_reset]
    exact ⟨rfl, fun r => ite_self _⟩

end Sys2Proof.Machine
end

section
/-! The relation that every operation of the machine keeps: the queue of waiting commands stays, and a canonical state stays canonical. -/

namespace Sys2Proof.Machine

/-- The queue of waiting commands is that of `s`, and the canonical form is kept. -/
structure Keeps (s t : State) : Prop where
  pending : t.pending = s.pending
  canonical : canonical s = true → canonical t = true

/-- The canonical form, part by part. -/
theorem canonical_iff {s : State} :
    canonical s = true ↔ Memory.wf s.hbm = true ∧ tabWf {} s.cd0.cells = true ∧ tabWf {} s.cd1.cells = true := by
  simp [canonical, and_assoc]

theorem Keeps.rfl {s : State} : Keeps s s := ⟨Eq.refl _, id⟩

variable {s u v : State}

theorem Keeps.trans (h : Keeps s u) (hv : Keeps u v) : Keeps s v :=
  ⟨hv.pending.trans h.pending, fun hc => hv.canonical (h.canonical hc)⟩

/-! ### The parts of the state that the relation speaks of -/

/-- The table of cells of a die stays in its canonical form. -/
def DieKeeps (x y : Die) : Prop := tabWf {} x.cells = true → tabWf {} y.cells = true

theorem DieKeeps.rfl {x : Die} : DieKeeps x x := id

theorem DieKeeps.of_cells {x y : Die} (h : y.cells = x.cells) : DieKeeps x y := fun hx => h ▸ hx

theorem DieKeeps.trans {x y z : Die} (h : DieKeeps x y) (hz : DieKeeps y z) : DieKeeps x z := hz ∘ h

/-- The queue stays, and the form of each part. -/
theorem Keeps.of_parts (h : Keeps s u) (hp : v.pending = u.pending) (hm : Memory.wf u.hbm = true → Memory.wf v.hbm = true)
    (hx : DieKeeps u.cd0 v.cd0) (hy : DieKeeps u.cd1 v.cd1) : Keeps s v := by
  refine h.trans ⟨hp, fun hc => ?_⟩
  obtain ⟨hw, h0, h1⟩ := canonical_iff.mp hc
  exact canonical_iff.mpr ⟨hm hw, hx h0, hy h1⟩

theorem update_keeps {hd : HostDie} {held : List (Option DieId × HostAsk)} {bad : List Nat} {out : List Out}
    {imsic : List (Nat × Nat)} {fresh : Nat} (h : Keeps s u) :
    Keeps s { u with hd := hd, held := held, hbmBad := bad, out := out, imsic := imsic, fresh := fresh } := h.of_parts rfl id .rfl .rfl

/-- Memory may change where its form stays. -/
theorem Keeps.of_hbm {m : List Host.Cell} (h : Keeps s u) (hm : Memory.wf u.hbm = true → Memory.wf m = true) :
    Keeps s { u with hbm := m } := h.of_parts (Eq.refl _) hm .rfl .rfl

/-- Both dies may change where the form of their tables stays. -/
theorem Keeps.of_dies {x y : Die} (h : Keeps s u) (hx : DieKeeps u.cd0 x) (hy : DieKeeps u.cd1 y) :
    Keeps s { u with cd0 := x, cd1 := y } := h.of_parts (Eq.refl _) id hx hy

theorem update_dieKeeps {x : Die} {a : DieFuse} {b : DieClk} {c : DieObs} {e : BitVec 10} {f : Bool} {g : Tab Region} {i : Nat}
    {j : Tab Ucie} {k : Tab Seg} {l : ChainRegs} {m : Tab Peer} {n : Tab Queue} {o : Tab BillSlot} {p : List Load} {q : Tab PartDie}
    {r : Tab Epoch} {t : Tab Nat} {v : Tab Gate} {w : Tab Mc} {x1 x2 x3 : List Nat} {x4 : Tab Link} {x5 : Tab Station} {x6 : Tab Route}
    {x7 : Tab Nat} {x8 : Elog} {x9 : Tab (BitVec 17)} :
    DieKeeps x { x with
      fuse := a, clk := b, obs := c, ilvEn := e, ilvValid := f, rgns := g, scrubMap := i, ucie := j, segs := k, chain := l, peers := m
      queues := n, slots := o, loads := p, parts := q, epochs := r, tdt := t, gates := v, mcs := w, cacheLines := x1, cacheDirty := x2
      cacheLost := x3, links := x4, stations := x5, routes := x6, ringLast := x7, elog := x8, dmBcast := x9 } := id

theorem ite_dieKeeps {x y z : Die} {p : Prop} [Decidable p] (hy : DieKeeps x y) (hz : DieKeeps x z) :
    DieKeeps x (if p then y else z) := by
  split
  · exact hy
  · exact hz

theorem foldl_dieKeeps {α : Type} {x y : Die} {f : Die → α → Die} {l : List α} (hf : ∀ z i, DieKeeps x z → DieKeeps x (f z i))
    (h : DieKeeps x y) : DieKeeps x (l.foldl f y) := by
  induction l generalizing y with
  | nil => exact h
  | cons i l ih => exact ih (hf y i h)

/-- A die may change where the form of its table of cells stays. -/
theorem modDie_keeps {d : DieId} {f : Die → Die} (h : Keeps s u) (hf : DieKeeps (getDie u d) (f (getDie u d))) :
    Keeps s (modDie u d f) := by
  cases d
  · exact h.of_dies hf .rfl
  · exact h.of_dies .rfl hf

/-! ### Cases, folds and outcomes -/

theorem ite_keeps {p : Prop} [Decidable p] (hu : Keeps s u) (hv : Keeps s v) : Keeps s (if p then u else v) := by
  split
  · exact hu
  · exact hv

theorem foldl_keeps {α : Type} {f : State → α → State} {l : List α} (hf : ∀ w x, Keeps s w → Keeps s (f w x)) (h : Keeps s u) :
    Keeps s (l.foldl f u) := by
  induction l generalizing u with
  | nil => exact h
  | cons x l ih => exact ih (hf u x h)

/-- A command answers a next state that keeps the relation. -/
def Runs (s : State) (r : Res) : Prop := ∃ t, r = .next t ∧ Keeps s t

theorem next_runs (h : Keeps s u) : Runs s (.next u) := ⟨u, Eq.refl _, h⟩

theorem nx_runs (h : Keeps s u) : Runs s (nx u) := next_runs h

theorem ite_runs {p : Prop} [Decidable p] {q r : Res} (hq : Runs s q) (hr : Runs s r) : Runs s (if p then q else r) := by
  split
  · exact hq
  · exact hr

/-- The state that an issue leaves, where it leaves one, keeps the relation. -/
def IssueKeeps (s : State) : Issue → Prop
  | .done t | .jump t _ | .loop t _ _ | .stay t => Keeps s t
  | .hold _ | .raise _ => True

theorem done_keeps (h : Keeps s u) : IssueKeeps s (.done u) := h
theorem jump_keeps {n : Nat} (h : Keeps s u) : IssueKeeps s (.jump u n) := h
theorem loop_keeps {ls : List LoopLevel} {n : Nat} (h : Keeps s u) : IssueKeeps s (.loop u ls n) := h
theorem stay_keeps (h : Keeps s u) : IssueKeeps s (.stay u) := h
theorem hold_keeps {w : Wait} : IssueKeeps s (.hold w) := trivial
theorem raise_keeps {n : Nat} : IssueKeeps s (.raise n) := trivial

theorem ite_issueKeeps {p : Prop} [Decidable p] {q r : Issue} (hq : IssueKeeps s q) (hr : IssueKeeps s r) :
    IssueKeeps s (if p then q else r) := by
  split
  · exact hq
  · exact hr

/-- The state that an access leaves, where it succeeds, keeps the relation. -/
def MemKeeps (s : State) : MemR State → Prop
  | .ok t => Keeps s t
  | .fault _ | .ask _ => True

theorem MemKeeps.ok {t : State} {r : MemR State} (h : MemKeeps s r) (ht : r = .ok t) : Keeps s t := by
  subst ht
  exact h

theorem ok_keeps (h : Keeps s u) : MemKeeps s (.ok u) := h
theorem fault_keeps {k : Nat} : MemKeeps s (.fault k) := trivial
theorem ask_keeps {q : List (Nat × Nat × Nat × Option (List Byte))} : MemKeeps s (.ask q) := trivial

theorem ite_memKeeps {p : Prop} [Decidable p] {q r : MemR State} (hq : MemKeeps s q) (hr : MemKeeps s r) :
    MemKeeps s (if p then q else r) := by
  split
  · exact hq
  · exact hr

/-- The state that there may be keeps the relation. -/
def OptKeeps (s : State) : Option State → Prop
  | some t => Keeps s t
  | none => True

theorem OptKeeps.some {t : State} {o : Option State} (h : OptKeeps s o) (ht : o = some t) : Keeps s t := by
  subst ht
  exact h

theorem some_keeps (h : Keeps s u) : OptKeeps s (some u) := h
theorem none_keeps : OptKeeps s none := trivial

theorem ite_optKeeps {p : Prop} [Decidable p] {q r : Option State} (hq : OptKeeps s q) (hr : OptKeeps s r) :
    OptKeeps s (if p then q else r) := by
  split
  · exact hq
  · exact hr

theorem Keeps.fst {α : Type} {p : State × α} {t : State} {a : α} (h : Keeps s p.1) (hp : p = (t, a)) : Keeps s t := by
  subst hp
  exact h

theorem Keeps.snd {α : Type} {p : α × State} {t : State} {a : α} (h : Keeps s p.2) (hp : p = (a, t)) : Keeps s t := by
  subst hp
  exact h

theorem fst_keeps {α : Type} {a : α} (h : Keeps s u) : Keeps s (u, a).1 := h
theorem snd_keeps {α : Type} {a : α} (h : Keeps s u) : Keeps s (a, u).2 := h

theorem ite_fst_keeps {α : Type} {c : Prop} [Decidable c] {p q : State × α} (hp : Keeps s p.1) (hq : Keeps s q.1) :
    Keeps s (if c then p else q).1 := by
  split
  · exact hp
  · exact hq

theorem ite_snd_keeps {α : Type} {c : Prop} [Decidable c] {p q : α × State} (hp : Keeps s p.2) (hq : Keeps s q.2) :
    Keeps s (if c then p else q).2 := by
  split
  · exact hp
  · exact hq

/-! ### Cells and the tables of a die -/

theorem setCell_keeps {c : CellLoc} {x : CellAll} (h : Keeps s u) : Keeps s (setCell u c x) :=
  modDie_keeps h fun hw => tabWf_tabSet {} c.site x _ hw

theorem storeHbm_keeps {hpa : Nat} {bs : List Byte} (h : Keeps s u) : Keeps s (storeHbm u hpa bs) := by
  unfold storeHbm
  refine modDie_keeps (update_keeps (h.of_hbm (memWrite_wf u.hbm hpa bs))) (DieKeeps.of_cells ?_)
  generalize getDie _ _ = x, lines256 hpa bs.length = ls
  show (ls.foldl (cacheUse true) x).cells = x.cells
  induction ls generalizing x with
  | nil => rfl
  | cons l ls ih => exact ih (cacheUse true x l)

theorem writePhys_keeps {d : DieId} {hpa : Nat} {bs : List Byte} {t : State} (h : Keeps s u) (ht : writePhys u d hpa bs = .ok t) :
    Keeps s t := writePhys_ok ht ▸ storeHbm_keeps h

end Sys2Proof.Machine
end

section
/-! The operations of a cell and of memory keep the relation. -/

namespace Sys2Proof.Machine

variable {s u v : State}

/-! ### State operations -/

theorem modCell_keeps {c : CellLoc} {f : CellAll → CellAll} (h : Keeps s u) : Keeps s (modCell u c f) := setCell_keeps h

theorem modC_keeps {c : CellLoc} {f : Cell → Cell} (h : Keeps s u) : Keeps s (modC u c f) := modCell_keeps h

theorem modM_keeps {c : CellLoc} {f : CellMem → CellMem} (h : Keeps s u) : Keeps s (modM u c f) := modCell_keeps h

theorem modStream_keeps {l : StreamLoc} {f : Stream → Stream} (h : Keeps s u) : Keeps s (modStream u l f) := modC_keeps h

theorem setQueue_dieKeeps {b : Die} {d : Die} {q : Nat} {x : Queue} (hd : DieKeeps b d) : DieKeeps b (setQueue d q x) := hd

theorem setSlot_dieKeeps {b : Die} {d : Die} {i : Nat} {x : BillSlot} (hd : DieKeeps b d) : DieKeeps b (setSlot d i x) := hd

theorem setPart_dieKeeps {b : Die} {d : Die} {p : Nat} {x : PartDie} (hd : DieKeeps b d) : DieKeeps b (setPart d p x) := hd

theorem setEpoch_dieKeeps {b : Die} {d : Die} {g : Nat} {x : Epoch} (hd : DieKeeps b d) : DieKeeps b (setEpoch d g x) := hd

theorem setGate_dieKeeps {b : Die} {d : Die} {g : Nat} {x : Gate} (hd : DieKeeps b d) : DieKeeps b (setGate d g x) := hd

theorem setMc_dieKeeps {b : Die} {d : Die} {i : Nat} {x : Mc} (hd : DieKeeps b d) : DieKeeps b (setMc d i x) := hd

theorem setLink_dieKeeps {b : Die} {d : Die} {i : Nat} {x : Link} (hd : DieKeeps b d) : DieKeeps b (setLink d i x) := hd

theorem setPeer_dieKeeps {b : Die} {d : Die} {i : Nat} {x : Peer} (hd : DieKeeps b d) : DieKeeps b (setPeer d i x) := hd

theorem setSeg_dieKeeps {b : Die} {d : Die} {i : Nat} {x : Seg} (hd : DieKeeps b d) : DieKeeps b (setSeg d i x) := hd

theorem setRgn_dieKeeps {b : Die} {d : Die} {i : Nat} {x : Region} (hd : DieKeeps b d) : DieKeeps b (setRgn d i x) := hd

theorem setStation_dieKeeps {b : Die} {d : Die} {slot station ctx : Nat} {x : Station} (hd : DieKeeps b d) : DieKeeps b
    (setStation d slot station ctx x) :=
  hd

theorem setRoute_dieKeeps {b : Die} {d : Die} {slot route : Nat} {x : Route} (hd : DieKeeps b d) : DieKeeps b (setRoute d slot route x) :=
  hd

theorem setSet_dieKeeps {b : Die} {d : Die} {i : Nat} {x : CntSet} (hd : DieKeeps b d) : DieKeeps b (setSet d i x) := hd

theorem modQueue_keeps {d : DieId} {q : Nat} {f : Queue → Queue} (h : Keeps s u) : Keeps s (modQueue u d q f) :=
  modDie_keeps h (setQueue_dieKeeps update_dieKeeps)

theorem modSlot_keeps {d : DieId} {i : Nat} {f : BillSlot → BillSlot} (h : Keeps s u) : Keeps s (modSlot u d i f) :=
  modDie_keeps h (setSlot_dieKeeps update_dieKeeps)

theorem modPart_keeps {d : DieId} {p : Nat} {f : PartDie → PartDie} (h : Keeps s u) : Keeps s (modPart u d p f) :=
  modDie_keeps h (setPart_dieKeeps update_dieKeeps)

theorem modEpoch_keeps {d : DieId} {g : Nat} {f : Epoch → Epoch} (h : Keeps s u) : Keeps s (modEpoch u d g f) :=
  modDie_keeps h (setEpoch_dieKeeps update_dieKeeps)

theorem modGate_keeps {d : DieId} {g : Nat} {f : Gate → Gate} (h : Keeps s u) : Keeps s (modGate u d g f) :=
  modDie_keeps h (setGate_dieKeeps update_dieKeeps)

theorem modMc_keeps {d : DieId} {i : Nat} {f : Mc → Mc} (h : Keeps s u) : Keeps s (modMc u d i f) :=
  modDie_keeps h (setMc_dieKeeps update_dieKeeps)

theorem modLink_keeps {d : DieId} {i : Nat} {f : Link → Link} (h : Keeps s u) : Keeps s (modLink u d i f) :=
  modDie_keeps h (setLink_dieKeeps update_dieKeeps)

theorem modPeer_keeps {d : DieId} {i : Nat} {f : Peer → Peer} (h : Keeps s u) : Keeps s (modPeer u d i f) :=
  modDie_keeps h (setPeer_dieKeeps update_dieKeeps)

theorem modSeg_keeps {d : DieId} {i : Nat} {f : Seg → Seg} (h : Keeps s u) : Keeps s (modSeg u d i f) :=
  modDie_keeps h (setSeg_dieKeeps update_dieKeeps)

theorem modStation_keeps {d : DieId} {slot st ctx : Nat} {f : Station → Station} (h : Keeps s u) : Keeps s (modStation u d slot st ctx f) :=
  modDie_keeps h (setStation_dieKeeps update_dieKeeps)

theorem modRoute_keeps {d : DieId} {slot r : Nat} {f : Route → Route} (h : Keeps s u) : Keeps s (modRoute u d slot r f) :=
  modDie_keeps h (setRoute_dieKeeps update_dieKeeps)

theorem sectorsAnswered_dieKeeps {b x : Die} (hx : DieKeeps b x) : DieKeeps b (sectorsAnswered x) :=
  hx.trans update_dieKeeps

theorem modSec_keeps {p : Nat} {f : PartSec → PartSec} (h : Keeps s u) : Keeps s (modSec u p f) := update_keeps h

theorem emit_keeps {o : Out} (h : Keeps s u) : Keeps s (emit u o) := update_keeps h

theorem sendIrq_keeps {addr eiid : Nat} (h : Keeps s u) : Keeps s (sendIrq u addr eiid) := by
  unfold sendIrq
  dsimp only
  split
  · exact emit_keeps h
  · exact update_keeps (emit_keeps h)

theorem setLog_keeps {w : Option DieId} {e : Elog} (h : Keeps s u) : Keeps s (setLog u w e) := by
  unfold setLog
  split
  · exact modDie_keeps h update_dieKeeps
  · exact update_keeps h

theorem logErr_keeps {w : Option DieId} {r : ErrRec} (h : Keeps s u) : Keeps s (logErr u w r) :=
  ite_keeps (sendIrq_keeps (setLog_keeps h)) (setLog_keeps h)

theorem countSram_keeps {w : Option DieId} {uncorr : Bool} (h : Keeps s u) : Keeps s (countSram u w uncorr) := setLog_keeps h

theorem drawFree_keeps {w : Nat} (h : Keeps s u) : Keeps s (drawFree u w).2 := update_keeps h

theorem askGrant_keeps {d : DieId} {group : Nat} {rs : List GrantReq} (h : Keeps s u) : Keeps s (askGrant u d group rs) := modGate_keeps h

theorem askTransfer_keeps {d : DieId} {group : Nat} {w : Want} (h : Keeps s u) : Keeps s (askTransfer u d group w) := modGate_keeps h

theorem cellWants_keeps {c : CellLoc} {op : Nat} (h : Keeps s u) : Keeps s (cellWants u c op) := askTransfer_keeps h

theorem sendOverflow_keeps {d : DieId} {k i : Nat} (h : Keeps s u) : Keeps s (sendOverflow u d k i) := ite_keeps (emit_keeps h) h

theorem bump_keeps {d : DieId} {k i n : Nat} (h : Keeps s u) : Keeps s (bump u d k i n) :=
  ite_keeps h (modDie_keeps (ite_keeps (sendOverflow_keeps h) h) (setSet_dieKeeps update_dieKeeps))

theorem countClosed_keeps {d : DieId} {place n : Nat} (h : Keeps s u) : Keeps s (countClosed u d place n) := bump_keeps h

/-! ### Accesses -/

theorem answer_runs {ok : Bool} {a : Nat} (h : Keeps s u) (hv : Keeps s v) : Runs s (answer ok a u v) :=
  next_runs (ite_keeps (emit_keeps hv) (emit_keeps h))

theorem holdAccess_keeps {c : CellLoc} {a : CellAccess} (h : Keeps s u) : Keeps s (holdAccess u c a) := modM_keeps h

theorem cellReg_runs {a : Nat} {c : CellLoc} {off v' : Nat} (h : Keeps s u) (hv : Keeps s v) : Runs s (cellReg u a c off v' v) :=
  ite_runs (next_runs (holdAccess_keeps h)) (answer_runs h hv)

theorem streamWrite_runs {a : Nat} {l : StreamLoc} {i v' : Nat} (h : Keeps s u) (hv : Keeps s v) : Runs s (streamWrite u a l i v' v) :=
  ite_runs (cellReg_runs h hv) (next_runs (emit_keeps h))

theorem dieReg_runs {a : Nat} {d : DieId} (h : Keeps s u) (hv : Keeps s v) : Runs s (dieReg u a d v) := answer_runs h hv

theorem flashReg_runs {a : Nat} (h : Keeps s u) (hv : Keeps s v) : Runs s (flashReg u a v) := answer_runs h hv

theorem hostReg_runs {a : Nat} (h : Keeps s u) (hv : Keeps s v) : Runs s (hostReg u a v) := answer_runs h hv

/-! ### Memory -/

theorem cacheUse_dieKeeps {b : Die} {dirty : Bool} {d : Die} {l : Nat} (hd : DieKeeps b d) : DieKeeps b (cacheUse dirty d l) := hd

theorem touchLines_keeps {hpa n : Nat} (h : Keeps s u) : Keeps s (touchLines u hpa n) :=
  modDie_keeps h (foldl_dieKeeps (@cacheUse_dieKeeps (getDie u (hpaDie hpa)) false) update_dieKeeps)

theorem writePieces_keeps {d : DieId} : ∀ {pl : List (Place2 × Nat)} {u : State} {bs : List Byte},
    Keeps s u → MemKeeps s (writePieces d u pl bs)
  | [], _, _, h => h
  | (.here hpa, n) :: pl, u, bs, h => by
    unfold writePieces
    split
    · exact fault_keeps
    next t ht => exact writePieces_keeps (writePhys_keeps h ht)
  | (.peer idx hpa, n) :: pl, u, bs, h => by
    unfold writePieces
    split
    · exact fault_keeps
    · split
      · exact writePieces_keeps h
      · exact fault_keeps
      · exact ask_keeps

theorem writeVA_keeps {d : DieId} {caches : List Tlb} {part va : Nat} {bs : List Byte} (h : Keeps s u) : MemKeeps s
    (writeVA u d caches part va bs) := by
  unfold writeVA
  split
  · exact fault_keeps
  · exact writePieces_keeps h

theorem gateBytes_keeps {d : DieId} {group part va n : Nat} (h : Keeps s u) : Keeps s (gateBytes u d group part va n) := by
  unfold gateBytes
  dsimp only
  split
  · exact h
  · refine foldl_keeps ?_ h
    intro w x hw
    split
    · exact bump_keeps hw
    · exact bump_keeps hw
    · exact hw

theorem gateRanges_keeps {d : DieId} {group part : Nat} {rs : List (Nat × Nat)} (h : Keeps s u) : Keeps s (gateRanges u d group part rs) :=
    by
  unfold gateRanges
  refine foldl_keeps ?_ h
  intro w x hw
  exact gateBytes_keeps hw

theorem putFrame_keeps {d : DieId} {port cv : Nat} {f : Frame} (h : Keeps s u) : Keeps s (putFrame u d port cv f) :=
  emit_keeps (bump_keeps (bump_keeps h))

theorem sendPlain_keeps {d : DieId} {idx type : Nat} {payload : List Byte} (h : Keeps s u) : Keeps s (sendPlain u d idx type payload) :=
  putFrame_keeps (modPeer_keeps h)

theorem sendSeq_keeps {d : DieId} {idx part type chan hflags ihdr : Nat} {payload : List Byte} {rt : Nat} {lines : optParam Nat 0}
    {last : optParam Bool false} (h : Keeps s u) : Keeps s (sendSeq u d idx part type chan hflags ihdr payload rt lines last) :=
  putFrame_keeps (modPeer_keeps h)

theorem askPeers_keeps {d : DieId} {part : Nat} {q : List (Nat × Nat × Nat × Option (List Byte))}
    (h : Keeps s u) : Keeps s (askPeers u d part q) := by
  induction q generalizing u with
  | nil => exact h
  | cons a q ih =>
    unfold askPeers
    dsimp only
    exact ih (ite_keeps h (sendSeq_keeps (modPeer_keeps h)))

theorem dropWritten_keeps {d : DieId} {pl : List (Place2 × Nat)} (h : Keeps s u) : Keeps s (dropWritten u d pl) := by
  unfold dropWritten
  refine foldl_keeps ?_ h
  intro w x hw
  split
  · exact modPeer_keeps hw
  · exact hw

theorem dropAnswers_keeps {d : DieId} (h : Keeps s u) : Keeps s (dropAnswers u d) := modDie_keeps h update_dieKeeps

theorem recUncorr_keeps {d : DieId} {part : Option Nat} {hpa unitKind unitSub unitIndex pc pos cmd : Nat} (h : Keeps s u) : Keeps s
    (recUncorr u d part hpa unitKind unitSub unitIndex pc pos cmd) :=
  logErr_keeps (modMc_keeps h)

theorem holdAt_keeps {ds : List DieId} {c : HostAsk} (h : Keeps s u) (hv : Keeps s v) : Keeps s (holdAt u ds c v) := by
  unfold holdAt
  split
  · exact update_keeps h
  · exact hv

theorem eccUnit_keeps {u' : Nat} {r : EccResult} (h : Keeps s u) : Keeps s (eccUnit u u' r) := by
  unfold eccUnit
  dsimp only
  split
  · exact h
  · exact modMc_keeps h
  · exact update_keeps h

theorem elim_keeps {α : Type} {o : Option α} {f : α → State} (h : Keeps s u) (hf : ∀ x, Keeps s (f x)) :
    Keeps s (o.elim u f) := by
  cases o with
  | none => exact h
  | some x => exact hf x

theorem eccUnits_keeps {us : List Nat} {ecc : List (Nat × EccResult)} (h : Keeps s u) :
    Keeps s (eccUnits u us ecc) :=
  foldl_keeps (fun _ _ hw => elim_keeps hw fun _ => eccUnit_keeps hw) h

theorem touchUnits_keeps {us : List Nat} (h : Keeps s u) : Keeps s (touchUnits u us) := by
  unfold touchUnits
  refine foldl_keeps ?_ h
  intro w x hw
  exact touchLines_keeps hw

/-! ### Descriptors -/

theorem setTdt_keeps {d : DieId} {i v' : Nat} (h : Keeps s u) : Keeps s (setTdt u d i v') := modDie_keeps h update_dieKeeps

theorem writeRow_keeps {d : DieId} {caches : List Tlb} {part e base coord r cols bits scales : Nat} (h : Keeps s u) : MemKeeps s
    (writeRow u d caches part e base coord r cols bits scales) := by
  unfold writeRow
  dsimp only
  split
  · exact fault_keeps
  · split
    · exact fault_keeps
    · split
      · exact fault_keeps
      · exact ask_keeps
      · split
        · exact fault_keeps
        · exact ask_keeps
        next t he =>
          have ht : Keeps s t := MemKeeps.ok (ite_memKeeps (ok_keeps h) (writeVA_keeps h)) he
          exact ite_memKeeps (ok_keeps ht) (writeVA_keeps ht)

theorem writeTileFrom_keeps {d : DieId} {caches : List Tlb} {part e base coord : Nat} {bs : List Byte}
    {n r : Nat} (h : Keeps s u) : MemKeeps s (writeTileFrom d caches part e base coord bs n r u) := by
  induction n generalizing r u with
  | zero => exact h
  | succ n ih =>
    unfold writeTileFrom
    dsimp only
    split
    next t ht => exact ih ((writeRow_keeps h).ok ht)
    · exact writeRow_keeps h

theorem writeTile_keeps {d : DieId} {caches : List Tlb} {part e base coord : Nat} {bs : List Byte} (h : Keeps s u) : MemKeeps s
    (writeTile u d caches part e base coord bs) :=
  writeTileFrom_keeps h

theorem stepNonfinite_keeps {d : DieId} {part site ctx : Nat} (h : Keeps s u) : Keeps s (stepNonfinite u d part site ctx) := modPart_keeps h

/-! ### Flags -/

theorem streamNonfinite_keeps {l : StreamLoc} (h : Keeps s u) : Keeps s (streamNonfinite u l) := by
  unfold streamNonfinite
  dsimp only
  split
  · exact stepNonfinite_keeps (modC_keeps (modStream_keeps h))
  · exact modC_keeps (modStream_keeps h)

theorem flagSlot_keeps {l : StreamLoc} {t : Nat} {f : Flg} (h : Keeps s u) : Keeps s (flagSlot u l t f) :=
  ite_keeps (streamNonfinite_keeps (modC_keeps h)) (modC_keeps h)

theorem flagAcc_keeps {l : StreamLoc} {pt : Nat} {f : Flg} (h : Keeps s u) : Keeps s (flagAcc u l pt f) :=
  ite_keeps (streamNonfinite_keeps (modC_keeps h)) (modC_keeps h)

/-! ### Issue -/

theorem streamEvent_keeps {l : StreamLoc} {k : Nat} (h : Keeps s u) : Keeps s (streamEvent u l k) := by
  unfold streamEvent
  split
  · exact h
  · exact ite_keeps (sendIrq_keeps (modPart_keeps h)) (modPart_keeps h)

theorem raiseIssue_keeps {l : StreamLoc} {code : Nat} (h : Keeps s u) : Keeps s (raiseIssue u l code) :=
  streamEvent_keeps (modStream_keeps h)

theorem raiseBehind_keeps {l : StreamLoc} {code op pc xkind : Nat} (h : Keeps s u) : Keeps s (raiseBehind u l code op pc xkind) :=
  ite_keeps (ite_keeps h (modStream_keeps h)) (streamEvent_keeps (modStream_keeps h))

theorem countIssue_keeps {l : StreamLoc} (h : Keeps s u) : Keeps s (countIssue u l) := bump_keeps h

theorem finishIssue_keeps {l : StreamLoc} {pc : Nat} {r : Issue} (h : Keeps s u) (hr : IssueKeeps s r) :
    Keeps s (finishIssue u l pc r) := by
  unfold finishIssue
  dsimp only
  split
  · exact countIssue_keeps (modStream_keeps hr)
  · split
    · exact raiseIssue_keeps h
    · exact countIssue_keeps (modStream_keeps hr)
  · exact countIssue_keeps (modStream_keeps hr)
  · exact countIssue_keeps (modStream_keeps hr)
  · split
    · exact modStream_keeps (askTransfer_keeps h)
    · exact modStream_keeps h
  · exact raiseIssue_keeps h

theorem issue_keeps {l : StreamLoc} {isMine : Nat → Bool} {body : Nat → Issue} (h : Keeps s u) (hbody : ∀ x0, IssueKeeps s (body x0)) :
    Keeps s (issue u l isMine body) := by
  unfold issue
  dsimp only
  split
  · exact h
  · split
    · exact modStream_keeps h
    · split
      · exact raiseIssue_keeps h
      · exact ite_keeps h (ite_keeps (raiseIssue_keeps h) (finishIssue_keeps h (hbody _)))

theorem orElse_keeps {excs : List (Bool × Nat)} {r : Issue} (hr : IssueKeeps s r) : IssueKeeps s (orElse excs r) := by
  unfold orElse
  split
  · exact raise_keeps
  · exact hr

/-! ### In flight -/

theorem addOp_keeps {l : StreamLoc} {inst : Option Nat} {k : OpKind} (h : Keeps s u) : Keeps s (addOp u l inst k) := modM_keeps h

/-! ### Accumulators -/

theorem countAbsent_keeps {c : CellLoc} (h : Keeps s u) : Keeps s (countAbsent u c) := bump_keeps h

theorem spillTile_keeps {l : StreamLoc} {pt : Nat} (h : Keeps s u) : Keeps s (spillTile u l pt) := by
  unfold spillTile
  dsimp only
  split
  · exact h
  · exact flagAcc_keeps (modC_keeps h)

theorem resumeTile_keeps {l : StreamLoc} {pt : Nat} (h : Keeps s u) : Keeps s (resumeTile u l pt) := by
  unfold resumeTile
  dsimp only
  split
  · exact modC_keeps h
  · exact flagAcc_keeps (modC_keeps h)

theorem takeTile_keeps {l : StreamLoc} {pt : Nat} (h : Keeps s u) : Keeps s (takeTile u l pt).1 := by
  unfold takeTile
  dsimp only
  split
  · dsimp only
    exact modC_keeps h
  · dsimp only
    exact modC_keeps (ite_keeps (spillTile_keeps h) h)

theorem markBad_keeps {c : CellLoc} {id : Nat} (h : Keeps s u) : Keeps s (markBad u c id) := modM_keeps h

theorem runChainOp_keeps {c : CellLoc} {o : Op} (h : Keeps s u) : Keeps s (runChainOp u c o) := by
  unfold runChainOp
  split
  · exact h
  · dsimp only
    split
    · exact raiseBehind_keeps (markBad_keeps h)
    · refine modM_keeps ?_
      split
      · exact modC_keeps h
      · exact spillTile_keeps (modC_keeps h)
      · exact resumeTile_keeps h
      · exact modC_keeps h
      · exact h

theorem runChains_keeps {c : CellLoc} : ∀ {n : Nat} {u : State}, Keeps s u → Keeps s (runChains n u c)
  | 0, _, h => h
  | n + 1, u, h => by
    unfold runChains
    split
    · exact h
    · exact runChains_keeps (runChainOp_keeps h)

theorem settle_keeps {c : CellLoc} (h : Keeps s u) : Keeps s (settle u c) := modM_keeps (runChains_keeps h)

/-! ### Control instructions -/

theorem execNop_runs {l : StreamLoc} (h : Keeps s u) : Runs s (execNop l u) := by
  unfold execNop
  refine nx_runs (issue_keeps h ?_)
  intro x
  exact done_keeps h

theorem execHalt_runs {l : StreamLoc} (h : Keeps s u) : Runs s (execHalt l u) := by
  unfold execHalt
  dsimp only
  refine nx_runs (issue_keeps h ?_)
  intro x
  exact orElse_keeps (stay_keeps h)

theorem execHaltComplete_runs {l : StreamLoc} (h : Keeps s u) : Runs s (execHaltComplete l u) := by
  unfold execHaltComplete
  dsimp only
  split
  · split
    · exact nx_runs (ite_keeps (streamEvent_keeps (modStream_keeps h)) (modStream_keeps h))
    · exact nx_runs (modStream_keeps h)
  · exact nx_runs h

theorem execFence_runs {l : StreamLoc} (h : Keeps s u) : Runs s (execFence l u) := by
  unfold execFence
  dsimp only
  refine nx_runs (issue_keeps h ?_)
  intro x
  exact ite_issueKeeps (ite_issueKeeps (done_keeps (addOp_keeps (ite_keeps (modM_keeps h) h))) (done_keeps (ite_keeps (modM_keeps h) h)))
    (ite_issueKeeps hold_keeps (done_keeps (ite_keeps (modM_keeps h) h)))

theorem execSemacq_runs {l : StreamLoc} (h : Keeps s u) : Runs s (execSemacq l u) := by
  unfold execSemacq
  dsimp only
  refine nx_runs (issue_keeps h ?_)
  intro x
  exact ite_issueKeeps hold_keeps (done_keeps (modC_keeps h))

theorem execSemrel_runs {l : StreamLoc} (h : Keeps s u) : Runs s (execSemrel l u) := by
  unfold execSemrel
  dsimp only
  refine nx_runs (issue_keeps h ?_)
  intro x
  exact orElse_keeps (done_keeps (addOp_keeps h))

theorem execSemrelApply_runs {c : CellLoc} {op : Nat} (h : Keeps s u) : Runs s (execSemrelApply c op u) := by
  unfold execSemrelApply
  dsimp only
  split
  · split
    · exact ite_runs (nx_runs h) (nx_runs (modM_keeps (modC_keeps h)))
    · exact nx_runs h
  · exact nx_runs h

theorem enterLoop_keeps {l : StreamLoc} {w count : Nat} (h : Keeps s u) : IssueKeeps s (enterLoop u l w count) :=
  orElse_keeps (ite_issueKeeps (loop_keeps h) (loop_keeps h))

theorem execLoop_runs {l : StreamLoc} (h : Keeps s u) : Runs s (execLoop l u) := by
  unfold execLoop
  refine nx_runs (issue_keeps h ?_)
  intro x
  exact enterLoop_keeps h

theorem execLoopi_runs {l : StreamLoc} (h : Keeps s u) : Runs s (execLoopi l u) := by
  unfold execLoopi
  refine nx_runs (issue_keeps h ?_)
  intro x
  exact enterLoop_keeps h

theorem execTcfg_runs {l : StreamLoc} (h : Keeps s u) : Runs s (execTcfg l u) := by
  unfold execTcfg
  dsimp only
  refine nx_runs (issue_keeps h ?_)
  intro x
  exact orElse_keeps (done_keeps (addOp_keeps h))

theorem execTcfgApply_runs {c : CellLoc} {op : Nat} (h : Keeps s u) : Runs s (execTcfgApply c op u) := by
  unfold execTcfgApply
  dsimp only
  split
  · split
    · exact ite_runs (nx_runs h) (nx_runs (modM_keeps (modC_keeps h)))
    · exact nx_runs h
  · exact nx_runs h

theorem execScrr_runs {l : StreamLoc} (h : Keeps s u) : Runs s (execScrr l u) := by
  unfold execScrr
  refine nx_runs (issue_keeps h ?_)
  intro x
  split
  · exact done_keeps (modStream_keeps h)
  · exact raise_keeps

theorem execScrw_runs {l : StreamLoc} (h : Keeps s u) : Runs s (execScrw l u) := by
  unfold execScrw
  refine nx_runs (issue_keeps h ?_)
  intro x
  exact ite_issueKeeps (done_keeps (modStream_keeps h)) raise_keeps

theorem scalar_runs {l : StreamLoc} {o : Nat} {f : W64 → W64 → W64} (h : Keeps s u) : Runs s (scalar u l o f) := by
  unfold scalar
  refine nx_runs (issue_keeps h ?_)
  intro x
  exact done_keeps (modStream_keeps h)

theorem execAdd_runs {l : StreamLoc} (h : Keeps s u) : Runs s (execAdd l u) := scalar_runs h

theorem execSub_runs {l : StreamLoc} (h : Keeps s u) : Runs s (execSub l u) := scalar_runs h

theorem execAnd_runs {l : StreamLoc} (h : Keeps s u) : Runs s (execAnd l u) := scalar_runs h

theorem execOr_runs {l : StreamLoc} (h : Keeps s u) : Runs s (execOr l u) := scalar_runs h

theorem execXor_runs {l : StreamLoc} (h : Keeps s u) : Runs s (execXor l u) := scalar_runs h

theorem execSll_runs {l : StreamLoc} (h : Keeps s u) : Runs s (execSll l u) := scalar_runs h

theorem execSrl_runs {l : StreamLoc} (h : Keeps s u) : Runs s (execSrl l u) := scalar_runs h

theorem execSra_runs {l : StreamLoc} (h : Keeps s u) : Runs s (execSra l u) := scalar_runs h

theorem execMul_runs {l : StreamLoc} (h : Keeps s u) : Runs s (execMul l u) := scalar_runs h

theorem execSlt_runs {l : StreamLoc} (h : Keeps s u) : Runs s (execSlt l u) := scalar_runs h

theorem execSltu_runs {l : StreamLoc} (h : Keeps s u) : Runs s (execSltu l u) := scalar_runs h

theorem execLi_runs {l : StreamLoc} (h : Keeps s u) : Runs s (execLi l u) := by
  unfold execLi
  refine nx_runs (issue_keeps h ?_)
  intro x
  exact done_keeps (modStream_keeps h)

theorem execLih_runs {l : StreamLoc} (h : Keeps s u) : Runs s (execLih l u) := by
  unfold execLih
  refine nx_runs (issue_keeps h ?_)
  intro x
  exact done_keeps (modStream_keeps h)

theorem branch_runs {l : StreamLoc} {o : Nat} {f : W64 → W64 → Bool} (h : Keeps s u) : Runs s (branch u l o f) := by
  unfold branch
  dsimp only
  refine nx_runs (issue_keeps h ?_)
  intro x
  exact orElse_keeps (ite_issueKeeps (jump_keeps h) (done_keeps h))

theorem execBeq_runs {l : StreamLoc} (h : Keeps s u) : Runs s (execBeq l u) := branch_runs h

theorem execBne_runs {l : StreamLoc} (h : Keeps s u) : Runs s (execBne l u) := branch_runs h

theorem execBlt_runs {l : StreamLoc} (h : Keeps s u) : Runs s (execBlt l u) := branch_runs h

theorem execBge_runs {l : StreamLoc} (h : Keeps s u) : Runs s (execBge l u) := branch_runs h

theorem execBltu_runs {l : StreamLoc} (h : Keeps s u) : Runs s (execBltu l u) := branch_runs h

theorem execBgeu_runs {l : StreamLoc} (h : Keeps s u) : Runs s (execBgeu l u) := branch_runs h

theorem jumpTo_keeps {l : StreamLoc} {w target : Nat} (h : Keeps s u) : IssueKeeps s (jumpTo u l w target) :=
  orElse_keeps (jump_keeps (modStream_keeps h))

theorem execJal_runs {l : StreamLoc} (h : Keeps s u) : Runs s (execJal l u) := by
  unfold execJal
  refine nx_runs (issue_keeps h ?_)
  intro x
  exact jumpTo_keeps h

theorem execJr_runs {l : StreamLoc} (h : Keeps s u) : Runs s (execJr l u) := by
  unfold execJr
  refine nx_runs (issue_keeps h ?_)
  intro x
  exact jumpTo_keeps h

theorem execReservedOpcodeIssue_runs {l : StreamLoc} (h : Keeps s u) : Runs s (execReservedOpcodeIssue l u) := by
  unfold execReservedOpcodeIssue
  refine nx_runs (issue_keeps h ?_)
  intro x
  exact orElse_keeps raise_keeps

/-! ### Moves -/

theorem recTransfer_keeps {l : StreamLoc} {kind va hpa pc row slot : Nat} (h : Keeps s u) : Keeps s
    (recTransfer u l kind va hpa pc row slot) :=
  ite_keeps (recUncorr_keeps h) (ite_keeps (logErr_keeps h) h)

theorem issueTransfer_keeps {l : StreamLoc} {store : Bool} {w : Nat} (h : Keeps s u) : IssueKeeps s (issueTransfer u l store w) := by
  unfold issueTransfer
  dsimp only
  split
  · exact hold_keeps
  · split
    · exact orElse_keeps raise_keeps
    · exact ite_issueKeeps hold_keeps (orElse_keeps (ite_issueKeeps hold_keeps (done_keeps (cellWants_keeps (addOp_keeps h)))))

theorem execTfetch_runs {l : StreamLoc} (h : Keeps s u) : Runs s (execTfetch l u) := by
  unfold execTfetch
  refine nx_runs (issue_keeps h ?_)
  intro x
  exact issueTransfer_keeps h

theorem execTstore_runs {l : StreamLoc} (h : Keeps s u) : Runs s (execTstore l u) := by
  unfold execTstore
  refine nx_runs (issue_keeps h ?_)
  intro x
  exact issueTransfer_keeps h

theorem arriveRow_keeps {c : CellLoc} {op row : Nat} (h : Keeps s u) : Keeps s (arriveRow u c op row) := by
  unfold arriveRow
  split
  · split
    · split
      · exact h
      · split
        · exact dropAnswers_keeps (modM_keeps h)
        · exact modM_keeps h
        · exact askPeers_keeps h
    · exact h
  · exact h

theorem execTfetchRowCommit_runs {c : CellLoc} {op : Nat} (h : Keeps s u) : Runs s (execTfetchRowCommit c op u) := by
  unfold execTfetchRowCommit
  dsimp only
  split
  · split
    · split
      · exact nx_runs h
      · split
        · exact nx_runs (settle_keeps (modM_keeps (modCell_keeps h)))
        · split
          · exact nx_runs h
          · exact ite_runs (nx_runs (settle_keeps (setCell_keeps h))) (nx_runs (setCell_keeps h))
    · exact nx_runs h
  · exact nx_runs h

theorem storeRow_keeps {c : CellLoc} {t : Transfer} (h : Keeps s u) : MemKeeps s (storeRow u c t) := writeRow_keeps h

theorem recParity_keeps {c : CellLoc} {o : Op} {unitKind unitSub slot : Nat} (h : Keeps s u) : Keeps s
    (recParity u c o unitKind unitSub slot) :=
  logErr_keeps (drawFree_keeps (modM_keeps h))

theorem parityFail_keeps {c : CellLoc} {o : Op} {slot : Nat} (h : Keeps s u) : Keeps s (parityFail u c o slot) :=
  raiseBehind_keeps (markBad_keeps (recParity_keeps h))

theorem parityRetry_keeps {c : CellLoc} {slot : Nat} (h : Keeps s u) : Keeps s (parityRetry u c slot) := modM_keeps (modCell_keeps h)

theorem withParity_keeps {c : CellLoc} {o : Op} {slot : Nat} {perr : Bool} {go : State → State} (h : Keeps s u)
    (hgo : ∀ w, Keeps s w → Keeps s (go w)) : Keeps s (withParity u c o slot perr go) :=
  ite_keeps (hgo (modM u c fun m ↦ served m o.id) (modM_keeps h)) (ite_keeps (ite_keeps (modM_keeps h)
    (hgo (parityRetry (modM u c fun m ↦ served m o.id) c slot) (parityRetry_keeps (modM_keeps h)))) (ite_keeps (parityFail_keeps h) h))

theorem recordStop_keeps {l : StreamLoc} (h : Keeps s u) : Keeps s (recordStop u l) := modStream_keeps h

theorem streamFault_keeps {l : StreamLoc} (h : Keeps s u) : Keeps s (streamFault u l) := by
  unfold streamFault
  split
  · exact streamEvent_keeps (modStream_keeps h)
  · exact streamEvent_keeps h
  · exact streamEvent_keeps h
  · exact h

theorem stopTransfer_keeps {c : CellLoc} {o : Op} {t : Transfer} {k : Nat} (h : Keeps s u) : Keeps s (stopTransfer u c o t k) :=
  streamFault_keeps (recTransfer_keeps (recordStop_keeps (modM_keeps h)))

theorem storedRow_keeps {c : CellLoc} {o : Op} {t : Transfer} (h : Keeps s u) : Keeps s (storedRow u c o t) :=
  ite_keeps (settle_keeps (modM_keeps h)) (ite_keeps (recordStop_keeps (modStream_keeps (modM_keeps h))) (modM_keeps h))

theorem rowDone_keeps {c : CellLoc} {op row : Nat} (h : Keeps s u) : Keeps s (rowDone u c op row) := modGate_keeps h

theorem execTstoreRowAccept_runs {c : CellLoc} {r : Reader} (h : Keeps s u) : Runs s (execTstoreRowAccept c r u) := by
  unfold execTstoreRowAccept
  dsimp only
  split
  · split
    · split
      · exact nx_runs h
      · split
        · exact nx_runs (settle_keeps (modM_keeps h))
        · split
          · exact nx_runs h
          · refine nx_runs (withParity_keeps h ?_)
            intro w hw
            split
            next t he =>
              have ht : Keeps s t := MemKeeps.ok (storeRow_keeps (rowDone_keeps hw)) he
              exact storedRow_keeps (gateRanges_keeps (dropAnswers_keeps ht))
            · exact hw
            · exact askPeers_keeps hw
    · exact nx_runs h
  · exact nx_runs h

theorem execTransferFault_runs {c : CellLoc} {op : Nat} (h : Keeps s u) : Runs s (execTransferFault c op u) := by
  unfold execTransferFault
  dsimp only
  split
  · split
    · split
      · exact nx_runs h
      · split
        · split
          · exact nx_runs h
          · split
            · exact nx_runs (stopTransfer_keeps (rowDone_keeps h))
            · exact nx_runs h
        · exact ite_runs (nx_runs h) (nx_runs (stopTransfer_keeps h))
    · exact nx_runs h
  · exact nx_runs h

theorem issueMove_keeps {l : StreamLoc} {store : Bool} {w : Nat} (h : Keeps s u) : IssueKeeps s (issueMove u l store w) :=
  ite_issueKeeps hold_keeps (orElse_keeps (ite_issueKeeps hold_keeps (done_keeps (addOp_keeps h))))

theorem execTld_runs {l : StreamLoc} (h : Keeps s u) : Runs s (execTld l u) := by
  unfold execTld
  refine nx_runs (issue_keeps h ?_)
  intro x
  exact issueMove_keeps h

theorem execTst_runs {l : StreamLoc} (h : Keeps s u) : Runs s (execTst l u) := by
  unfold execTst
  refine nx_runs (issue_keeps h ?_)
  intro x
  exact issueMove_keeps h

theorem issueCask_keeps {l : StreamLoc} {store : Bool} {w : Nat} (h : Keeps s u) : IssueKeeps s (issueCask u l store w) :=
  orElse_keeps (ite_issueKeeps hold_keeps (done_keeps (addOp_keeps h)))

theorem execCaskld_runs {l : StreamLoc} (h : Keeps s u) : Runs s (execCaskld l u) := by
  unfold execCaskld
  refine nx_runs (issue_keeps h ?_)
  intro x
  exact issueCask_keeps h

theorem execCaskst_runs {l : StreamLoc} (h : Keeps s u) : Runs s (execCaskst l u) := by
  unfold execCaskst
  refine nx_runs (issue_keeps h ?_)
  intro x
  exact issueCask_keeps h

theorem execInternalAccess_runs {c : CellLoc} {op : Nat} {perr : Bool} (h : Keeps s u) : Runs s (execInternalAccess c op perr u) := by
  unfold execInternalAccess
  dsimp only
  split
  · split
    · exact nx_runs h
    · split
      · refine nx_runs (withParity_keeps h ?_)
        intro w hw
        exact ite_keeps (setCell_keeps hw) (settle_keeps (setCell_keeps hw))
      · exact ite_runs (nx_runs (setCell_keeps h)) (nx_runs (settle_keeps (setCell_keeps h)))
      · exact nx_runs h
  · exact nx_runs h

theorem xfetchAsks_keeps {c : CellLoc} {op : Nat} {x : Xfetch} (h : Keeps s u) : Keeps s (xfetchAsks u c op x) :=
  askGrant_keeps (cellWants_keeps h)

theorem execXfetch_runs {l : StreamLoc} (h : Keeps s u) : Runs s (execXfetch l u) := by
  unfold execXfetch
  dsimp only
  refine nx_runs (issue_keeps h ?_)
  intro x
  split
  · exact orElse_keeps raise_keeps
  · exact orElse_keeps (ite_issueKeeps hold_keeps (done_keeps (xfetchAsks_keeps (addOp_keeps h))))

theorem xfetchLoses_keeps {c : CellLoc} {x : Xfetch} (h : Keeps s u) : Keeps s (xfetchLoses u c x) :=
  ite_keeps h (modCell_keeps (drawFree_keeps h))

theorem raiseXfetch_keeps {c : CellLoc} {o : Op} {x : Xfetch} {k : Nat} (h : Keeps s u) : Keeps s (raiseXfetch u c o x k) :=
  raiseBehind_keeps (recTransfer_keeps (modM_keeps (modGate_keeps (xfetchLoses_keeps h))))

theorem execXfetchFault_runs {c : CellLoc} {op : Nat} (h : Keeps s u) : Runs s (execXfetchFault c op u) := by
  unfold execXfetchFault
  split
  · split
    · split
      · exact nx_runs h
      · split
        · exact nx_runs (raiseXfetch_keeps h)
        · exact nx_runs h
    · exact nx_runs h
  · exact nx_runs h

theorem execDqpush_runs {l : StreamLoc} (h : Keeps s u) : Runs s (execDqpush l u) := by
  unfold execDqpush
  dsimp only
  refine nx_runs (issue_keeps h ?_)
  intro x
  exact ite_issueKeeps raise_keeps (ite_issueKeeps hold_keeps (done_keeps (modC_keeps h)))

theorem execDqpop_runs {l : StreamLoc} (h : Keeps s u) : Runs s (execDqpop l u) := by
  unfold execDqpop
  dsimp only
  refine nx_runs (issue_keeps h ?_)
  intro x
  split
  · exact raise_keeps
  · split
    · exact hold_keeps
    · exact done_keeps (modStream_keeps (modC_keeps h))

theorem execWaitv_runs {l : StreamLoc} (h : Keeps s u) : Runs s (execWaitv l u) := by
  unfold execWaitv
  dsimp only
  refine nx_runs (issue_keeps h ?_)
  intro x
  split
  · exact raise_keeps
  · exact ite_issueKeeps (done_keeps h) hold_keeps

/-! ### Conversion -/

theorem drawFor_keeps {l : StreamLoc} {rnd n : Nat} (h : Keeps s u) : Keeps s (drawFor u l rnd n).2 := by
  unfold drawFor
  split
  · dsimp only
    exact modStream_keeps h
  · exact h

/-! ### Execution instructions -/

theorem execAccOpen_runs {l : StreamLoc} (h : Keeps s u) : Runs s (execAccOpen l u) := by
  unfold execAccOpen
  dsimp only
  refine nx_runs (issue_keeps h ?_)
  intro x
  exact orElse_keeps (ite_issueKeeps (done_keeps (setCell_keeps h)) (ite_issueKeeps (done_keeps (countAbsent_keeps (modC_keeps h)))
    (ite_issueKeeps (done_keeps (setCell_keeps h)) hold_keeps)))

theorem onName_keeps {l : StreamLoc} {an : Nat} {excs : List (Bool × Nat)} {body : Nat → Issue} (h : Keeps s u)
    (hbody : ∀ i, IssueKeeps s (body i)) : IssueKeeps s (onName u l an excs body) := by
  unfold onName
  split
  · exact orElse_keeps raise_keeps
  · exact done_keeps (countAbsent_keeps h)
  · exact hbody _

theorem unbind_keeps {l : StreamLoc} {an : Nat} (h : Keeps s u) : Keeps s (unbind u l an) := modC_keeps h

theorem chainOp_keeps {l : StreamLoc} {inst : Nat} {k : OpKind} (h : Keeps s u) : Keeps s (chainOp u l inst k) :=
  settle_keeps (addOp_keeps h)

theorem execAccClose_runs {l : StreamLoc} (h : Keeps s u) : Runs s (execAccClose l u) := by
  unfold execAccClose
  refine nx_runs (issue_keeps h ?_)
  intro x
  refine onName_keeps h ?_
  intro y
  exact done_keeps (chainOp_keeps (unbind_keeps h))

theorem execSpill_runs {l : StreamLoc} (h : Keeps s u) : Runs s (execSpill l u) := by
  unfold execSpill
  dsimp only
  refine nx_runs (issue_keeps h ?_)
  intro x
  refine onName_keeps h ?_
  intro y
  exact orElse_keeps (done_keeps (chainOp_keeps h))

theorem execResume_runs {l : StreamLoc} (h : Keeps s u) : Runs s (execResume l u) := by
  unfold execResume
  refine nx_runs (issue_keeps h ?_)
  intro x
  refine onName_keeps h ?_
  intro y
  exact orElse_keeps (done_keeps (chainOp_keeps h))

theorem countTask_keeps {c : CellLoc} (h : Keeps s u) : Keeps s (countTask u c) := bump_keeps h

theorem countSuppressed_keeps {c : CellLoc} (h : Keeps s u) : Keeps s (countSuppressed u c) := bump_keeps h

theorem opaGo_keeps {l : StreamLoc} {inst : Nat} {g : OpaArgs} {x : CellAll} (h : Keeps s u) : IssueKeeps s (opaGo u l inst g x) :=
  ite_issueKeeps (done_keeps (chainOp_keeps h)) (ite_issueKeeps hold_keeps (done_keeps (countTask_keeps (addOp_keeps h))))

theorem opaMasked_keeps {l : StreamLoc} {inst : Nat} {g : OpaArgs} {x : CellAll} (h : Keeps s u) : IssueKeeps s (opaMasked u l inst g x) :=
    by
  unfold opaMasked
  split
  · exact ite_issueKeeps hold_keeps (ite_issueKeeps (done_keeps (countSuppressed_keeps (modM_keeps h))) (opaGo_keeps (modM_keeps h)))
  · exact opaGo_keeps h

theorem issueOpa_keeps {l : StreamLoc} {w : Nat} (h : Keeps s u) : IssueKeeps s (issueOpa u l w) := by
  unfold issueOpa
  dsimp only
  split
  · exact hold_keeps
  · refine onName_keeps h ?_
    intro x
    exact orElse_keeps (opaMasked_keeps h)

theorem execOpa_runs {l : StreamLoc} (h : Keeps s u) : Runs s (execOpa l u) := by
  unfold execOpa
  refine nx_runs (issue_keeps h ?_)
  intro x
  exact issueOpa_keeps h

theorem maskFault_keeps {l : StreamLoc} {va k : Nat} (h : Keeps s u) : Keeps s (maskFault u l va k) :=
  streamEvent_keeps (modStream_keeps (recTransfer_keeps h))

theorem maskDone_keeps {c : CellLoc} {va : Nat} (h : Keeps s u) : Keeps s (maskDone u c va) := modGate_keeps h

theorem fillMask_keeps {l : StreamLoc} {va : Nat} (h : Keeps s u) : Keeps s (fillMask u l va) := by
  unfold fillMask
  split
  · exact h
  · dsimp only
    split
    · exact dropAnswers_keeps (modM_keeps (maskDone_keeps h))
    · exact askPeers_keeps h
    · exact maskFault_keeps (maskDone_keeps h)

theorem execMaskLineFill_runs {l : StreamLoc} (h : Keeps s u) : Runs s (execMaskLineFill l u) := by
  unfold execMaskLineFill
  dsimp only
  split
  · refine nx_runs (issue_keeps (foldl_keeps ?_ h) ?_)
    · intro w x hw
      exact fillMask_keeps hw
    · intro x
      refine issueOpa_keeps (foldl_keeps ?_ h)
      intro w y hw
      exact fillMask_keeps hw
  · exact nx_runs h

theorem issueDrain_keeps {l : StreamLoc} {w : Nat} (h : Keeps s u) : IssueKeeps s (issueDrain u l w) := by
  unfold issueDrain
  dsimp only
  split
  · exact hold_keeps
  · split
    · refine onName_keeps h ?_
      intro x
      exact orElse_keeps raise_keeps
    · refine onName_keeps h ?_
      intro x
      exact orElse_keeps (done_keeps (chainOp_keeps (unbind_keeps (drawFor_keeps h))))

theorem execDrain_runs {l : StreamLoc} (h : Keeps s u) : Runs s (execDrain l u) := by
  unfold execDrain
  refine nx_runs (issue_keeps h ?_)
  intro x
  exact issueDrain_keeps h

theorem execRed_runs {l : StreamLoc} (h : Keeps s u) : Runs s (execRed l u) := by
  unfold execRed
  dsimp only
  refine nx_runs (issue_keeps h ?_)
  intro x
  split
  · refine onName_keeps h ?_
    intro y
    exact orElse_keeps (done_keeps (chainOp_keeps (unbind_keeps h)))
  · exact ite_issueKeeps hold_keeps (orElse_keeps (ite_issueKeeps hold_keeps (done_keeps (addOp_keeps h))))

/-! ### Engines -/

theorem execTaskPlacement_runs {c : CellLoc} {op : Nat} (h : Keeps s u) : Runs s (execTaskPlacement c op u) := by
  unfold execTaskPlacement
  dsimp only
  split
  · split
    · exact nx_runs h
    · split
      · split
        · exact nx_runs (settle_keeps (modC_keeps h))
        · exact nx_runs h
      · exact nx_runs h
  · exact nx_runs h

theorem execTaskReady_runs {c : CellLoc} {op : Nat} (h : Keeps s u) : Runs s (execTaskReady c op u) := by
  unfold execTaskReady
  dsimp only
  split
  · split
    · exact ite_runs (nx_runs (modM_keeps h)) (nx_runs h)
    · exact nx_runs h
  · exact nx_runs h

theorem dispatch_keeps {c : CellLoc} {eng : Nat} {o : Op} {t : Task} {pt : Nat} (h : Keeps s u) : Keeps s (dispatch u c eng o t pt) :=
  ite_keeps (ite_keeps (raiseBehind_keeps (modM_keeps h)) h) (modCell_keeps h)

theorem execTaskChoice_runs {c : CellLoc} {eng : Nat} (h : Keeps s u) : Runs s (execTaskChoice c eng u) := by
  unfold execTaskChoice
  dsimp only
  split
  · exact nx_runs h
  · split
    · split
      · exact nx_runs h
      · split
        · refine nx_runs ?_
          split
          · exact dispatch_keeps h
          · exact h
        · exact nx_runs h
    · split
      · split
        · refine nx_runs ?_
          split
          · exact dispatch_keeps h
          · exact h
        · exact nx_runs h
      · split
        · exact nx_runs h
        · split
          · exact nx_runs h
          · split
            · exact nx_runs h
            · refine nx_runs ?_
              split
              · exact dispatch_keeps (modM_keeps h)
              · exact modM_keeps h

theorem stopTask_keeps {c : CellLoc} {eng code : Nat} {o : Op} {t : Task} (h : Keeps s u) : Keeps s (stopTask u c eng code o t) :=
  ite_keeps (raiseBehind_keeps (modM_keeps h)) h

theorem execSlotEntry_runs {c : CellLoc} {eng : Nat} {sideB : Bool} (h : Keeps s u) : Runs s (execSlotEntry c eng sideB u) := by
  unfold execSlotEntry
  dsimp only
  split
  · exact nx_runs h
  · split
    · exact nx_runs h
    · split
      · exact nx_runs (stopTask_keeps h)
      · exact nx_runs (setCell_keeps h)

theorem execGroupFetch_runs {c : CellLoc} {eng : Nat} {sideB perr : Bool} (h : Keeps s u) : Runs s (execGroupFetch c eng sideB perr u) := by
  unfold execGroupFetch
  dsimp only
  split
  · exact nx_runs h
  · split
    · exact nx_runs h
    · exact ite_runs (nx_runs h) (ite_runs (nx_runs (modM_keeps h)) (ite_runs (nx_runs (modM_keeps h))
        (ite_runs (nx_runs (stopTask_keeps (recParity_keeps h))) (nx_runs h))))

theorem execParityRetryWrite_runs {c : CellLoc} {eng : Nat} {sideB : Bool} (h : Keeps s u) : Runs s (execParityRetryWrite c eng sideB u) :=
    by
  unfold execParityRetryWrite
  dsimp only
  split
  · exact nx_runs h
  · exact ite_runs (nx_runs h) (ite_runs (nx_runs (modM_keeps h)) (nx_runs (setCell_keeps (parityRetry_keeps h))))

theorem takeStep_keeps {c : CellLoc} {eng : Nat} {o : Op} {t : Task} {pt : Nat} (h : Keeps s u) : Keeps s (takeStep u c eng o t pt) :=
  ite_keeps (bump_keeps (flagAcc_keeps (setCell_keeps h))) (flagAcc_keeps (setCell_keeps h))

theorem execRankOneStep_runs {c : CellLoc} {eng : Nat} (h : Keeps s u) : Runs s (execRankOneStep c eng u) := by
  unfold execRankOneStep
  dsimp only
  split
  · exact nx_runs h
  · exact ite_runs (nx_runs (takeStep_keeps h)) (nx_runs h)

theorem execSpillPoint_runs {c : CellLoc} {eng : Nat} (h : Keeps s u) : Runs s (execSpillPoint c eng u) := by
  unfold execSpillPoint
  dsimp only
  split
  · exact nx_runs h
  · split
    · exact nx_runs (settle_keeps (modM_keeps (spillTile_keeps h)))
    · exact nx_runs h

theorem execLastSlice_runs {c : CellLoc} {eng : Nat} (h : Keeps s u) : Runs s (execLastSlice c eng u) := by
  unfold execLastSlice
  dsimp only
  split
  · exact nx_runs h
  · exact nx_runs (settle_keeps (modM_keeps h))

theorem execDrainRead_runs {c : CellLoc} {r : Reader} (h : Keeps s u) : Runs s (execDrainRead c r u) := by
  unfold execDrainRead
  dsimp only
  split
  · split
    · exact nx_runs h
    · split
      · exact nx_runs h
      · split
        · exact nx_runs h
        · split
          · split
            · exact nx_runs h
            · refine nx_runs (withParity_keeps h ?_)
              intro w hw
              exact settle_keeps (modM_keeps (takeTile_keeps hw))
          · exact nx_runs (settle_keeps (modM_keeps (takeTile_keeps h)))
          · exact nx_runs h
  · exact nx_runs h

theorem flagDest_keeps {l : StreamLoc} {dest : Dest} {f : Flg} (h : Keeps s u) : Keeps s (flagDest u l dest f) := by
  unfold flagDest
  split
  · exact flagSlot_keeps h
  · exact ite_keeps (streamNonfinite_keeps h) h

theorem ewWrite_keeps {c : CellLoc} {o : Op} {e : EwOp} {r : List (Nat × List Byte) × Bool} (h : Keeps s u) : Keeps s (ewWrite u c o e r) :=
  settle_keeps (bump_keeps (ite_keeps (streamNonfinite_keeps (modCell_keeps h)) (modCell_keeps h)))

theorem queueItem_keeps {d : DieId} {slot r : Nat} {it : Item} (h : Keeps s u) : Keeps s (queueItem u d slot r it) := modRoute_keeps h

theorem drainWrite_keeps {c : CellLoc} {op : Nat} (h : Keeps s u) : Keeps s (drainWrite u c op) := by
  unfold drainWrite
  dsimp only
  split
  · split
    · split
      · exact h
      · exact ite_keeps h (ewWrite_keeps h)
    · split
      · exact h
      · exact ite_keeps h (ite_keeps (modM_keeps h) (settle_keeps (bump_keeps (flagDest_keeps (setCell_keeps (modM_keeps h))))))
    · split
      · split
        · exact h
        · exact ite_keeps h (flagAcc_keeps (queueItem_keeps h))
      · exact h
    · exact h
  · exact h

/-! ### Stream actions -/

theorem stopFaulted_keeps {l : StreamLoc} (h : Keeps s u) : Keeps s (stopFaulted u l) := by
  unfold stopFaulted
  refine foldl_keeps ?_ h
  intro w x hw
  split
  · exact ite_keeps (stopTransfer_keeps hw) hw
  · exact hw

theorem stopStream_keeps {l : StreamLoc} (h : Keeps s u) : Keeps s (stopStream u l) :=
  recordStop_keeps (modStream_keeps (modCell_keeps (stopFaulted_keeps h)))

theorem retryAsks_keeps {l : StreamLoc} (h : Keeps s u) : Keeps s (retryAsks u l) := by
  unfold retryAsks
  refine foldl_keeps ?_ h
  intro w x hw
  split
  · exact ite_keeps (xfetchAsks_keeps hw) hw
  · exact hw

theorem retryStream_keeps {l : StreamLoc} (h : Keeps s u) : Keeps s (retryStream u l) := settle_keeps (modM_keeps (retryAsks_keeps h))

theorem restartAsync_keeps {l : StreamLoc} (h : Keeps s u) : Keeps s (restartAsync u l) := modStream_keeps (modM_keeps h)

theorem goOn_keeps {l : StreamLoc} (h : Keeps s u) : Keeps s (goOn u l) :=
  ite_keeps (modStream_keeps h) (streamEvent_keeps (recordStop_keeps (modStream_keeps h)))

theorem streamAct_keeps {l : StreamLoc} {act : Nat} (h : Keeps s u) : OptKeeps s (streamAct u l act) := by
  unfold streamAct
  dsimp only
  split
  · exact some_keeps (modStream_keeps h)
  · exact some_keeps (modStream_keeps h)
  · exact some_keeps (retryStream_keeps (goOn_keeps (restartAsync_keeps h)))
  · split
    · exact some_keeps (goOn_keeps (restartAsync_keeps (modStream_keeps h)))
    · exact some_keeps (retryStream_keeps (goOn_keeps (restartAsync_keeps (modCell_keeps (modStream_keeps h)))))
  · exact some_keeps (stopStream_keeps h)
  · exact ite_optKeeps (some_keeps (stopStream_keeps h)) none_keeps
  · exact some_keeps (settle_keeps (goOn_keeps (modStream_keeps (modM_keeps h))))
  · exact none_keeps

theorem getD_keeps {o : Option State} (ho : OptKeeps s o) (h : Keeps s u) : Keeps s (o.getD u) := by
  cases o with
  | none => exact h
  | some t => exact ho

theorem streamActWrite_keeps {l : StreamLoc} {act : Nat} (h : Keeps s u) : Keeps s (streamActWrite u l act) :=
  getD_keeps (streamAct_keeps h) (modStream_keeps h)

theorem streamActCmd_runs {agent : Nat} {l : StreamLoc} {act : Nat} (h : Keeps s u) : Runs s (streamActCmd u agent l act) :=
  streamWrite_runs h (streamActWrite_keeps h)

theorem execStreamStart_runs {agent : Nat} {l : StreamLoc} (h : Keeps s u) : Runs s (execStreamStart agent l u) := streamActCmd_runs h

theorem execStreamRetry_runs {agent : Nat} {l : StreamLoc} (h : Keeps s u) : Runs s (execStreamRetry agent l u) := streamActCmd_runs h

theorem execStreamSkip_runs {agent : Nat} {l : StreamLoc} (h : Keeps s u) : Runs s (execStreamSkip agent l u) := streamActCmd_runs h

theorem execStreamStop_runs {agent : Nat} {l : StreamLoc} (h : Keeps s u) : Runs s (execStreamStop agent l u) := streamActCmd_runs h

theorem execStreamResume_runs {agent : Nat} {l : StreamLoc} (h : Keeps s u) : Runs s (execStreamResume agent l u) := streamActCmd_runs h

theorem resumeIssue_keeps {l : StreamLoc} (h : Keeps s u) : Keeps s (resumeIssue u l) :=
  settle_keeps (modStream_keeps (ite_keeps (modM_keeps h) h))

theorem sfltAct_keeps {l : StreamLoc} {act : Nat} (h : Keeps s u) : Keeps s (sfltAct u l act) :=
  ite_keeps h (ite_keeps (modStream_keeps h) (ite_keeps (resumeIssue_keeps (modM_keeps h))
    (resumeIssue_keeps (modM_keeps (modCell_keeps h)))))

theorem sfltCmd_runs {agent : Nat} {l : StreamLoc} {act : Nat} (h : Keeps s u) : Runs s (sfltCmd u agent l act) :=
  streamWrite_runs h (ite_keeps h (sfltAct_keeps h))

theorem execSfltResume_runs {agent : Nat} {l : StreamLoc} (h : Keeps s u) : Runs s (execSfltResume agent l u) := sfltCmd_runs h

theorem execSfltCancel_runs {agent : Nat} {l : StreamLoc} (h : Keeps s u) : Runs s (execSfltCancel agent l u) := sfltCmd_runs h

theorem writePc_keeps {l : StreamLoc} {v' : Nat} (h : Keeps s u) : Keeps s (writePc u l v') := modStream_keeps h

theorem execStreamPcWrite_runs {agent : Nat} {l : StreamLoc} {v' : W64} (h : Keeps s u) : Runs s (execStreamPcWrite agent l v' u) :=
  streamWrite_runs h (writePc_keeps h)

theorem writeSr_keeps {l : StreamLoc} {v' : W64} (h : Keeps s u) : Keeps s (writeSr u l v') := modStream_keeps h

theorem execSrStateWrite_runs {agent : Nat} {l : StreamLoc} {v' : W64} (h : Keeps s u) : Runs s (execSrStateWrite agent l v' u) :=
  streamWrite_runs h (writeSr_keeps h)

theorem writeSched_keeps {c : CellLoc} {v' : Nat} (h : Keeps s u) : Keeps s (writeSched u c v') := modC_keeps h

theorem execSchedCtlWrite_runs {agent : Nat} {c : CellLoc} {v' : W32} (h : Keeps s u) : Runs s (execSchedCtlWrite agent c v' u) :=
  cellReg_runs h (writeSched_keeps h)

theorem writeEng_keeps {c : CellLoc} {v' : Nat} (h : Keeps s u) : Keeps s (writeEng u c v') := modC_keeps h

theorem execEngCtlWrite_runs {agent : Nat} {c : CellLoc} {v' : W32} (h : Keeps s u) : Runs s (execEngCtlWrite agent c v' u) :=
  cellReg_runs h (writeEng_keeps h)

theorem putDtab_keeps {c : CellLoc} {deriv : Bool} {idx : Nat} {v' : W32} (h : Keeps s u) : Keeps s (putDtab u c deriv idx v') :=
  modM_keeps h

theorem execDtabWrite_runs {agent : Nat} {c : CellLoc} {deriv : Bool} {idx : Nat} {v' : W32} (h : Keeps s u) : Runs s
    (execDtabWrite agent c deriv idx v' u) :=
  ite_runs (nx_runs (holdAccess_keeps h)) (cellReg_runs h (putDtab_keeps h))

theorem execSectorCheck_runs {d : DieId} {sec : Nat} {answers : Bool} (h : Keeps s u) : Runs s (execSectorCheck d sec answers u) :=
  ite_runs (nx_runs (modDie_keeps h update_dieKeeps)) (nx_runs h)

theorem stopSite_keeps {d : DieId} {site : Nat} (h : Keeps s u) : Keeps s (stopSite u d site) := by
  unfold stopSite
  dsimp only
  refine foldl_keeps ?_ (modC_keeps h)
  intro w x hw
  exact stopStream_keeps hw

theorem execSectorFailed_runs {d : DieId} {sec : Nat} (h : Keeps s u) : Runs s (execSectorFailed d sec u) := by
  unfold execSectorFailed
  dsimp only
  split
  · refine nx_runs (modDie_keeps (logErr_keeps (foldl_keeps ?_ h)) update_dieKeeps)
    intro w x hw
    exact stopSite_keeps hw
  · exact nx_runs h

end Sys2Proof.Machine
end

section
/-! The operations of stations, routes, queues and switches keep the relation. -/

namespace Sys2Proof.Machine

variable {s u v : State}

/-! ### Host accesses of memory -/

theorem refuseConf_keeps {p : Nat} (h : Keeps s u) : Keeps s (refuseConf u p) := ite_keeps h (logErr_keeps (modSec_keeps h))

theorem recHostUncorr_keeps {part : Option Nat} {addr n : Nat} {write : Bool} (h : Keeps s u) : Keeps s (recHostUncorr u part addr n write)
    :=
  recUncorr_keeps h

theorem hostRead_keeps {addr n : Nat} (h : Keeps s u) : Keeps s (hostRead u addr n).2 := by
  unfold hostRead
  refine ite_snd_keeps h ?_
  split
  · exact refuseConf_keeps h
  · exact ite_snd_keeps (recHostUncorr_keeps h) (touchLines_keeps h)

theorem hostWrite_keeps {addr : Nat} {bs : List Byte} (h : Keeps s u) : Keeps s (hostWrite u addr bs).2 := by
  unfold hostWrite
  refine ite_snd_keeps h ?_
  split
  · exact refuseConf_keeps h
  · exact ite_snd_keeps (recHostUncorr_keeps h) (storeHbm_keeps h)

/-! ### The flash store -/

theorem setMapEntry_keeps {u' v' : Nat} (h : Keeps s u) : Keeps s (setMapEntry u u' v') := storeHbm_keeps h

theorem modFlash_keeps {f : HdFlash → HdFlash} (h : Keeps s u) : Keeps s (modFlash u f) := update_keeps h

theorem setStripe_keeps {key : Nat} {x : Option Stripe} (h : Keeps s u) : Keeps s (setStripe u key x) := modFlash_keeps h

theorem keepRead_keeps {u' : Nat} {r : UnitR} (h : Keeps s u) : Keeps s (keepRead u u' r) := modFlash_keeps h

theorem dropReads_keeps {first count : Nat} (h : Keeps s u) : Keeps s (dropReads u first count) := modFlash_keeps h

theorem eraseBlock_keeps {block : Nat} (h : Keeps s u) : Keeps s (eraseBlock u block) := modFlash_keeps h

theorem noteRead_keeps {key : Nat} (h : Keeps s u) : Keeps s (noteRead u key) := by
  unfold noteRead
  exact modFlash_keeps h

theorem noteRun_keeps {u' n : Nat} (h : Keeps s u) : Keeps s (noteRun u u' n) := by
  unfold noteRun
  dsimp only
  refine foldl_keeps ?_ h
  intro w x hw
  exact ite_keeps (noteRead_keeps hw) hw

/-! ### Stations -/

theorem stMod_keeps {a : StAt} {ctx : Nat} {f : Station → Station} (h : Keeps s u) : Keeps s (stMod u a ctx f) := modStation_keeps h

theorem stAsks_keeps {a : StAt} (h : Keeps s u) : Keeps s (stAsks u a) := askTransfer_keeps h

theorem stBytes_keeps {a : StAt} {va n : Nat} (h : Keeps s u) : Keeps s (stBytes u a va n) := gateBytes_keeps h

theorem haltStation_keeps {a : StAt} {cls code detail : Nat} (h : Keeps s u) : Keeps s (haltStation u a cls code detail) :=
  logErr_keeps (stMod_keeps h)

theorem haltFault_keeps {a : StAt} {cls code detail k : Nat} {rs : List (Nat × Nat)} {write : Bool} (h : Keeps s u) : Keeps s
    (haltFault u a cls code detail k rs write) :=
  haltStation_keeps (ite_keeps (recUncorr_keeps h) h)

theorem emitTokens_keeps {a : StAt} {routes : List Nat} {seq : W32} {arg : W64} (h : Keeps s u) : Keeps s (emitTokens u a routes seq arg) :=
    by
  unfold emitTokens
  refine foldl_keeps ?_ h
  intro w x hw
  exact queueItem_keeps hw

theorem consumeHead_keeps {a : StAt} {r : Nat} (h : Keeps s u) : Keeps s (consumeHead u a r) := modRoute_keeps h

theorem takeItem_keeps {a : StAt} (h : Keeps s u) : Keeps s (takeItem u a) := by
  unfold takeItem
  split
  · exact h
  · exact consumeHead_keeps (stMod_keeps h)

theorem beginCell_keeps {a : StAt} {ctx : Nat} {seq : W32} {arg : W64} (h : Keeps s u) : Keeps s (beginCell u a ctx seq arg) := by
  unfold beginCell
  dsimp only
  refine foldl_keeps ?_ h
  intro w x hw
  split
  · exact hw
  · exact streamActWrite_keeps (writePc_keeps (modStream_keeps hw))

theorem moverAsks_keeps {a : StAt} (h : Keeps s u) : Keeps s (moverAsks u a) := by
  unfold moverAsks
  dsimp only
  split
  · exact h
  · split
    · exact ite_keeps (askGrant_keeps h) h
    · exact h

theorem beginWith_keeps {a : StAt} {ctx : Nat} {cap : Captured} (h : Keeps s u) : Keeps s (beginWith u a ctx cap) := by
  unfold beginWith
  dsimp only
  split
  · refine beginCell_keeps (stMod_keeps (foldl_keeps ?_ h))
    intro w x hw
    exact consumeHead_keeps hw
  · refine bump_keeps (emitTokens_keeps (stMod_keeps (stMod_keeps (foldl_keeps ?_ h))))
    intro w x hw
    exact consumeHead_keeps hw
  · refine stAsks_keeps (stMod_keeps (foldl_keeps ?_ h))
    intro w x hw
    exact consumeHead_keeps hw
  · refine stAsks_keeps (stMod_keeps (foldl_keeps ?_ h))
    intro w x hw
    exact consumeHead_keeps hw
  · refine moverAsks_keeps (stAsks_keeps (stMod_keeps (foldl_keeps ?_ h)))
    intro w x hw
    exact consumeHead_keeps hw
  · refine stAsks_keeps (stMod_keeps (foldl_keeps ?_ h))
    intro w x hw
    exact consumeHead_keeps hw
  · refine stMod_keeps (foldl_keeps ?_ h)
    intro w x hw
    exact consumeHead_keeps hw

theorem haltBegin_keeps {a : StAt} {cls code detail : Nat} (h : Keeps s u) : Keeps s (haltBegin u a cls code detail) := haltFault_keeps h

theorem execMicroBatchBegin_runs {d : DieId} {slot station ctx : Nat} (h : Keeps s u) : Runs s (execMicroBatchBegin d slot station ctx u) :=
    by
  unfold execMicroBatchBegin
  split
  · exact nx_runs h
  · split
    · exact nx_runs h
    · split
      · exact nx_runs (stAsks_keeps h)
      · split
        · exact nx_runs (dropAnswers_keeps (beginWith_keeps h))
        · exact nx_runs h
        · exact nx_runs (askPeers_keeps h)
        · exact nx_runs (haltBegin_keeps h)

theorem execMicroBatchEnd_runs {d : DieId} {slot station ctx : Nat} (h : Keeps s u) : Runs s (execMicroBatchEnd d slot station ctx u) := by
  unfold execMicroBatchEnd
  split
  · exact nx_runs h
  · exact ite_runs (nx_runs (bump_keeps (emitTokens_keeps (stMod_keeps h)))) (nx_runs h)

/-! ### Frames sent -/

theorem noteSent_keeps {a : StAt} {i n : Nat} {whole : Bool} (h : Keeps s u) : Keeps s (noteSent u a i n whole) :=
  stMod_keeps (modPeer_keeps h)

theorem sendOne_keeps {a : StAt} {i : Nat} (h : Keeps s u) : OptKeeps s (sendOne u a i) := by
  unfold sendOne
  dsimp only
  split
  · exact none_keeps
  · split
    · exact none_keeps
    · exact ite_optKeeps none_keeps (some_keeps (noteSent_keeps (sendSeq_keeps h)))
    · exact ite_optKeeps none_keeps (some_keeps (noteSent_keeps (sendSeq_keeps h)))

theorem sendInput_keeps {a : StAt} {i : Nat} : ∀ {fuel : Nat} {u : State}, Keeps s u → Keeps s (sendInput a i fuel u)
  | 0, _, h => h
  | fuel + 1, u, h => by
    unfold sendInput
    split
    · exact h
    next t ht => exact sendInput_keeps ((sendOne_keeps h).some ht)

theorem sendChain_keeps {a : StAt} (h : Keeps s u) : Keeps s (sendChain u a) := by
  unfold sendChain
  split
  · refine foldl_keeps ?_ h
    intro w x hw
    exact sendInput_keeps hw
  · exact h

theorem sendEntry_keeps {d : DieId} {idx : Nat} (h : Keeps s u) : Keeps s (sendEntry u d idx) := foldl_keeps (@sendChain_keeps s) h

theorem freeOut_keeps {a : StAt} {r n : Nat} (h : Keeps s u) : Keeps s (freeOut u a r n) := by
  unfold freeOut
  dsimp only
  split
  · exact modPeer_keeps h
  · exact modSeg_keeps h
  · exact h

/-! ### The service floor -/

theorem redForm_keeps {a : StAt} {r : Nat} {o : Op} (h : Keeps s u) : Keeps s (redForm u a r o) := by
  unfold redForm
  dsimp only
  split
  · exact flagSlot_keeps (queueItem_keeps h)
  · exact h

theorem redSent_keeps {a : StAt} {r : Nat} (h : Keeps s u) : Keeps s (redSent u a r) := by
  unfold redSent
  dsimp only
  split
  · split
    · exact settle_keeps (modM_keeps h)
    · exact h
  · exact h

theorem bucketSent_keeps {a : StAt} {hdr : W64} (h : Keeps s u) : Keeps s (bucketSent u a hdr) :=
  ite_keeps h (ite_keeps (countClosed_keeps (modLink_keeps h)) (modLink_keeps h))

theorem tookLink_keeps {a : StAt} {r j : Nat} (h : Keeps s u) : Keeps s (tookLink u a r j) := by
  unfold tookLink
  split
  · exact modDie_keeps h update_dieKeeps
  · exact h

theorem tickRing_keeps {d : DieId} (h : Keeps s u) : Keeps s (tickRing u d) := by
  unfold tickRing
  refine foldl_keeps ?_ h
  intro w x hw
  exact modRoute_keeps (tookLink_keeps hw)

theorem sendLine_keeps {a : StAt} {r : Nat} (h : Keeps s u) : Keeps s (sendLine u a r) := by
  unfold sendLine
  dsimp only
  split
  · exact h
  · split
    · exact ite_keeps (bump_keeps (bucketSent_keeps (redSent_keeps (bump_keeps (freeOut_keeps (modRoute_keeps (tookLink_keeps h)))))))
        (bump_keeps (freeOut_keeps (modRoute_keeps (tookLink_keeps h))))
    · exact freeOut_keeps (modRoute_keeps (tookLink_keeps h))

theorem execLineSend_runs {d : DieId} {slot : Nat} {r : Reader} (h : Keeps s u) : Runs s (execLineSend d slot r u) := by
  unfold execLineSend
  dsimp only
  split
  · exact nx_runs h
  · split
    · exact nx_runs h
    · split
      · refine nx_runs (withParity_keeps h ?_)
        intro w hw
        exact ite_keeps (sendLine_keeps (redForm_keeps hw)) (redForm_keeps hw)
      · exact nx_runs (ite_keeps (sendLine_keeps h) h)

theorem execItemPresent_runs {d : DieId} {slot route : Nat} (h : Keeps s u) : Runs s (execItemPresent d slot route u) := by
  unfold execItemPresent
  split
  · exact nx_runs h
  · dsimp only
    split
    · exact nx_runs h
    · split
      · exact nx_runs h
      · split
        · exact ite_runs (nx_runs (sendChain_keeps (stMod_keeps (modRoute_keeps h))))
            (ite_runs (nx_runs (modRoute_keeps h)) (nx_runs (consumeHead_keeps (modRoute_keeps h))))
        · exact nx_runs (ite_keeps (askGrant_keeps (stMod_keeps (modRoute_keeps h)))
            (ite_keeps (stAsks_keeps (stMod_keeps (modRoute_keeps h))) (sendChain_keeps (stMod_keeps (modRoute_keeps h)))))

theorem execCreditReturn_runs {d : DieId} {slot route : Nat} (h : Keeps s u) : Runs s (execCreditReturn d slot route u) := by
  unfold execCreditReturn
  split
  · exact nx_runs h
  · exact ite_runs (nx_runs h) (nx_runs (modRoute_keeps h))

theorem startGrant_keeps {d : DieId} {group site : Nat} {r : GrantReq} {k : Grant} (h : Keeps s u) : Keeps s (startGrant u d group site r k)
    :=
  modGate_keeps (modC_keeps h)

theorem execGrantStart_runs {d : DieId} {group : Nat} {r : GrantReq} (h : Keeps s u) : Runs s (execGrantStart d group r u) := by
  unfold execGrantStart
  dsimp only
  split
  · exact nx_runs h
  · split
    · split
      · split
        · split
          · exact nx_runs (dropAnswers_keeps (startGrant_keeps h))
          · exact nx_runs h
          · exact nx_runs (askPeers_keeps h)
        · exact nx_runs h
      · exact nx_runs h
    · split
      · exact nx_runs h
      · split
        · exact ite_runs (nx_runs (haltStation_keeps h)) (nx_runs (startGrant_keeps h))
        · exact nx_runs h
    · exact nx_runs (startGrant_keeps h)
    · exact nx_runs (startGrant_keeps h)

theorem xfetchGranted_keeps {c : CellLoc} {op : Nat} (h : Keeps s u) : Keeps s (xfetchGranted u c op) := by
  unfold xfetchGranted
  split
  · split
    · exact ite_keeps (settle_keeps (modM_keeps h)) (modM_keeps h)
    · exact h
  · exact h

theorem deliveryGranted_keeps {c : CellLoc} {key : Nat} (h : Keeps s u) : Keeps s (deliveryGranted u c key) := by
  unfold deliveryGranted
  dsimp only
  split
  · exact h
  · exact ite_keeps (modC_keeps (modRoute_keeps (consumeHead_keeps (stMod_keeps h)))) (modRoute_keeps (consumeHead_keeps (stMod_keeps h)))

theorem execGrantEnd_runs {d : DieId} {group : Nat} (h : Keeps s u) : Runs s (execGrantEnd d group u) := by
  unfold execGrantEnd
  split
  · exact nx_runs h
  · dsimp only
    split
    · exact nx_runs (modGate_keeps h)
    · refine nx_runs ?_
      split
      · refine deliveryGranted_keeps ?_
        split
        · exact xfetchGranted_keeps (modCell_keeps (ite_keeps (modGate_keeps h) (modCell_keeps (modGate_keeps h))))
        · exact modCell_keeps (ite_keeps (modGate_keeps h) (modCell_keeps (modGate_keeps h)))
      · split
        · exact xfetchGranted_keeps (modCell_keeps (ite_keeps (modGate_keeps h) (modCell_keeps (modGate_keeps h))))
        · exact modCell_keeps (ite_keeps (modGate_keeps h) (modCell_keeps (modGate_keeps h)))

theorem execMinGapExpiry_runs {c : CellLoc} (h : Keeps s u) : Runs s (execMinGapExpiry c u) := ite_runs (nx_runs (modC_keeps h)) (nx_runs h)

theorem execRouteRelease_runs {d : DieId} {slot route : Nat} (h : Keeps s u) : Runs s (execRouteRelease d slot route u) := by
  unfold execRouteRelease
  split
  · exact nx_runs h
  · dsimp only
    split
    · exact nx_runs h
    · exact ite_runs (nx_runs h) (nx_runs (modC_keeps h))

theorem execDrainStageItem_runs {d : DieId} {slot station : Nat} (h : Keeps s u) : Runs s (execDrainStageItem d slot station u) := by
  unfold execDrainStageItem
  split
  · exact nx_runs h
  · dsimp only
    split
    · exact nx_runs h
    · split
      · exact nx_runs h
      · split
        · exact nx_runs (haltStation_keeps h)
        · split
          · exact nx_runs (haltStation_keeps h)
          · split
            · exact nx_runs (haltFault_keeps h)
            · exact nx_runs (askPeers_keeps h)
            next t he =>
              have ht : Keeps s t := MemKeeps.ok (writeTile_keeps h) he
              exact nx_runs (stMod_keeps (takeItem_keeps (stBytes_keeps (dropAnswers_keeps ht))))

theorem relaySend_keeps {a : StAt} {i : Nat} {hdr : W64} {bs : List Byte} (h : Keeps s u) : Keeps s (relaySend u a i hdr bs) := by
  unfold relaySend
  dsimp only
  refine foldl_keeps ?_ h
  intro w x hw
  exact queueItem_keeps hw

theorem execRelayItem_runs {d : DieId} {slot station : Nat} (h : Keeps s u) : Runs s (execRelayItem d slot station u) := by
  unfold execRelayItem
  split
  · exact nx_runs h
  · dsimp only
    split
    · exact nx_runs h
    · split
      · split
        · exact nx_runs (haltStation_keeps h)
        · split
          · exact nx_runs (stMod_keeps (relaySend_keeps (takeItem_keeps h)))
          · split
            · exact nx_runs (haltStation_keeps h)
            · split
              · exact nx_runs (haltStation_keeps h)
              · split
                · exact nx_runs (haltFault_keeps h)
                · exact nx_runs (askPeers_keeps h)
                next t he =>
                  have ht : Keeps s t := MemKeeps.ok (writeTile_keeps h) he
                  exact nx_runs (stMod_keeps (relaySend_keeps (takeItem_keeps (stBytes_keeps (dropAnswers_keeps ht)))))
      · exact nx_runs h

theorem execScheduleDelivery_runs {d : DieId} {slot station : Nat} (h : Keeps s u) : Runs s (execScheduleDelivery d slot station u) := by
  unfold execScheduleDelivery
  split
  · exact nx_runs h
  · dsimp only
    split
    · exact nx_runs h
    · split
      · exact nx_runs h
      · split
        · exact nx_runs h
        · split
          · exact nx_runs (haltFault_keeps h)
          · exact nx_runs (askPeers_keeps h)
          · exact nx_runs (stMod_keeps (queueItem_keeps (stBytes_keeps (dropAnswers_keeps h))))

theorem haltMover_keeps {a : StAt} {b' kind : Nat} (h : Keeps s u) : Keeps s (haltMover u a b' kind) := haltFault_keeps h

theorem mvUsed_keeps {d : DieId} {site : Nat} (h : Keeps s u) : Keeps s (mvUsed u d site) := modC_keeps h

theorem mvWrite_keeps {a : StAt} : ∀ {rs : List (Nat × Nat)} {bs : List Byte} {u : State},
    Keeps s u → Keeps s (mvWrite a rs bs u).1
  | [], _, _, h => h
  | (va, n) :: rs, bs, u, h => by
    unfold mvWrite
    split
    next t ht => exact mvWrite_keeps ((writeVA_keeps h).ok ht)
    · exact h
    · exact h

theorem mvWriteBlock_keeps {a : StAt} {x : Station} {b : Nat} {bs : List Byte} {p : State × MemR Unit} (h : Keeps s u)
    (hp : mvWriteBlock u a x b bs = some p) : Keeps s p.1 := by
  unfold mvWriteBlock at hp
  split at hp
  · cases hp
  · dsimp only at hp
    split at hp
    · split at hp
      · cases hp
        exact mvUsed_keeps (modCell_keeps h)
      · cases hp
    · cases hp
      exact mvWrite_keeps h

theorem mvStoreImage_keeps {a : StAt} {b' : Nat} {bs : List Byte} (h : Keeps s u) : Keeps s (mvStoreImage u a b' bs).1 := by
  unfold mvStoreImage
  split
  next t _ he =>
    have ht : Keeps s t := Keeps.fst (mvWrite_keeps h) he
    exact mvWrite_keeps ht
  · exact mvWrite_keeps h

theorem mvSendBlock_keeps {a : StAt} {b' : Nat} {bs : List Byte} (h : Keeps s u) : Keeps s (mvSendBlock u a b' bs) := by
  unfold mvSendBlock
  split
  · exact queueItem_keeps h
  · exact h

theorem mvReadUsed_keeps {a : StAt} {b' : Nat} (h : Keeps s u) : Keeps s (mvReadUsed u a b') := by
  unfold mvReadUsed
  split
  · exact ite_keeps (mvUsed_keeps h) h
  · exact h

theorem mvTake_keeps {a : StAt} {r : State × MemR Unit} (hr : Keeps s r.1) : Keeps s (mvTake a r).1 := by
  unfold mvTake
  split
  · exact takeItem_keeps hr
  · exact hr

theorem moverStep_keeps {a : StAt} {x : Station} {b : Nat} {p : State × MemR Unit} (h : Keeps s u)
    (hp : moverStep u a x b = some p) : Keeps s p.1 := by
  unfold moverStep at hp
  split at hp
  · obtain ⟨r, -, rfl⟩ := Option.map_eq_some_iff.mp hp
    cases r with
    | ok bs => exact ite_fst_keeps (mvSendBlock_keeps (mvReadUsed_keeps h)) (mvStoreImage_keeps (mvReadUsed_keeps h))
    | fault k => exact h
    | ask q => exact h
  · split at hp
    · obtain ⟨i, -, hi⟩ := Option.bind_eq_some_iff.mp hp
      obtain ⟨r, hr, rfl⟩ := Option.map_eq_some_iff.mp hi
      exact mvTake_keeps (mvWriteBlock_keeps h hr)
    · split at hp
      · exact mvWriteBlock_keeps h hp
      · cases hp
        exact h
      · cases hp
        exact h
  · obtain ⟨i, -, rfl⟩ := Option.map_eq_some_iff.mp hp
    exact mvTake_keeps (mvStoreImage_keeps h)
  · cases hp
    split
    · exact mvSendBlock_keeps h
    · exact h
    · exact h

theorem mvEntryBytes_keeps {a : StAt} {x : Station} (h : Keeps s u) : Keeps s (mvEntryBytes u a x) := by
  unfold mvEntryBytes
  dsimp only
  split
  · exact h
  · split
    · exact h
    · exact ite_keeps h (stBytes_keeps h)

theorem execMoverBlock_runs {d : DieId} {slot station : Nat} (h : Keeps s u) : Runs s (execMoverBlock d slot station u) := by
  unfold execMoverBlock
  split
  · exact nx_runs h
  · dsimp only
    refine ite_runs (nx_runs h) (ite_runs (nx_runs (haltMover_keeps h)) ?_)
    split
    · exact nx_runs h
    next t k ht => exact nx_runs (haltMover_keeps (moverStep_keeps h ht))
    · exact nx_runs (askPeers_keeps h)
    next t _ ht =>
      have hstep : Keeps s t := moverStep_keeps h ht
      exact nx_runs (moverAsks_keeps (stMod_keeps (dropAnswers_keeps (mvEntryBytes_keeps (ite_keeps hstep (stBytes_keeps hstep))))))

/-! ### Reduction -/

theorem popItem_keeps {a : StAt} {r : Nat} (h : Keeps s u) : Keeps s (popItem u a r) := by
  unfold popItem
  exact modRoute_keeps (stMod_keeps h)

theorem oweLines_keeps {a : StAt} {r n : Nat} (h : Keeps s u) : Keeps s (oweLines u a r n) := modRoute_keeps h

theorem execRedItemJudge_runs {d : DieId} {slot route : Nat} (h : Keeps s u) : Runs s (execRedItemJudge d slot route u) := by
  unfold execRedItemJudge
  split
  · exact nx_runs h
  · dsimp only
    split
    · exact nx_runs h
    · split
      · split
        · exact nx_runs h
        · exact nx_runs (modLink_keeps (oweLines_keeps (popItem_keeps h)))
        · exact nx_runs (modLink_keeps (oweLines_keeps (popItem_keeps h)))
        · exact nx_runs (modLink_keeps (popItem_keeps h))
        · exact nx_runs (modLink_keeps (popItem_keeps h))
      · exact nx_runs h

theorem bucketFault_keeps {a : StAt} {tag code : Nat} (h : Keeps s u) : Keeps s (bucketFault u a tag code) :=
  logErr_keeps (stepNonfinite_keeps h)

theorem execRedFold_runs {d : DieId} {slot station : Nat} (h : Keeps s u) : Runs s (execRedFold d slot station u) := by
  unfold execRedFold
  split
  · exact nx_runs h
  · dsimp only
    split
    · exact nx_runs h
    · split
      · exact nx_runs h
      · split
        · exact nx_runs h
        · exact nx_runs (ite_keeps (bucketFault_keeps (ite_keeps (stepNonfinite_keeps (modLink_keeps (oweLines_keeps h)))
            (modLink_keeps (oweLines_keeps h)))) (ite_keeps (stepNonfinite_keeps (modLink_keeps (oweLines_keeps h)))
            (modLink_keeps (oweLines_keeps h))))

theorem emitPlace_keeps {a : StAt} {p : Place} (h : Keeps s u) : Keeps s (emitPlace u a p) := by
  unfold emitPlace
  dsimp only
  refine modLink_keeps (ite_keeps (countClosed_keeps (foldl_keeps ?_ h)) (foldl_keeps ?_ h))
  · intro w x hw
    exact ite_keeps (stepNonfinite_keeps (queueItem_keeps hw)) (queueItem_keeps hw)
  · intro w x hw
    exact ite_keeps (stepNonfinite_keeps (queueItem_keeps hw)) (queueItem_keeps hw)

theorem execRedEmit_runs {d : DieId} {slot station tag : Nat} (h : Keeps s u) : Runs s (execRedEmit d slot station tag u) := by
  unfold execRedEmit
  split
  · exact nx_runs h
  · split
    · exact nx_runs h
    · split
      · exact ite_runs (nx_runs (emitPlace_keeps h)) (nx_runs h)
      · exact nx_runs h

theorem execBucketTimeout_runs {d : DieId} {place tag : Nat} (h : Keeps s u) : Runs s (execBucketTimeout d place tag u) := by
  unfold execBucketTimeout
  dsimp only
  split
  · split
    · exact nx_runs h
    · refine nx_runs (emitPlace_keeps (ite_keeps (modLink_keeps (foldl_keeps ?_ h)) (bucketFault_keeps (modLink_keeps (foldl_keeps ?_ h)))))
      · intro w x hw
        exact oweLines_keeps hw
      · intro w x hw
        exact oweLines_keeps hw
  · exact nx_runs h

theorem writeRl_keeps {d : DieId} {place v' : Nat} (h : Keeps s u) : Keeps s (writeRl u d place v') := modLink_keeps h

theorem execRlCtlWrite_runs {agent : Nat} {d : DieId} {place : Nat} {v' : W32} (h : Keeps s u) : Runs s (execRlCtlWrite agent d place v' u)
    :=
  answer_runs h (writeRl_keeps h)

theorem foldl_fst_keeps {α β : Type} {f : State × β → α → State × β} {l : List α} {p : State × β}
    (hf : ∀ q x, Keeps s q.1 → Keeps s (f q x).1) (h : Keeps s p.1) : Keeps s (l.foldl f p).1 := by
  induction l generalizing p with
  | nil => exact h
  | cons x l ih => exact ih (hf p x h)

theorem discardBuckets_keeps {d : DieId} {bs : List Byte} (h : Keeps s u) : Keeps s (discardBuckets u d bs).1 := by
  refine foldl_fst_keeps (fun p x hp => ?_) h
  dsimp only
  exact modLink_keeps hp

/-! ### Queues -/

theorem modCmdQueue_keeps {d : DieId} {q : Nat} {f : Queue → Queue} (h : Keeps s u) : Keeps s (modCmdQueue u d q f) := by
  unfold modCmdQueue
  dsimp only
  split
  · exact update_keeps h
  · exact modQueue_keeps h

theorem modStarted_keeps {d : DieId} {q cseq : Nat} {f : Started → Started} (h : Keeps s u) : Keeps s (modStarted u d q cseq f) :=
  modCmdQueue_keeps h

theorem doneCmd_keeps {d : DieId} {r : CmdRef} {status result : Nat} (h : Keeps s u) : Keeps s (doneCmd u d r status result) :=
  modStarted_keeps h

theorem failCmd_keeps {d : DieId} {r : CmdRef} {status : Nat} (h : Keeps s u) : Keeps s (failCmd u d r status) :=
  doneCmd_keeps (drawFree_keeps h)

theorem markErr_keeps {d : DieId} {r : CmdRef} (h : Keeps s u) : Keeps s (markErr u d r) := modStarted_keeps h

theorem activatePart_keeps {p : Nat} (h : Keeps s u) : Keeps s (activatePart u p) :=
  ite_keeps ((modSec_keeps h).of_dies update_dieKeeps update_dieKeeps) h

theorem initCell_keeps {c : CellLoc} (h : Keeps s u) : Keeps s (initCell u c) := modCell_keeps h

theorem applyParams_keeps {a : StAt} (h : Keeps s u) : Keeps s (applyParams u a) := by
  unfold applyParams
  dsimp only
  refine foldl_keeps ?_ (writeEng_keeps (modC_keeps (writeSched_keeps (modM_keeps h))))
  intro w x hw
  exact modStream_keeps hw

theorem applyTables_keeps {a : StAt} (h : Keeps s u) : Keeps s (applyTables u a) := ite_keeps (modM_keeps h) h

theorem beginUngated_keeps {a : StAt} (h : Keeps s u) : Keeps s (beginUngated u a) := by
  unfold beginUngated
  dsimp only
  refine foldl_keeps ?_ h
  intro w x hw
  exact ite_keeps (beginCell_keeps (stMod_keeps hw)) hw

theorem restartCell_keeps {a : StAt} (h : Keeps s u) : Keeps s (restartCell u a) :=
  foldl_keeps (fun _ _ hw => ite_keeps (beginCell_keeps hw) (ite_keeps (beginCell_keeps hw) hw)) (applyTables_keeps (applyParams_keeps h))

/-! ### Bridge lines -/

theorem sendPeerLines_keeps {d : DieId} {group xid : Nat} {lines : List Nat} (h : Keeps s u) : Keeps s (sendPeerLines u d group xid lines)
    := by
  unfold sendPeerLines
  refine foldl_keeps ?_ h
  intro w x hw
  exact modSeg_keeps hw

theorem lineAnswered_keeps {d : DieId} {seg : Nat} {mem : Nat × Nat} (h : Keeps s u) : Keeps s (lineAnswered u d seg mem) :=
  modGate_keeps (modSeg_keeps h)

theorem crossMem_keeps {d : DieId} {seg : Nat} {l : BrgLine} (h : Keeps s u) : Keeps s (crossMem u d seg l) := by
  unfold crossMem
  split
  · exact h
  · exact ite_keeps (modSeg_keeps h) (ite_keeps (lineAnswered_keeps h) h)

theorem recallFloor_keeps {a : StAt} {port : Nat} (h : Keeps s u) : Keeps s (recallFloor u a port) := stMod_keeps (modSeg_keeps h)

theorem dropFar_keeps {a : StAt} {port : Nat} (h : Keeps s u) : Keeps s (dropFar u a port) := by
  unfold dropFar
  split
  · exact h
  · split
    · exact h
    · exact modRoute_keeps h

theorem discardCrossing_keeps {a : StAt} (h : Keeps s u) : Keeps s (discardCrossing u a) := by
  unfold discardCrossing
  dsimp only
  refine foldl_keeps ?_ (foldl_keeps ?_ h)
  · intro w x hw
    exact modRoute_keeps hw
  · intro w x hw
    refine stMod_keeps ?_
    split
    · exact stMod_keeps (modRoute_keeps hw)
    · exact hw

theorem closePort_keeps {a : StAt} (h : Keeps s u) : Keeps s (closePort u a) := by
  unfold closePort
  dsimp only
  refine foldl_keeps ?_ (ite_keeps (foldl_keeps ?_ h) (modDie_keeps h update_dieKeeps))
  · intro w x hw
    exact freeOut_keeps hw
  · intro w x hw
    exact recallFloor_keeps (dropFar_keeps hw)

/-! ### Switches -/

theorem clearRuntime_keeps {d : DieId} {slot : Nat} (h : Keeps s u) : Keeps s (clearRuntime u d slot) := by
  unfold clearRuntime
  exact modDie_keeps (foldl_keeps (@closePort_keeps s) h) update_dieKeeps

theorem settleRun_keeps {a : StAt} {c : Started} (hv : Keeps s v) : Keeps s (settleRun u v a c) :=
  ite_keeps (doneCmd_keeps hv) (ite_keeps (failCmd_keeps hv) hv)

theorem settleRuns_keeps {d : DieId} {slot : Nat} (h : Keeps s u) : Keeps s (settleRuns u d slot) := by
  unfold settleRuns
  refine foldl_keeps ?_ h
  intro w x hw
  refine modQueue_keeps (foldl_keeps ?_ hw)
  intro w1 y hw1
  exact settleRun_keeps hw1

theorem stopSources_keeps {d : DieId} {slot : Nat} {abort : Bool} (h : Keeps s u) : Keeps s (stopSources u d slot abort) := by
  unfold stopSources
  dsimp only
  refine foldl_keeps ?_ h
  intro w x hw
  refine foldl_keeps ?_ hw
  intro w1 y hw1
  exact ite_keeps (stopStream_keeps hw1) hw1

theorem dropGrantRoutes_keeps {d : DieId} {slot : Nat} (h : Keeps s u) : Keeps s (dropGrantRoutes u d slot) := by
  unfold dropGrantRoutes
  refine foldl_keeps ?_ h
  intro w x hw
  exact modC_keeps hw

theorem dropVotes_keeps {d : DieId} {p : Nat} (h : Keeps s u) : Keeps s (dropVotes u d p) := by
  unfold dropVotes
  refine foldl_keeps ?_ h
  intro w x hw
  exact ite_keeps (modEpoch_keeps hw) hw

theorem closeBill_keeps {d : DieId} {p slot : Nat} {abort : Bool} (h : Keeps s u) : Keeps s (closeBill u d p slot abort) := by
  unfold closeBill
  dsimp only
  refine modPart_keeps (modSlot_keeps (dropVotes_keeps (clearRuntime_keeps (dropGrantRoutes_keeps ?_))))
  split
  · exact ite_keeps (discardBuckets_keeps (settleRuns_keeps h)) (logErr_keeps (discardBuckets_keeps (settleRuns_keeps h)))
  · exact discardBuckets_keeps (settleRuns_keeps h)

theorem setSwitch_keeps {d : DieId} {p : Nat} {w : Option Switch} (h : Keeps s u) : Keeps s (setSwitch u d p w) := modPart_keeps h

theorem beginClose_keeps {d : DieId} {p : Nat} {w : Switch} (h : Keeps s u) : Keeps s (beginClose u d p w) := by
  unfold beginClose
  dsimp only
  split
  · exact stopSources_keeps (setSwitch_keeps h)
  · exact setSwitch_keeps h

theorem startSwitch_keeps {d : DieId} {p : Nat} {w : Select} (h : Keeps s u) : Keeps s (startSwitch u d p w) := by
  unfold startSwitch
  dsimp only
  split
  · exact doneCmd_keeps h
  · split
    · split
      · exact modSlot_keeps (setSwitch_keeps h)
      · split
        · exact failCmd_keeps h
        · exact beginClose_keeps (modSlot_keeps h)
    · split
      · exact setSwitch_keeps h
      · split
        · exact failCmd_keeps h
        · exact beginClose_keeps h

theorem abortSwitch_keeps {d : DieId} {p : Nat} {w : Select} {out : Option Nat} (h : Keeps s u) : Keeps s (abortSwitch u d p w out) := by
  unfold abortSwitch
  split
  · dsimp only
    split
    · exact modSlot_keeps (setSwitch_keeps (failCmd_keeps h))
    · exact setSwitch_keeps (failCmd_keeps h)
  · exact beginClose_keeps h

theorem dropHeld_keeps {d : DieId} {p : Nat} (h : Keeps s u) : Keeps s (dropHeld u d p) := by
  unfold dropHeld
  split
  · exact modPart_keeps (failCmd_keeps h)
  · exact h

theorem holdSelect_keeps {d : DieId} {p : Nat} {w : Select} (h : Keeps s u) : Keeps s (holdSelect u d p w) :=
  modPart_keeps (dropHeld_keeps h)

theorem judgeSelect_keeps {d : DieId} {p : Nat} {w : Select} (h : Keeps s u) : Keeps s (judgeSelect u d p w) := by
  unfold judgeSelect
  dsimp only
  split
  · exact failCmd_keeps h
  · split
    · exact failCmd_keeps h
    · split
      · exact ite_keeps (abortSwitch_keeps (dropHeld_keeps (failCmd_keeps h))) (holdSelect_keeps h)
      · exact ite_keeps (holdSelect_keeps h) (ite_keeps (setSwitch_keeps h) (startSwitch_keeps h))

theorem resumeSelect_keeps {d : DieId} {p : Nat} {w : Select} (h : Keeps s u) : Keeps s (resumeSelect u d p w) :=
  ite_keeps (failCmd_keeps (setSwitch_keeps h)) (ite_keeps (failCmd_keeps (setSwitch_keeps h)) (startSwitch_keeps (setSwitch_keeps h)))

theorem execHeldSelectStart_runs {d : DieId} {part : Nat} (h : Keeps s u) : Runs s (execHeldSelectStart d part u) := by
  unfold execHeldSelectStart
  dsimp only
  split
  · exact nx_runs (judgeSelect_keeps (modPart_keeps h))
  · exact nx_runs h

theorem execSwitchQuiescence_runs {d : DieId} {part : Nat} (h : Keeps s u) : Runs s (execSwitchQuiescence d part u) := by
  unfold execSwitchQuiescence
  split
  · exact ite_runs (nx_runs (beginClose_keeps h)) (nx_runs h)
  · exact nx_runs h

theorem execSwitchClose_runs {d : DieId} {part : Nat} (h : Keeps s u) : Runs s (execSwitchClose d part u) := by
  unfold execSwitchClose
  split
  · exact nx_runs h
  · dsimp only
    split
    · split
      · exact nx_runs h
      · split
        · exact nx_runs (setSwitch_keeps (failCmd_keeps (closeBill_keeps h)))
        · refine nx_runs (setSwitch_keeps ?_)
          split
          · exact modSlot_keeps (closeBill_keeps h)
          · exact closeBill_keeps h
    · split
      · exact nx_runs h
      · split
        · exact nx_runs (setSwitch_keeps (failCmd_keeps h))
        · refine nx_runs (setSwitch_keeps ?_)
          split
          · exact modSlot_keeps h
          · exact h

theorem execSwitchReset_runs {d : DieId} {part : Nat} (h : Keeps s u) : Runs s (execSwitchReset d part u) := by
  unfold execSwitchReset
  split
  · exact nx_runs h
  · dsimp only
    split
    · exact nx_runs h
    · split
      · refine nx_runs (setSwitch_keeps (doneCmd_keeps (foldl_keeps ?_ h)))
        intro w x hw
        exact initCell_keeps hw
      · refine nx_runs (setSwitch_keeps (foldl_keeps ?_ h))
        intro w x hw
        exact initCell_keeps hw

theorem loadCredits_keeps {d : DieId} {slot : Nat} (h : Keeps s u) : Keeps s (loadCredits u d slot) := by
  unfold loadCredits
  dsimp only
  refine foldl_keeps ?_ (clearRuntime_keeps h)
  intro w x hw
  exact modRoute_keeps hw

theorem execSwitchConfigure_runs {d : DieId} {part : Nat} (h : Keeps s u) : Runs s (execSwitchConfigure d part u) := by
  unfold execSwitchConfigure
  split
  · exact nx_runs h
  · split
    · exact nx_runs h
    · exact ite_runs (nx_runs h) (nx_runs (setSwitch_keeps (foldl_keeps (fun _ _ hw => applyParams_keeps hw) (loadCredits_keeps h))))

theorem execSwitchTables_runs {d : DieId} {part : Nat} (h : Keeps s u) : Runs s (execSwitchTables d part u) := by
  unfold execSwitchTables
  split
  · exact nx_runs h
  · split
    · exact nx_runs h
    · exact ite_runs (nx_runs h) (nx_runs (setSwitch_keeps (foldl_keeps (fun _ _ hw => applyTables_keeps hw) h)))

theorem openChain_keeps {a : StAt} (h : Keeps s u) : Keeps s (openChain u a) := by
  unfold openChain
  dsimp only
  refine foldl_keeps ?_ (foldl_keeps ?_ h)
  · intro w x hw
    exact modPeer_keeps hw
  · intro w x hw
    exact modPeer_keeps hw

theorem openBill_keeps {d : DieId} {p t : Nat} (h : Keeps s u) : Keeps s (openBill u d p t) := by
  unfold openBill
  dsimp only
  refine foldl_keeps (@beginUngated_keeps s) (foldl_keeps (@openChain_keeps s) (foldl_keeps ?_ (modPart_keeps (modSlot_keeps h))))
  intro w x hw
  exact modQueue_keeps hw

theorem execSwitchOpen_runs {d : DieId} {part : Nat} (h : Keeps s u) : Runs s (execSwitchOpen d part u) := by
  unfold execSwitchOpen
  split
  · exact nx_runs h
  · split
    · exact nx_runs h
    · exact ite_runs (nx_runs h) (nx_runs (openBill_keeps (setSwitch_keeps (doneCmd_keeps h))))

theorem waitCmd_keeps {d : DieId} {r : CmdRef} (h : Keeps s u) : Keeps s (waitCmd u d r) := modStarted_keeps h

theorem execBillLoad_runs {d : DieId} {q cseq : Nat} (h : Keeps s u) : Runs s (execBillLoad d q cseq u) := by
  unfold execBillLoad
  split
  · exact nx_runs h
  · exact ite_runs (nx_runs (failCmd_keeps h)) (ite_runs (nx_runs (failCmd_keeps h))
      (nx_runs (modDie_keeps (modSlot_keeps (waitCmd_keeps h)) update_dieKeeps)))

theorem execBillUnload_runs {d : DieId} {q cseq : Nat} (h : Keeps s u) : Runs s (execBillUnload d q cseq u) := by
  unfold execBillUnload
  split
  · exact nx_runs h
  · exact ite_runs (nx_runs (failCmd_keeps h)) (ite_runs (nx_runs (doneCmd_keeps h))
      (ite_runs (nx_runs (failCmd_keeps h)) (nx_runs (modSlot_keeps (doneCmd_keeps h)))))

theorem execBillSelect_runs {d : DieId} {q cseq : Nat} (h : Keeps s u) : Runs s (execBillSelect d q cseq u) := by
  unfold execBillSelect
  split
  · exact nx_runs h
  · exact nx_runs (judgeSelect_keeps (waitCmd_keeps (ite_keeps (activatePart_keeps h) h)))

theorem modLoad_keeps {d : DieId} {f : Load → Load} (h : Keeps s u) : Keeps s (modLoad u d f) := modDie_keeps h update_dieKeeps

theorem execBillLoadBegin_runs {d : DieId} (h : Keeps s u) : Runs s (execBillLoadBegin d u) := by
  unfold execBillLoadBegin
  split
  · exact ite_runs (nx_runs h) (nx_runs (askTransfer_keeps (modLoad_keeps h)))
  · exact nx_runs h

theorem placeImages_keeps {a : StAt} (h : Keeps s u) : Keeps s (placeImages u a) := modM_keeps h

theorem endLoad_keeps {d : DieId} {l : Load} {b' : List Byte} {status result : Nat} (h : Keeps s u) : Keeps s
    (endLoad u d l b' status result) := by
  unfold endLoad
  dsimp only
  split
  · exact resumeSelect_keeps (ite_keeps (foldl_keeps (@placeImages_keeps s) (modSlot_keeps
      (doneCmd_keeps (modDie_keeps h update_dieKeeps)))) (modSlot_keeps (doneCmd_keeps (modDie_keeps h update_dieKeeps))))
  · exact ite_keeps (foldl_keeps (@placeImages_keeps s) (modSlot_keeps (doneCmd_keeps (modDie_keeps h update_dieKeeps))))
      (modSlot_keeps (doneCmd_keeps (modDie_keeps h update_dieKeeps)))

theorem recLoad_keeps {d : DieId} {l : Load} {k : Nat} (h : Keeps s u) : Keeps s (recLoad u d l k) := ite_keeps h (recUncorr_keeps h)

theorem execBillLoadComplete_runs {d : DieId} (h : Keeps s u) : Runs s (execBillLoadComplete d u) := by
  unfold execBillLoadComplete
  split
  · exact nx_runs h
  · dsimp only
    split
    · exact nx_runs h
    · split
      · exact nx_runs (endLoad_keeps (drawFree_keeps (drawFree_keeps (recLoad_keeps h))))
      · exact nx_runs (askPeers_keeps h)
      · exact ite_runs (nx_runs (endLoad_keeps (dropAnswers_keeps h))) (nx_runs (endLoad_keeps (drawFree_keeps (dropAnswers_keeps h))))

end Sys2Proof.Machine
end

section
/-! The operations of commands, functions, clocks and links keep the relation. -/

namespace Sys2Proof.Machine

variable {s u v : State}

/-! ### Command queues -/

theorem recQueue_keeps {d : DieId} {q code addrKind addr : Nat} (h : Keeps s u) : Keeps s (recQueue u d q code addrKind addr) :=
  logErr_keeps h

theorem queueIrq_keeps {d : DieId} {q : Nat} (h : Keeps s u) : Keeps s (queueIrq u d q) := ite_keeps (sendIrq_keeps h) h

theorem setHalted_keeps {d : DieId} {q cause : Nat} (h : Keeps s u) : Keeps s (setHalted u d q cause) :=
  ite_keeps (modCmdQueue_keeps h) (queueIrq_keeps (modCmdQueue_keeps h))

theorem ringWrite_keeps {d : DieId} {q off : Nat} {bs : List Byte} (h : Keeps s u) : MemKeeps s (ringWrite u d q off bs) := by
  unfold ringWrite
  dsimp only
  split
  · split
    · exact ask_keeps
    · split
      next t he =>
        have ht : Keeps s t := Keeps.snd (hostWrite_keeps h) he
        exact ok_keeps ht
      · exact fault_keeps
  · split
    · exact ask_keeps
    · split
      next t _ he _ =>
        have ht : Keeps s t := MemKeeps.ok (writeVA_keeps h) he
        exact ok_keeps (dropWritten_keeps ht)
      · exact writeVA_keeps h

theorem ringFault_keeps {d : DieId} {q off : Nat} (h : Keeps s u) : Keeps s (ringFault u d q off) := setHalted_keeps (recQueue_keeps h)

theorem tryRing_keeps {d : DieId} {q off : Nat} {bs : List Byte} (h : Keeps s u) : Keeps s (tryRing u d q off bs).1 := by
  unfold tryRing
  split
  next t he =>
    have ht : Keeps s t := MemKeeps.ok (ringWrite_keeps h) he
    exact ht
  · exact ringFault_keeps h
  · exact askPeers_keeps h

theorem tryHeader_keeps {d : DieId} {q : Nat} (h : Keeps s u) : Keeps s (tryHeader u d q).1 := tryRing_keeps h

theorem ringTake_keeps {d : DieId} {q : Nat} (h : Keeps s u) : Keeps s (ringTake u d q).1 := by
  unfold ringTake
  dsimp only
  split
  · refine ite_fst_keeps h ?_
    split
    next t _ he =>
      have ht : Keeps s t := Keeps.fst (tryHeader_keeps h) he
      exact modCmdQueue_keeps ht
    next t he =>
      have ht : Keeps s t := Keeps.fst (tryHeader_keeps h) he
      exact ht
  · refine ite_fst_keeps ?_ ?_
    · split
      next t _ he =>
        have ht : Keeps s t := Keeps.fst (tryHeader_keeps h) he
        exact ite_keeps (queueIrq_keeps (modCmdQueue_keeps ht)) (modCmdQueue_keeps ht)
      next t he =>
        have ht : Keeps s t := Keeps.fst (tryHeader_keeps h) he
        exact ht
    · split
      next t he =>
        have ht : Keeps s t := Keeps.fst (tryRing_keeps h) he
        exact modCmdQueue_keeps ht
      next t he =>
        have ht : Keeps s t := Keeps.fst (tryRing_keeps h) he
        exact modCmdQueue_keeps ht
      next t he =>
        have ht : Keeps s t := Keeps.fst (tryRing_keeps h) he
        exact ht

theorem ringRun_keeps {d : DieId} {q : Nat} : ∀ {n : Nat} {u : State}, Keeps s u → Keeps s (ringRun d q n u)
  | 0, _, h => h
  | _ + 1, _, h => ite_keeps (ringRun_keeps (ringTake_keeps h)) (ringTake_keeps h)

theorem runRing_keeps {d : DieId} {q : Nat} (h : Keeps s u) : Keeps s (runRing u d q) := ringRun_keeps h

theorem runRings_keeps {d : DieId} (h : Keeps s u) : Keeps s (runRings u d) := by
  unfold runRings
  refine runRing_keeps (foldl_keeps ?_ h)
  intro w x hw
  exact runRing_keeps hw

theorem writeHeader_keeps {d : DieId} {q : Nat} (h : Keeps s u) : Keeps s (writeHeader u d q) :=
  ite_keeps h (runRing_keeps (modCmdQueue_keeps h))

theorem headerAfter_keeps {d : DieId} {q : Nat} (hv : Keeps s v) : Keeps s (headerAfter u d q v) := ite_keeps hv (writeHeader_keeps hv)

theorem haltQueue_keeps {d : DieId} {q cause : Nat} (h : Keeps s u) : Keeps s (haltQueue u d q cause) :=
  writeHeader_keeps (setHalted_keeps (recQueue_keeps h))

theorem dropRuns_keeps {d : DieId} {q : Nat} {which : Nat → Bool} (h : Keeps s u) : Keeps s (dropRuns u d q which) := by
  unfold dropRuns
  dsimp only
  refine modFlash_keeps (foldl_keeps ?_ h)
  intro w x hw
  exact dropReads_keeps hw

theorem completeRecord_keeps {d : DieId} {q : Nat} {c : Started} {status result : Nat} (h : Keeps s u) : Keeps s
    (completeRecord u d q c status result) :=
  ite_keeps (ite_keeps (dropRuns_keeps h) (ite_keeps (bump_keeps (dropRuns_keeps h)) (bump_keeps (bump_keeps (dropRuns_keeps h)))))
    (runRing_keeps (modCmdQueue_keeps (ite_keeps (dropRuns_keeps h) (ite_keeps (bump_keeps (dropRuns_keeps h))
    (bump_keeps (bump_keeps (dropRuns_keeps h)))))))

theorem dropWrite_keeps {d : DieId} {q : Nat} (h : Keeps s u) : Keeps s (dropWrite u d q) := modCmdQueue_keeps h

theorem judgeWrite_keeps {d : DieId} {q off : Nat} {data : List Byte} (h : Keeps s u) : Keeps s (judgeWrite u d q off data) :=
  ite_keeps (ite_keeps (writeHeader_keeps (dropWrite_keeps h)) (writeHeader_keeps (recQueue_keeps (modCmdQueue_keeps (dropWrite_keeps h)))))
    (ite_keeps (writeHeader_keeps (dropWrite_keeps h)) (ite_keeps (haltQueue_keeps (dropWrite_keeps h))
    (ite_keeps (haltQueue_keeps (dropWrite_keeps h)) (writeHeader_keeps (modCmdQueue_keeps h)))))

theorem execCommandWrite_runs {agent : Nat} {d : DieId} {q off : Nat} {data : List Byte} (h : Keeps s u) : Runs s
    (execCommandWrite agent d q off data u) :=
  ite_runs (nx_runs (judgeWrite_keeps h)) (nx_runs (emit_keeps h))

theorem startHead_keeps {d : DieId} {q w : Nat} {rest : List Nat} {c : Started} (h : Keeps s u) : Keeps s (startHead u d q w rest c) :=
  writeHeader_keeps (ite_keeps (modCmdQueue_keeps h) (bump_keeps (modCmdQueue_keeps h)))

theorem flStart_keeps (h : Keeps s u) : Keeps s (flStart u) := by
  unfold flStart
  dsimp only
  split
  · exact h
  · exact ite_keeps h (ite_keeps (startHead_keeps h) (failCmd_keeps (startHead_keeps h)))

theorem askRun_keeps {x : FlRun} (h : Keeps s u) : Keeps s (askRun u x) := by
  unfold askRun
  exact modFlash_keeps h

theorem askFor_keeps {d : DieId} {q cseq first count : Nat} (h : Keeps s u) : Keeps s (askFor u d q cseq first count) := askRun_keeps h

theorem captured_keeps {d : DieId} {r : CmdRef} {e : Nat} (h : Keeps s u) : Keeps s (captured u d r e) := modStarted_keeps h

theorem copyCapture_keeps {d : DieId} {r : CmdRef} {w : Nat} (h : Keeps s u) : Keeps s (copyCapture u d r w) := by
  unfold copyCapture
  split
  · exact failCmd_keeps h
  · exact ite_keeps (failCmd_keeps h) (ite_keeps h (ite_keeps (askFor_keeps (captured_keeps h)) (captured_keeps h)))

theorem versionTest_keeps {d : DieId} {r : CmdRef} {w vc : Nat} (h : Keeps s u) : Keeps s (versionTest u d r w vc) :=
  ite_keeps (doneCmd_keeps h) h

theorem waitCapture_keeps {d : DieId} {r : CmdRef} {w : Nat} (h : Keeps s u) : Keeps s (waitCapture u d r w) := by
  unfold waitCapture
  split
  · exact failCmd_keeps h
  · exact versionTest_keeps (captured_keeps h)

theorem startCheck_keeps {d : DieId} {r : CmdRef} {w : Nat} (h : Keeps s u) : Keeps s (startCheck u d r w) :=
  ite_keeps (copyCapture_keeps h) (ite_keeps (waitCapture_keeps h) h)

theorem execCommandStart_runs {d : DieId} {q : Nat} (h : Keeps s u) : Runs s (execCommandStart d q u) := by
  unfold execCommandStart
  dsimp only
  split
  · exact nx_runs (flStart_keeps h)
  · split
    · exact nx_runs h
    · split
      · exact nx_runs h
      · split
        · exact nx_runs h
        · split
          · exact nx_runs (failCmd_keeps (startHead_keeps h))
          · split
            · exact nx_runs (doneCmd_keeps (startHead_keeps h))
            · split
              · split
                · exact nx_runs (failCmd_keeps (startHead_keeps h))
                · exact nx_runs (modQueue_keeps (modStarted_keeps (startHead_keeps h)))
              · exact nx_runs (startCheck_keeps (startHead_keeps h))

theorem execRun_runs {d : DieId} {q cseq : Nat} (h : Keeps s u) : Runs s (execRun d q cseq u) := by
  unfold execRun
  split
  · exact nx_runs (waitCmd_keeps (emitTokens_keeps h))
  · exact nx_runs h

theorem finishCmd_keeps {d : DieId} {q : Nat} {c : Started} {status result : Nat} (h : Keeps s u) : Keeps s
    (finishCmd u d q c status result) :=
  completeRecord_keeps (modCmdQueue_keeps h)

theorem execCommandComplete_runs {d : DieId} {q cseq : Nat} (h : Keeps s u) : Runs s (execCommandComplete d q cseq u) := by
  unfold execCommandComplete
  split
  · exact nx_runs h
  · split
    · exact nx_runs h
    · split
      · exact nx_runs (finishCmd_keeps h)
      · exact nx_runs h

theorem cancelAll_keeps {d : DieId} {q : Nat} (h : Keeps s u) : Keeps s (cancelAll u d q) := by
  unfold cancelAll
  dsimp only
  refine foldl_keeps ?_ h
  intro w x hw
  exact completeRecord_keeps (drawFree_keeps hw)

theorem flushQueue_keeps {d : DieId} {q : Nat} (h : Keeps s u) : Keeps s (flushQueue u d q) := by
  unfold flushQueue
  dsimp only
  refine writeHeader_keeps (modCmdQueue_keeps (cancelAll_keeps (foldl_keeps ?_ h)))
  intro w x hw
  exact ite_keeps (failCmd_keeps hw) hw

theorem queueIgnored_keeps {d : DieId} {q : Nat} (h : Keeps s u) : Keeps s (queueIgnored u d q) := writeHeader_keeps (modCmdQueue_keeps h)

theorem resumeAct_keeps {d : DieId} {q : Nat} (h : Keeps s u) : Keeps s (resumeAct u d q) :=
  ite_keeps (writeHeader_keeps (modCmdQueue_keeps h)) (queueIgnored_keeps h)

theorem flushAct_keeps {d : DieId} {q : Nat} (h : Keeps s u) : Keeps s (flushAct u d q) :=
  ite_keeps (flushQueue_keeps h) (queueIgnored_keeps h)

theorem queueAct_keeps {d : DieId} {q action : Nat} (h : Keeps s u) : Keeps s (queueAct u d q action) := by
  unfold queueAct
  split
  · exact resumeAct_keeps h
  · exact flushAct_keeps h
  · exact h

theorem queueReg_runs {a : Nat} {d : DieId} {q : Nat} (h : Keeps s u) (hv : Keeps s v) : Runs s (queueReg u a d q v) := answer_runs h hv

theorem execQueueResume_runs {agent : Nat} {d : DieId} {q : Nat} (h : Keeps s u) : Runs s (execQueueResume agent d q u) :=
  queueReg_runs h (queueAct_keeps h)

theorem execQueueFlush_runs {agent : Nat} {d : DieId} {q : Nat} (h : Keeps s u) : Runs s (execQueueFlush agent d q u) :=
  queueReg_runs h (queueAct_keeps h)

theorem queueStarting_keeps {d : DieId} {q : Nat} (h : Keeps s u) : Keeps s (queueStarting u d q) :=
  writeHeader_keeps (modCmdQueue_keeps (dropRuns_keeps h))

theorem activateOwner_keeps {x : Option Nat} (h : Keeps s u) : Keeps s (activateOwner u x) := by
  unfold activateOwner
  split
  · exact activatePart_keeps h
  · exact h

theorem queueDraining_keeps {d : DieId} {q : Nat} (h : Keeps s u) : Keeps s (queueDraining u d q) :=
  ite_keeps (flushQueue_keeps (modCmdQueue_keeps h)) (writeHeader_keeps (modCmdQueue_keeps h))

theorem writeQueueCtl_keeps {d : DieId} {q : Nat} {en irqEn : Bool} (h : Keeps s u) : Keeps s (writeQueueCtl u d q en irqEn) :=
  ite_keeps (ite_keeps (queueStarting_keeps (activateOwner_keeps (modQueue_keeps (modQueue_keeps h))))
    (headerAfter_keeps (modQueue_keeps (modQueue_keeps h)))) (ite_keeps (queueDraining_keeps (modQueue_keeps (modQueue_keeps h)))
    (headerAfter_keeps (modQueue_keeps (modQueue_keeps h))))

theorem execQueueEnable_runs {agent : Nat} {d : DieId} {q : Nat} {en irqEn : Bool} (h : Keeps s u) : Runs s
    (execQueueEnable agent d q en irqEn u) :=
  queueReg_runs h (writeQueueCtl_keeps h)

/-! ### Commands -/

theorem recCmdFault_keeps {d : DieId} {r : CmdRef} {kind va addrKind hpa : Nat} (h : Keeps s u) : Keeps s
    (recCmdFault u d r kind va addrKind hpa) := by
  unfold recCmdFault
  split
  · exact ite_keeps h (markErr_keeps (ite_keeps (recUncorr_keeps h) (logErr_keeps h)))
  · exact h

theorem cmdAsks_keeps {d : DieId} {r : CmdRef} (h : Keeps s u) : Keeps s (cmdAsks u d r) := askTransfer_keeps h

/-- The state that an entry of a descriptor command leaves, where it leaves one, keeps the relation. -/
def EntKeeps (s : State) : EntR → Prop
  | .done t => Keeps s t
  | .skip | .stop _ | .fault _ _ | .wait | .ask _ => True

theorem EntKeeps.done {s t : State} {r : EntR} (h : EntKeeps s r) (ht : r = .done t) : Keeps s t := by
  subst ht
  exact h

theorem ite_entKeeps {c : Prop} [Decidable c] {q r : EntR} (hq : EntKeeps s q) (hr : EntKeeps s r) :
    EntKeeps s (if c then q else r) := by
  split
  · exact hq
  · exact hr

theorem createEntry_keeps {d : DieId} {q p : Nat} {c : Started} {n : Nat} (h : Keeps s u) :
    EntKeeps s (createEntry u d q p c n) := by
  unfold createEntry
  dsimp only
  refine ite_entKeeps trivial ?_
  split
  · trivial
  · trivial
  · refine ite_entKeeps trivial (ite_entKeeps trivial (ite_entKeeps (setTdt_keeps h) ?_))
    split
    · trivial
    · trivial
    next t ht => exact setTdt_keeps ((writeVA_keeps h).ok ht)

theorem updateEntry_keeps {d : DieId} {q p : Nat} {c : Started} {n : Nat} (h : Keeps s u) :
    EntKeeps s (updateEntry u d q p c n) := by
  unfold updateEntry
  refine ite_entKeeps trivial ?_
  split
  · trivial
  · trivial
  · exact ite_entKeeps trivial (ite_entKeeps trivial (ite_entKeeps trivial (setTdt_keeps h)))

theorem freeEntry_keeps {d : DieId} {q p : Nat} {c : Started} {n : Nat} (h : Keeps s u) :
    EntKeeps s (freeEntry u d q p c n) := ite_entKeeps trivial (ite_entKeeps trivial (setTdt_keeps h))

theorem runEntries_keeps {d : DieId} {q p cseq : Nat} {f : State → DieId → Nat → Nat → Started → Nat → EntR}
    (hf : ∀ w d q p c n, Keeps s w → EntKeeps s (f w d q p c n)) : ∀ {left : Nat} {u : State} {c : Started} {n k : Nat},
    Keeps s u → Keeps s (runEntries d q p cseq f left u c n k)
  | 0, _, _, _, _, h => doneCmd_keeps h
  | left + 1, u, c, n, k, h => by
    unfold runEntries
    refine ite_keeps (cmdAsks_keeps h) ?_
    have hent := hf u d q p c n h
    split
    next t ht => exact runEntries_keeps hf (modStarted_keeps (dropAnswers_keeps (hent.done ht)))
    · exact runEntries_keeps hf (modStarted_keeps h)
    · exact doneCmd_keeps h
    · exact doneCmd_keeps (recCmdFault_keeps h)
    · exact h
    · exact askPeers_keeps h

theorem descCmd_keeps {d : DieId} {q cseq op : Nat} {f : State → DieId → Nat → Nat → Started → Nat → EntR}
    (hf : ∀ w d q p c n, Keeps s w → EntKeeps s (f w d q p c n)) (h : Keeps s u) : Keeps s (descCmd u d q cseq op f) := by
  unfold descCmd
  split
  · exact h
  · exact ite_keeps (failCmd_keeps h) (runEntries_keeps hf (waitCmd_keeps h))

theorem execDescCreate_runs {d : DieId} {q cseq : Nat} (h : Keeps s u) : Runs s (execDescCreate d q cseq u) :=
  nx_runs (descCmd_keeps (fun _ _ _ _ _ _ => createEntry_keeps) h)

theorem execDescUpdate_runs {d : DieId} {q cseq : Nat} (h : Keeps s u) : Runs s (execDescUpdate d q cseq u) :=
  nx_runs (descCmd_keeps (fun _ _ _ _ _ _ => updateEntry_keeps) h)

theorem execDescFree_runs {d : DieId} {q cseq : Nat} (h : Keeps s u) : Runs s (execDescFree d q cseq u) :=
  nx_runs (descCmd_keeps (fun _ _ _ _ _ _ => freeEntry_keeps) h)

theorem recordMeas_keeps {d : DieId} {p : Nat} {m : Meas} (h : Keeps s u) : Keeps s (recordMeas u d p m) := by
  unfold recordMeas
  exact modSec_keeps h

theorem copyPart_keeps {d : DieId} {p : Nat} {caches : List Tlb} {srcAt : State → Nat → Option Byte} {dst mask : Nat} :
    ∀ {n : Nat} {u : State}, Keeps s u → Keeps s (copyPart d p caches srcAt dst mask n u)
  | 0, _, h => h
  | n + 1, u, h => by
    have hn : Keeps s (copyPart d p caches srcAt dst mask n u) := copyPart_keeps h
    refine ite_keeps hn ?_
    split
    · exact hn
    · split
      next t ht => exact (writeVA_keeps hn).ok ht
      · exact hn

theorem copyFault_keeps {d : DieId} {r : CmdRef} {p : Nat} {srcAt : State → Nat → Option Byte} {dst len k va addrKind hpa : Nat}
    (h : Keeps s u) : Keeps s (copyFault u d r p srcAt dst len k va addrKind hpa) :=
  doneCmd_keeps (recCmdFault_keeps (copyPart_keeps (drawFree_keeps (drawFree_keeps h))))

theorem copyWrite_keeps {d : DieId} {r : CmdRef} {p : Nat} {c : Started} {e : Nat} {srcAt : State → Nat → Option Byte} {bs : List Byte}
    (h : Keeps s u) : Keeps s (copyWrite u d r p c e srcAt bs) := by
  unfold copyWrite
  dsimp only
  split
  · exact copyFault_keeps h
  · exact askPeers_keeps h
  next t he =>
    have ht : Keeps s t := MemKeeps.ok (writeVA_keeps h) he
    exact doneCmd_keeps (dropAnswers_keeps (ite_keeps (recordMeas_keeps ht) ht))

theorem copyRun_keeps {d : DieId} {r : CmdRef} {p : Nat} {c : Started} {e : Nat} (h : Keeps s u) : Keeps s (copyRun u d r p c e) := by
  unfold copyRun
  dsimp only
  split
  · split
    · exact cmdAsks_keeps h
    · split
      · exact copyFault_keeps h
      · exact askPeers_keeps h
      · exact copyWrite_keeps h
  · split
    · exact doneCmd_keeps (recCmdFault_keeps (drawFree_keeps h))
    · split
      · exact h
      · split
        · exact ite_keeps (cmdAsks_keeps h) (copyWrite_keeps (noteRun_keeps h))
        · exact h
        · exact copyFault_keeps h

theorem execCopy_runs {d : DieId} {q cseq : Nat} (h : Keeps s u) : Runs s (execCopy d q cseq u) := by
  unfold execCopy
  split
  · exact nx_runs h
  · exact ite_runs (nx_runs (copyCapture_keeps h)) (nx_runs (copyRun_keeps h))

theorem holdGroup_keeps {d : DieId} {q cseq op : Nat} {abandon : Bool} (h : Keeps s u) : Keeps s (holdGroup u d q cseq op abandon) := by
  unfold holdGroup
  split
  · exact h
  · exact ite_keeps (failCmd_keeps h) (ite_keeps h (modEpoch_keeps (waitCmd_keeps h)))

theorem execStepCommit_runs {d : DieId} {q cseq : Nat} (h : Keeps s u) : Runs s (execStepCommit d q cseq u) := nx_runs (holdGroup_keeps h)

theorem execStepAbandon_runs {d : DieId} {q cseq : Nat} (h : Keeps s u) : Runs s (execStepAbandon d q cseq u) := nx_runs (holdGroup_keeps h)

theorem endCommit_keeps {d : DieId} {p g verdict : Nat} (h : Keeps s u) : Keeps s (endCommit u d p g verdict) :=
  modPart_keeps (modEpoch_keeps h)

theorem clearStep_keeps {d : DieId} {p : Nat} (h : Keeps s u) : Keeps s (clearStep u d p) := modPart_keeps h

theorem flipGroup_keeps {d : DieId} {p g : Nat} (h : Keeps s u) : Keeps s (flipGroup u d p g) := by
  unfold flipGroup
  exact modEpoch_keeps (modDie_keeps h update_dieKeeps)

theorem testWaits_keeps {d : DieId} (h : Keeps s u) : Keeps s (testWaits u d) := by
  unfold testWaits
  refine foldl_keeps ?_ h
  intro w x hw
  refine foldl_keeps ?_ hw
  intro w1 y hw1
  exact ite_keeps (versionTest_keeps hw1) hw1

theorem commitPoint_keeps {d : DieId} {p g : Nat} {r : CmdRef} {abandon : Bool} (h : Keeps s u) : Keeps s (commitPoint u d p g r abandon) :=
  ite_keeps (doneCmd_keeps (endCommit_keeps (clearStep_keeps h))) (doneCmd_keeps (endCommit_keeps
    (clearStep_keeps (testWaits_keeps (flipGroup_keeps h)))))

theorem barrierFail_keeps {d : DieId} {p g : Nat} {r : CmdRef} (h : Keeps s u) : Keeps s (barrierFail u d p g r) :=
  failCmd_keeps (endCommit_keeps h)

theorem execStepSettleEnd_runs {d : DieId} {eg : Nat} (h : Keeps s u) : Runs s (execStepSettleEnd d eg u) := by
  unfold execStepSettleEnd
  split
  · dsimp only
    split
    · exact nx_runs h
    · split
      · exact nx_runs (doneCmd_keeps (endCommit_keeps (clearStep_keeps h)))
      · split
        · exact nx_runs (commitPoint_keeps h)
        · split
          · exact nx_runs (barrierFail_keeps h)
          · exact nx_runs (modEpoch_keeps (stMod_keeps h))
  · exact nx_runs h

theorem execBarrierVerdict_runs {d : DieId} {eg : Nat} (h : Keeps s u) : Runs s (execBarrierVerdict d eg u) := by
  unfold execBarrierVerdict
  split
  · split
    · exact nx_runs (commitPoint_keeps h)
    · exact nx_runs h
  · exact nx_runs h

theorem execBarrierTimeout_runs {d : DieId} {eg : Nat} (h : Keeps s u) : Runs s (execBarrierTimeout d eg u) := by
  unfold execBarrierTimeout
  split
  · dsimp only
    split
    · exact ite_runs (nx_runs (barrierFail_keeps h)) (nx_runs h)
    · exact nx_runs h
  · exact nx_runs h

theorem execVersionWait_runs {d : DieId} {q cseq : Nat} (h : Keeps s u) : Runs s (execVersionWait d q cseq u) := by
  unfold execVersionWait
  split
  · exact nx_runs h
  · exact ite_runs (nx_runs (versionTest_keeps h)) (nx_runs (waitCapture_keeps h))

theorem streamCtlAct_keeps {l : StreamLoc} {act : Nat} (h : Keeps s u) : Keeps s (streamCtlAct u l act).1 :=
  ite_fst_keeps (streamActWrite_keeps h) (sfltAct_keeps h)

theorem execStreamCtl_runs {d : DieId} {q cseq : Nat} (h : Keeps s u) : Runs s (execStreamCtl d q cseq u) := by
  unfold execStreamCtl
  split
  · exact nx_runs h
  · exact ite_runs (nx_runs (bump_keeps (failCmd_keeps h))) (ite_runs (nx_runs (failCmd_keeps h))
      (ite_runs (nx_runs (doneCmd_keeps (streamCtlAct_keeps h))) (nx_runs (failCmd_keeps (streamCtlAct_keeps h)))))

/-! ### Functions -/

theorem modFn_keeps {c : CellLoc} {f : Func → Func} (h : Keeps s u) : Keeps s (modFn u c f) := modC_keeps h

theorem cellStarting_keeps {c : CellLoc} (h : Keeps s u) : Keeps s (cellStarting u c) := modC_keeps (initCell_keeps h)

theorem writeCellEn_keeps {c : CellLoc} {en : Bool} (h : Keeps s u) : Keeps s (writeCellEn u c en) :=
  ite_keeps (ite_keeps (cellStarting_keeps (activateOwner_keeps (modFn_keeps h))) (modFn_keeps h)) (modFn_keeps h)

theorem execCellEnable_runs {agent : Nat} {c : CellLoc} {en : Bool} (h : Keeps s u) : Runs s (execCellEnable agent c en u) :=
  cellReg_runs h (writeCellEn_keeps h)

theorem writeCellInit_keeps {c : CellLoc} (h : Keeps s u) : Keeps s (writeCellInit u c) := by
  unfold writeCellInit
  dsimp only
  split
  · exact restartCell_keeps (cellStarting_keeps h)
  · exact cellStarting_keeps h

theorem execCellInit_runs {agent : Nat} {c : CellLoc} (h : Keeps s u) : Runs s (execCellInit agent c u) :=
  cellReg_runs h (writeCellInit_keeps h)

theorem cellStarted_keeps {c : CellLoc} (h : Keeps s u) : Keeps s (cellStarted u c) := by
  unfold cellStarted
  dsimp only
  split
  · exact restartCell_keeps (modC_keeps h)
  · exact modC_keeps h

theorem modCp_keeps {d : DieId} {port : Nat} {f : Func → Func} (h : Keeps s u) : Keeps s (modCp u d port f) :=
  modDie_keeps h update_dieKeeps

theorem setLinkUp_keeps {d : DieId} {port : Nat} {up : Bool} (h : Keeps s u) : Keeps s (setLink_ u d port up) :=
  modDie_keeps h update_dieKeeps

theorem cpStarting_keeps {d : DieId} {port : Nat} (h : Keeps s u) : Keeps s (cpStarting u d port) := modDie_keeps h update_dieKeeps

theorem writeCpEn_keeps {d : DieId} {port : Nat} {en : Bool} (h : Keeps s u) : Keeps s (writeCpEn u d port en) :=
  ite_keeps (ite_keeps (cpStarting_keeps (activateOwner_keeps (modCp_keeps h))) (modCp_keeps h)) (modCp_keeps h)

theorem execCpFnEnable_runs {agent : Nat} {d : DieId} {port : Nat} {en : Bool} (h : Keeps s u) : Runs s (execCpFnEnable agent d port en u)
    :=
  answer_runs h (writeCpEn_keeps h)

theorem flashStarting_keeps (h : Keeps s u) : Keeps s (flashStarting u) := queueStarting_keeps (modFlash_keeps h)

theorem writeFlCtl_keeps {v' : Nat} (h : Keeps s u) : Keeps s (writeFlCtl u v') :=
  ite_keeps (ite_keeps (flashStarting_keeps (modFlash_keeps (modFlash_keeps h))) (modFlash_keeps (modFlash_keeps h)))
    (ite_keeps (queueDraining_keeps (modFlash_keeps (modFlash_keeps h))) (modFlash_keeps (modFlash_keeps h)))

theorem execFlEnable_runs {agent : Nat} {v' : W32} (h : Keeps s u) : Runs s (execFlEnable agent v' u) :=
  flashReg_runs h (writeFlCtl_keeps h)

theorem rebuildMap_keeps (h : Keeps s u) : Keeps s (rebuildMap u) :=
  foldl_keeps (fun _ _ hw => setMapEntry_keeps hw) (foldl_keeps (fun _ _ hw => setMapEntry_keeps hw)
    (update_keeps (h.of_hbm (tabWf_tabKeep 0 _ _))))

theorem execMapReady_runs (h : Keeps s u) : Runs s (execMapReady u) := ite_runs (nx_runs (modFlash_keeps (rebuildMap_keeps h))) (nx_runs h)

theorem execFunctionStartEnd_runs {f : FnId} (h : Keeps s u) : Runs s (execFunctionStartEnd f u) := by
  unfold execFunctionStartEnd
  split
  · exact ite_runs (ite_runs (nx_runs (queueDraining_keeps (modQueue_keeps h))) (nx_runs (writeHeader_keeps (modQueue_keeps h))))
      (nx_runs h)
  · exact ite_runs (nx_runs (cellStarted_keeps h)) (nx_runs h)
  · exact ite_runs (nx_runs (setLinkUp_keeps (modCp_keeps h))) (nx_runs h)
  · exact ite_runs (ite_runs (nx_runs (queueDraining_keeps (modFlash_keeps h))) (nx_runs (writeHeader_keeps (modFlash_keeps h))))
      (nx_runs h)

theorem execFunctionDrainEnd_runs {f : FnId} (h : Keeps s u) : Runs s (execFunctionDrainEnd f u) := by
  unfold execFunctionDrainEnd
  split
  · exact ite_runs (nx_runs (ite_keeps (queueStarting_keeps (modQueue_keeps h)) (writeHeader_keeps (modQueue_keeps h)))) (nx_runs h)
  · exact ite_runs (nx_runs (ite_keeps (cellStarting_keeps (modFn_keeps h)) (modFn_keeps h))) (nx_runs h)
  · exact ite_runs (nx_runs (ite_keeps (cpStarting_keeps (setLinkUp_keeps (modCp_keeps h))) (setLinkUp_keeps (modCp_keeps h)))) (nx_runs h)
  · exact ite_runs (nx_runs (ite_keeps (flashStarting_keeps (modFlash_keeps h)) (writeHeader_keeps (modFlash_keeps h)))) (nx_runs h)

/-! ### Cell registers -/

theorem modSet_keeps {d : DieId} {k : Nat} {f : CntSet → CntSet} (h : Keeps s u) : Keeps s (modSet u d k f) :=
  modDie_keeps h (setSet_dieKeeps update_dieKeeps)

theorem cellClear_keeps {c : CellLoc} {off : Nat} {w : RegW} (h : Keeps s u) : Keeps s (cellClear u c off w) :=
  ite_keeps h (ite_keeps (modM_keeps h) (ite_keeps (modC_keeps h) (ite_keeps (modC_keeps h) h)))

theorem streamRegWrite_keeps {l : StreamLoc} {i : Nat} {w : RegW} (h : Keeps s u) : Keeps s (streamRegWrite u l i w) := by
  unfold streamRegWrite
  dsimp only
  split
  · exact modStream_keeps h
  · exact ite_keeps (writePc_keeps h) h
  · exact ite_keeps (streamActWrite_keeps h) h
  · exact writeSr_keeps h
  · exact ite_keeps h (modStream_keeps h)
  · exact ite_keeps h (sfltAct_keeps h)
  · exact h

theorem cellCtlWrite_keeps {c : CellLoc} {w : RegW} (h : Keeps s u) : Keeps s (cellCtlWrite u c w) :=
  ite_keeps (writeCellInit_keeps (writeCellEn_keeps h)) (writeCellEn_keeps h)

theorem cellPut_keeps {c : CellLoc} {off : Nat} {w : RegW} (h : Keeps s u) : Keeps s (cellPut u c off w) := by
  unfold cellPut
  dsimp only
  split
  · exact streamRegWrite_keeps h
  · split
    · exact modSet_keeps h
    · exact ite_keeps (putDtab_keeps h) h
    · exact ite_keeps h (ite_keeps (cellCtlWrite_keeps h) (ite_keeps (writeEng_keeps h)
        (ite_keeps (writeSched_keeps h) (ite_keeps (modC_keeps h) (ite_keeps (modC_keeps h)
        (ite_keeps (modC_keeps h) (ite_keeps (modC_keeps h) (ite_keeps (modC_keeps h) h))))))))

theorem cellWrite_keeps {agent : Nat} {c : CellLoc} {off : Nat} {w : RegW} (h : Keeps s u) : Keeps s (cellWrite u agent c off w).1 :=
  ite_fst_keeps (holdAccess_keeps h) (cellPut_keeps h)

theorem serveAccess_keeps {c : CellLoc} {a : CellAccess} (h : Keeps s u) : Keeps s (serveAccess u c a) := by
  unfold serveAccess
  dsimp only
  split
  · exact emit_keeps (ite_keeps (cellPut_keeps h) (cellClear_keeps h))
  · exact ite_keeps (ite_keeps (cellPut_keeps h) (cellClear_keeps h)) (emit_keeps (ite_keeps (cellPut_keeps h) (cellClear_keeps h)))

theorem serveCell_keeps : ∀ {n : Nat} {u : State} {c : CellLoc}, Keeps s u → Keeps s (serveCell n u c)
  | 0, _, _, h => h
  | n + 1, u, c, h => by
    unfold serveCell
    split
    · exact h
    · exact ite_keeps h (serveCell_keeps (serveAccess_keeps (modM_keeps h)))

theorem serveDie_keeps {d : DieId} (h : Keeps s u) : Keeps s (serveDie u d) := by
  unfold serveDie
  refine foldl_keeps ?_ h
  intro w x hw
  exact serveCell_keeps hw

theorem serveAccesses_keeps (h : Keeps s u) : Keeps s (serveAccesses u) := serveDie_keeps (serveDie_keeps h)

theorem execDrainResultWrite_runs {c : CellLoc} {op : Nat} (h : Keeps s u) : Runs s (execDrainResultWrite c op u) :=
  nx_runs (serveCell_keeps (drainWrite_keeps h))

/-! ### Time -/

theorem modTime_keeps {f : HdTime → HdTime} (h : Keeps s u) : Keeps s (modTime u f) := update_keeps h

theorem moveTime_keeps {n : Int} (h : Keeps s u) : Keeps s (moveTime u n) :=
  (modTime_keeps h).of_dies (ite_dieKeeps update_dieKeeps update_dieKeeps) (ite_dieKeeps update_dieKeeps update_dieKeeps)

theorem recClock_keeps {w : Option DieId} {code : Nat} (h : Keeps s u) : Keeps s (recClock u w code) := logErr_keeps h

theorem judgeOffset_keeps {off : Int} (h : Keeps s u) : Keeps s (judgeOffset u off) :=
  ite_keeps (recClock_keeps (modTime_keeps h)) (modTime_keeps h)

theorem takeReference_keeps {off : Int} (h : Keeps s u) : Keeps s (takeReference u off) := by
  unfold takeReference
  exact modTime_keeps (judgeOffset_keeps (ite_keeps (moveTime_keeps (modTime_keeps h)) (modTime_keeps h)))

/-! ### Chain ports -/

theorem discardPeer_keeps {d : DieId} {idx : Nat} (h : Keeps s u) : Keeps s (discardPeer u d idx) := by
  unfold discardPeer
  dsimp only
  refine runRings_keeps (modPeer_keeps (foldl_keeps ?_ h))
  intro w x hw
  refine foldl_keeps ?_ hw
  intro w1 y hw1
  exact ite_keeps (stMod_keeps hw1) hw1

theorem failPeer_keeps {d : DieId} {idx : Nat} (h : Keeps s u) : Keeps s (failPeer u d idx) := by
  unfold failPeer
  dsimp only
  refine foldl_keeps ?_ (modPeer_keeps (discardPeer_keeps (logErr_keeps h)))
  intro w x hw
  exact haltStation_keeps hw

theorem writePeerCfg_keeps {d : DieId} {n : Nat} {w : RegW} (h : Keeps s u) : Keeps s (writePeerCfg u d n w) :=
  ite_keeps (ite_keeps h (modPeer_keeps (discardPeer_keeps h))) (ite_keeps (modPeer_keeps (modPeer_keeps h)) (modPeer_keeps h))

theorem writePeerId_keeps {d : DieId} {n : Nat} {w : RegW} (h : Keeps s u) : Keeps s (writePeerId u d n w) := ite_keeps h (modPeer_keeps h)

theorem execPeerCfgWrite_runs {agent : Nat} {d : DieId} {n : Nat} {v' : W64} (h : Keeps s u) : Runs s (execPeerCfgWrite agent d n v' u) :=
  answer_runs h (writePeerCfg_keeps h)

theorem chainDrop_keeps {d : DieId} {port : Nat} (h : Keeps s u) : Keeps s (chainDrop u d port) := by
  unfold chainDrop
  exact modDie_keeps (bump_keeps h) update_dieKeeps

theorem sendNack_keeps {d : DieId} {idx port : Nat} (h : Keeps s u) : Keeps s (sendNack u d idx port) :=
  ite_keeps h (modPeer_keeps (bump_keeps (sendPlain_keeps h)))

theorem consumeSent_keeps {d : DieId} {key lines : Nat} {last : Bool} (h : Keeps s u) : Keeps s (consumeSent u d key lines last) := by
  unfold consumeSent
  split
  · exact h
  · exact ite_keeps (stMod_keeps (modRoute_keeps (modRoute_keeps h))) (stMod_keeps (modRoute_keeps h))

theorem freeAcked_keeps {d : DieId} {idx ackSeq : Nat} (h : Keeps s u) : Keeps s (freeAcked u d idx ackSeq) := by
  unfold freeAcked
  dsimp only
  split
  · exact h
  · refine foldl_keeps ?_ (modPeer_keeps h)
    intro w x hw
    exact ite_keeps hw (consumeSent_keeps hw)

theorem recvFrame_keeps {d : DieId} {port type : Nat} {f : Frame} {act : State → Nat → State} (h : Keeps s u)
    (hact : ∀ w, Keeps s w → ∀ x1, Keeps s (act w x1)) : Keeps s (recvFrame u d port type f act) := by
  unfold recvFrame
  dsimp only
  have hcounted := bump_keeps (d := d) (k := setChain port) (i := 3) (n := frameBytes (portForce (getDie u d) port).2.2.2.2 f)
    (bump_keeps (d := d) (k := setChain port) (i := 1) (n := 1) h)
  split
  · exact h
  · split
    · exact chainDrop_keeps hcounted
    · exact ite_keeps (sendNack_keeps (chainDrop_keeps hcounted)) (chainDrop_keeps hcounted)
    next idx _ =>
      have hfreed := ite_keeps (p := bit f.hflags 2 = true) (freeAcked_keeps (d := d) (idx := idx) (ackSeq := f.ackSeq) hcounted) hcounted
      exact ite_keeps (hact _ hfreed idx) (ite_keeps (hact _ (modPeer_keeps hfreed) idx)
        (ite_keeps (sendNack_keeps (chainDrop_keeps hfreed)) (sendPlain_keeps (chainDrop_keeps hfreed))))

theorem freeLines_keeps {d : DieId} {idx chan n : Nat} (h : Keeps s u) : Keeps s (freeLines u d idx chan n) := modPeer_keeps h

theorem chainPresent_keeps {d : DieId} {port idx chan : Nat} {it : Item} (h : Keeps s u) : Keeps s (chainPresent u d port idx chan it) := by
  unfold chainPresent
  split
  · exact freeLines_keeps (chainDrop_keeps h)
  · exact ite_keeps (queueItem_keeps h) (freeLines_keeps (chainDrop_keeps h))

theorem recvItem_keeps {d : DieId} {port idx : Nat} {f : Frame} (h : Keeps s u) : Keeps s (recvItem u d port idx f) := by
  unfold recvItem
  dsimp only
  split
  · exact freeLines_keeps (chainDrop_keeps h)
  · exact ite_keeps (chainPresent_keeps (modPeer_keeps h)) (modPeer_keeps h)

theorem execItem_runs {d : DieId} {port : Nat} {f : Frame} (h : Keeps s u) : Runs s (execItem d port f u) := by
  unfold execItem
  refine nx_runs (recvFrame_keeps h ?_)
  intro w hw x
  exact recvItem_keeps hw

theorem execToken_runs {d : DieId} {port : Nat} {f : Frame} (h : Keeps s u) : Runs s (execToken d port f u) := by
  unfold execToken
  refine nx_runs (recvFrame_keeps h ?_)
  intro w hw x
  exact chainPresent_keeps hw

theorem recvCredit_keeps {d : DieId} {idx : Nat} {f : Frame} (h : Keeps s u) : Keeps s (recvCredit u d idx f) :=
  sendEntry_keeps (modPeer_keeps h)

theorem execCredit_runs {d : DieId} {port : Nat} {f : Frame} (h : Keeps s u) : Runs s (execCredit d port f u) := by
  unfold execCredit
  refine nx_runs (recvFrame_keeps h ?_)
  intro w hw x
  exact recvCredit_keeps hw

theorem execAck_runs {d : DieId} {port : Nat} {f : Frame} (h : Keeps s u) : Runs s (execAck d port f u) := by
  unfold execAck
  refine nx_runs (recvFrame_keeps h ?_)
  intro w hw x
  exact hw

theorem resendAll_keeps {d : DieId} {idx : Nat} (h : Keeps s u) : Keeps s (resendAll u d idx) := by
  unfold resendAll
  dsimp only
  split
  · exact modPeer_keeps h
  · refine bump_keeps (foldl_keeps ?_ (modPeer_keeps h))
    intro w x hw
    exact putFrame_keeps hw

theorem retryPeer_keeps {d : DieId} {idx : Nat} {advancedNow : Bool} (h : Keeps s u) : Keeps s (retryPeer u d idx advancedNow) :=
  ite_keeps h (ite_keeps (failPeer_keeps (modPeer_keeps h)) (resendAll_keeps (modPeer_keeps h)))

theorem execNack_runs {d : DieId} {port : Nat} {f : Frame} (h : Keeps s u) : Runs s (execNack d port f u) := by
  unfold execNack
  dsimp only
  refine nx_runs (recvFrame_keeps h ?_)
  intro w hw x
  exact retryPeer_keeps (freeAcked_keeps hw)

theorem execRtoTimeout_runs {d : DieId} {peer : Nat} (h : Keeps s u) : Runs s (execRtoTimeout d peer u) :=
  ite_runs (nx_runs (retryPeer_keeps h)) (nx_runs h)

theorem execStandaloneAck_runs {d : DieId} {peer : Nat} (h : Keeps s u) : Runs s (execStandaloneAck d peer u) :=
  ite_runs (nx_runs (sendPlain_keeps h)) (nx_runs h)

theorem execCreditPeriodic_runs {d : DieId} {peer : Nat} (h : Keeps s u) : Runs s (execCreditPeriodic d peer u) :=
  ite_runs (nx_runs (modPeer_keeps (sendPlain_keeps h))) (nx_runs h)

theorem captureTx_keeps {d : DieId} {port : Nat} (h : Keeps s u) : Keeps s (captureTx u d port) :=
  modDie_keeps h (ite_dieKeeps update_dieKeeps update_dieKeeps)

theorem captureRx_keeps {d : DieId} {port payload : Nat} (h : Keeps s u) : Keeps s (captureRx u d port payload) :=
  modDie_keeps h (ite_dieKeeps update_dieKeeps update_dieKeeps)

theorem recvMark_keeps {d : DieId} {port idx : Nat} {f : Frame} (h : Keeps s u) : Keeps s (recvMark u d port idx f) :=
  ite_keeps (takeReference_keeps (captureRx_keeps h)) (captureRx_keeps h)

theorem execMark_runs {d : DieId} {port : Nat} {f : Frame} (h : Keeps s u) : Runs s (execMark d port f u) := by
  unfold execMark
  refine nx_runs (recvFrame_keeps h ?_)
  intro w hw x
  exact recvMark_keeps hw

theorem execMarkSend_runs {d : DieId} {port : Nat} (h : Keeps s u) : Runs s (execMarkSend d port u) :=
  ite_runs (nx_runs h) (nx_runs (putFrame_keeps (captureTx_keeps h)))

theorem respond_keeps {d : DieId} {idx tag status : Nat} {data : List Byte} (h : Keeps s u) :
    Keeps s (respond u d idx tag status data) := sendSeq_keeps h

theorem serveReq_keeps {d : DieId} {idx : Nat} {f : Frame} (h : Keeps s u) : Keeps s (serveReq u d idx f) := by
  unfold serveReq
  dsimp only
  refine ite_keeps (respond_keeps h) (ite_keeps ?read (ite_keeps (respond_keeps h) ?write))
  case read =>
    split
    · exact respond_keeps h
    · exact ite_keeps (respond_keeps (recHostUncorr_keeps h)) (respond_keeps h)
  case write =>
    split
    next t ht => exact respond_keeps (writePhys_keeps h ht)
    · exact ite_keeps (respond_keeps (recHostUncorr_keeps h)) (respond_keeps h)

theorem takeReq_keeps {d : DieId} {idx : Nat} {f : Frame} (h : Keeps s u) : Keeps s (takeReq u d idx f) :=
  ite_keeps (modPeer_keeps h) (serveReq_keeps h)

theorem serveHeldReqs_keeps {d : DieId} (h : Keeps s u) : Keeps s (serveHeldReqs u d) := by
  unfold serveHeldReqs
  refine foldl_keeps ?_ h
  intro w x hw
  refine foldl_keeps ?_ (modPeer_keeps hw)
  intro w1 y hw1
  exact serveReq_keeps hw1

theorem execMemReq_runs {d : DieId} {port : Nat} {f : Frame} (h : Keeps s u) : Runs s (execMemReq d port f u) := by
  unfold execMemReq
  refine nx_runs (recvFrame_keeps h ?_)
  intro w hw x
  exact takeReq_keeps hw

theorem recvRsp_keeps {d : DieId} {idx : Nat} {f : Frame} (h : Keeps s u) : Keeps s (recvRsp u d idx f) := runRings_keeps (modPeer_keeps h)

theorem execMemRsp_runs {d : DieId} {port : Nat} {f : Frame} (h : Keeps s u) : Runs s (execMemRsp d port f u) := by
  unfold execMemRsp
  refine nx_runs (recvFrame_keeps h ?_)
  intro w hw x
  exact recvRsp_keeps hw

theorem execReservedFrameType_runs {d : DieId} {port : Nat} {_f : Frame} (h : Keeps s u) : Runs s (execReservedFrameType d port _f u) :=
  ite_runs (nx_runs (chainDrop_keeps (bump_keeps h))) (nx_runs h)

theorem execChainLinkStateChange_runs {d : DieId} {port : Nat} {up : Bool} (h : Keeps s u) : Runs s (execChainLinkStateChange d port up u)
    := by
  unfold execChainLinkStateChange
  dsimp only
  split
  · refine nx_runs (ite_keeps (foldl_keeps ?_ (setLinkUp_keeps h)) (setLinkUp_keeps h))
    intro w x hw
    exact sendEntry_keeps hw
  · exact nx_runs h

/-! ### The bridge -/

theorem setUcie_dieKeeps {b : Die} {d : Die} {m : Nat} {x : Ucie} (hd : DieKeeps b d) : DieKeeps b (setUcie d m x) := hd

theorem ucieSubst_dieKeeps {b : Die} {d : Die} (hd : DieKeeps b d) : DieKeeps b (ucieSubst d) := hd

theorem trainUcie_dieKeeps {b : Die} {x : Die} {m state tx rx : Nat} (hx : DieKeeps b x) : DieKeeps b (trainUcie x m state tx rx) :=
  ite_dieKeeps hx (ucieSubst_dieKeeps (setUcie_dieKeeps hx))

theorem execUcieTraining_runs {d : DieId} {module state tx rx : Nat} (h : Keeps s u) : Runs s (execUcieTraining d module state tx rx u) :=
  ite_runs (nx_runs (modDie_keeps h (trainUcie_dieKeeps update_dieKeeps))) (nx_runs h)

theorem noteRetries_keeps {d : DieId} {module n : Nat} (h : Keeps s u) : Keeps s (noteRetries u d module n) :=
  modDie_keeps h (setUcie_dieKeeps update_dieKeeps)

theorem execUcieReservedType_runs {d : DieId} {module : Nat} {flit : UcieFlit} (h : Keeps s u) : Runs s
    (execUcieReservedType d module flit u) :=
  ite_runs (nx_runs h) (ite_runs (nx_runs (logErr_keeps (noteRetries_keeps h))) (nx_runs (noteRetries_keeps h)))

theorem offerFloor_keeps {d : DieId} {seg slot station port : Nat} (h : Keeps s u) : Keeps s (offerFloor u d seg slot station port) := by
  unfold offerFloor
  split
  · exact h
  · exact ite_keeps h (stMod_keeps (modSeg_keeps h))

theorem execBridgeLine_runs {d : DieId} {seg vc : Nat} {src : Option (Nat × Nat × Nat)} {data : List Byte} (h : Keeps s u) : Runs s
    (execBridgeLine d seg vc src data u) := by
  unfold execBridgeLine
  dsimp only
  split
  · exact nx_runs h
  · split
    · exact nx_runs (offerFloor_keeps h)
    · exact nx_runs h
    · exact ite_runs (nx_runs (modSeg_keeps h)) (nx_runs h)

theorem consumeLine_keeps {a : StAt} {r : Nat} (h : Keeps s u) : Keeps s (consumeLine u a r) := modRoute_keeps h

theorem takeFloor_keeps {b' : StAt} {fr port acked : Nat} {it : Item} (h : Keeps s u) : Keeps s (takeFloor u b' fr port acked it) :=
  ite_keeps (modRoute_keeps h) (ite_keeps (haltStation_keeps h) (modRoute_keeps (queueItem_keeps h)))

theorem crossLine_keeps {d : DieId} {slot station port : Nat} (h : Keeps s u) : Keeps s (crossLine u d slot station port) := by
  unfold crossLine
  split
  · exact h
  · split
    · exact h
    · exact recallFloor_keeps (modSeg_keeps h)
    · exact ite_keeps (stMod_keeps (modRoute_keeps (takeFloor_keeps (consumeLine_keeps h))))
        (stMod_keeps (takeFloor_keeps (consumeLine_keeps h)))

theorem execAckOk_runs {d : DieId} {seg : Nat} (h : Keeps s u) : Runs s (execAckOk d seg u) := by
  unfold execAckOk
  dsimp only
  split
  · exact nx_runs h
  · refine nx_runs ?_
    split
    · exact crossLine_keeps (modSeg_keeps h)
    · exact crossMem_keeps (modSeg_keeps h)

theorem failSide_keeps {d : DieId} {seg : Nat} (h : Keeps s u) : Keeps s (failSide u d seg) := by
  unfold failSide
  dsimp only
  refine foldl_keeps ?_ ?_
  · intro w x hw
    exact haltStation_keeps (discardCrossing_keeps hw)
  · split
    · exact modSeg_keeps (modSeg_keeps (modSeg_keeps h))
    · exact modSeg_keeps (drawFree_keeps (modSeg_keeps h))

theorem failSeg_keeps {d : DieId} {seg : Nat} (h : Keeps s u) : Keeps s (failSeg u d seg) :=
  failSide_keeps (failSide_keeps (logErr_keeps h))

theorem retrySeg_keeps {d : DieId} {seg : Nat} (h : Keeps s u) : Keeps s (retrySeg u d seg) :=
  ite_keeps h (ite_keeps (failSeg_keeps (modSeg_keeps h)) (modSeg_keeps h))

theorem execAckRetry_runs {d : DieId} {seg : Nat} (h : Keeps s u) : Runs s (execAckRetry d seg u) := nx_runs (retrySeg_keeps h)

theorem execBridgeAckTimeout_runs {d : DieId} {seg : Nat} (h : Keeps s u) : Runs s (execBridgeAckTimeout d seg u) :=
  nx_runs (retrySeg_keeps h)

theorem trainSegs_dieKeeps {b : Die} {up : Nat} {x : Die} (hx : DieKeeps b x) : DieKeeps b (trainSegs up x) :=
  foldl_dieKeeps (fun _ _ hz => setSeg_dieKeeps hz) hx

theorem askAgain_keeps {d : DieId} (h : Keeps s u) : Keeps s (askAgain u d) := by
  unfold askAgain
  refine foldl_keeps ?_ h
  intro w x hw
  refine foldl_keeps ?_ hw
  intro w1 y hw1
  exact sendPeerLines_keeps hw1

theorem retrainBridge_keeps {up : Nat} (h : Keeps s u) : Keeps s (retrainBridge u up) := by
  have hside : ∀ {w : State} {d : DieId}, Keeps s w →
      Keeps s ((List.range 16).foldl (fun s n => (segStations s d n).foldl discardCrossing s) (modDie w d (trainSegs up))) := fun hw =>
    foldl_keeps (fun _ _ hw => foldl_keeps (fun _ _ hw => discardCrossing_keeps hw) hw) (modDie_keeps hw (trainSegs_dieKeeps .rfl))
  have hboth := askAgain_keeps (d := .cd1) (askAgain_keeps (d := .cd0) (hside (d := .cd1) (hside (d := .cd0) h)))
  unfold retrainBridge
  extract_lets side t1 t2
  have hlast : Keeps s t2 := hboth
  clear_value t2
  exact update_keeps hlast

theorem execBridgeRetrain_runs {up : Nat} (h : Keeps s u) : Runs s (execBridgeRetrain up u) :=
  ite_runs (nx_runs (retrainBridge_keeps h)) (nx_runs h)

/-! ### Calibration -/

theorem settleBoot_keeps (h : Keeps s u) : Keeps s (settleBoot u) := update_keeps h

/-! ### Clocks -/

theorem modClk_keeps {f : HdClk → HdClk} (h : Keeps s u) : Keeps s (modClk u f) := update_keeps h

theorem modDclk_keeps {d : DieId} {f : DieClk → DieClk} (h : Keeps s u) : Keeps s (modDclk u d f) := modDie_keeps h update_dieKeeps

theorem rampAll_keeps (h : Keeps s u) : Keeps s (rampAll u) := by
  unfold rampAll
  refine foldl_keeps ?_ h
  intro w x hw
  exact modClk_keeps hw

theorem execClockRampStep_runs {island : Nat} (h : Keeps s u) : Runs s (execClockRampStep island u) :=
  ite_runs (nx_runs (modClk_keeps h)) (nx_runs h)

theorem execXtalGood_runs (h : Keeps s u) : Runs s (execXtalGood u) := ite_runs (nx_runs (rampAll_keeps (modClk_keeps h))) (nx_runs h)

theorem execNoXtal_runs (h : Keeps s u) : Runs s (execNoXtal u) := ite_runs (nx_runs (modClk_keeps h)) (nx_runs h)

theorem applyTrim_keeps {code : Nat} (h : Keeps s u) : Keeps s (applyTrim u code) :=
  ite_keeps (rampAll_keeps (modClk_keeps (recClock_keeps (modClk_keeps h)))) (modClk_keeps h)

theorem execXtalLost_runs (h : Keeps s u) : Runs s (execXtalLost u) :=
  ite_runs (nx_runs (rampAll_keeps (modClk_keeps (recClock_keeps h)))) (nx_runs h)

theorem xtalRetry_keeps {passes : Bool} (h : Keeps s u) : Keeps s (xtalRetry u passes) := ite_keeps h (rampAll_keeps (modClk_keeps h))

theorem execXtalRetry_runs {agent : Nat} {passes : Bool} (h : Keeps s u) : Runs s (execXtalRetry agent passes u) :=
  hostReg_runs h (xtalRetry_keeps h)

theorem execTrimWindow_runs {count : Nat} (h : Keeps s u) : Runs s (execTrimWindow count u) :=
  ite_runs (nx_runs (modClk_keeps h)) (nx_runs h)

theorem governorTick_keeps {d : DieId} {g : GovIn} (h : Keeps s u) : Keeps s (governorTick u d g) := by
  unfold governorTick
  exact modDclk_keeps (modDclk_keeps (drawFree_keeps h))

theorem execGovernorTick_runs {d : DieId} {g : GovIn} (h : Keeps s u) : Runs s (execGovernorTick d g u) :=
  ite_runs (nx_runs (governorTick_keeps h)) (nx_runs h)

theorem execDutyTick_runs {d : DieId} {power : Nat} (h : Keeps s u) : Runs s (execDutyTick d power u) :=
  ite_runs (nx_runs (modDclk_keeps h)) (nx_runs h)

theorem writePwrCtl_keeps {v' : Nat} (h : Keeps s u) : Keeps s (writePwrCtl u v') := ite_keeps h (modClk_keeps h)

theorem execPwrCtlWrite_runs {agent : Nat} {v' : W32} (h : Keeps s u) : Runs s (execPwrCtlWrite agent v' u) :=
  hostReg_runs h (ite_keeps (writePwrCtl_keeps h) h)

theorem endMode_keeps (h : Keeps s u) : Keeps s (endMode u) := modClk_keeps h

theorem execPowerModeChangeEnd_runs (h : Keeps s u) : Runs s (execPowerModeChangeEnd u) := ite_runs (nx_runs (endMode_keeps h)) (nx_runs h)

theorem sampleDie_keeps {d : DieId} {ts reports : List Int} (h : Keeps s u) : Keeps s (sampleDie u d ts reports) :=
  ite_keeps (logErr_keeps (modDclk_keeps h)) (modDclk_keeps h)

theorem execThermalSample_runs {where_ : Option DieId} {sensors stackTs : List Int} (h : Keeps s u) : Runs s
    (execThermalSample where_ sensors stackTs u) := by
  unfold execThermalSample
  split
  · exact ite_runs (nx_runs (sampleDie_keeps h)) (nx_runs h)
  · exact ite_runs (nx_runs (modClk_keeps h)) (nx_runs h)

theorem execTelemetryRefresh_runs {block : List Byte} (h : Keeps s u) : Runs s (execTelemetryRefresh block u) :=
  ite_runs (nx_runs (modClk_keeps h)) (nx_runs h)

theorem execTimebaseFollow_runs {d : DieId} {diverged : Int} (h : Keeps s u) : Runs s (execTimebaseFollow d diverged u) :=
  ite_runs (nx_runs h) (nx_runs (modDclk_keeps (ite_keeps (recClock_keeps h) h)))

theorem execPpsEdge_runs {error : Int} (h : Keeps s u) : Runs s (execPpsEdge error u) :=
  ite_runs (nx_runs (modTime_keeps (takeReference_keeps h))) (nx_runs h)

theorem execTbHoldover_runs (h : Keeps s u) : Runs s (execTbHoldover u) := ite_runs (nx_runs (modTime_keeps h)) (nx_runs h)

theorem startMeas_keeps {d : DieId} (h : Keeps s u) : Keeps s (startMeas u d) := modDclk_keeps h

theorem execTbMeasStart_runs {agent : Nat} {d : DieId} {port : Nat} (h : Keeps s u) : Runs s (execTbMeasStart agent d port u) :=
  dieReg_runs h (startMeas_keeps (modDclk_keeps h))

/-! ### Flash commands -/

theorem changeEntry_keeps {u' v' : Nat} (h : Keeps s u) : Keeps s (changeEntry u u' v') := modFlash_keeps (setMapEntry_keeps h)

theorem makeDurable_keeps (h : Keeps s u) : Keeps s (makeDurable u) := modFlash_keeps h

theorem preparePlace_keeps {pkg place : Nat} (h : Keeps s u) : OptKeeps s (preparePlace u pkg place) :=
  ite_optKeeps (some_keeps h) (ite_optKeeps (some_keeps (eraseBlock_keeps h)) none_keeps)

theorem retireBlock_keeps {pkg place : Nat} (h : Keeps s u) : Keeps s (retireBlock u pkg place) := modFlash_keeps h

theorem programUnit_keeps {u' place : Nat} {bs : List Byte} (h : Keeps s u) : Keeps s (programUnit u u' place bs) := setStripe_keeps h

theorem answerReaders_keeps {n status : Nat} {bs : List Byte} (h : Keeps s u) :
    Keeps s (answerReaders u n status bs) := h.of_dies update_dieKeeps update_dieKeeps

theorem sinksAsk_keeps {d : DieId} (h : Keeps s u) : Keeps s (sinksAsk u d) := by
  unfold sinksAsk
  refine foldl_keeps ?_ h
  intro w x hw
  split
  · exact ite_keeps (stAsks_keeps hw) hw
  · exact hw

theorem deliverUnit_keeps {u' : Nat} {x : UnitR} (h : Keeps s u) : Keeps s (deliverUnit u u' x) := by
  unfold deliverUnit
  split
  · exact sinksAsk_keeps (sinksAsk_keeps (answerReaders_keeps h))
  · exact h
  · exact answerReaders_keeps h

theorem deliverRetried_keeps {u' : Nat} {r : UnitR} (h : Keeps s u) : Keeps s (deliverRetried u u' r) :=
  deliverUnit_keeps (ite_keeps (keepRead_keeps h) h)

theorem deliverRead_keeps {u' : Nat} (h : Keeps s u) : Keeps s (deliverRead u u') := deliverUnit_keeps h

theorem execFlashUnitRead_runs {unit : Nat} {decodes : Bool} (h : Keeps s u) : Runs s (execFlashUnitRead unit decodes u) := by
  unfold execFlashUnitRead
  split
  · exact nx_runs h
  · split
    · exact ite_runs (nx_runs (deliverRead_keeps h)) (ite_runs (nx_runs (deliverRead_keeps (noteRead_keeps h)))
        (nx_runs (modFlash_keeps (noteRead_keeps h))))
    · exact nx_runs (deliverRead_keeps h)

theorem recUnit_keeps {unit place : Nat} (h : Keeps s u) : Keeps s (recUnit u unit place) := logErr_keeps h

theorem execReadRetry_runs {unit : Nat} {decodes : Bool} (h : Keeps s u) : Runs s (execReadRetry unit decodes u) :=
  ite_runs (nx_runs h) (ite_runs (nx_runs (deliverRetried_keeps (modFlash_keeps h)))
    (nx_runs (deliverRetried_keeps (recUnit_keeps (ite_keeps (changeEntry_keeps (modFlash_keeps h)) (modFlash_keeps h))))))

theorem beginMove_keeps {u' place : Nat} (h : Keeps s u) : Keeps s (beginMove u u' place) := by
  unfold beginMove
  dsimp only
  split
  · exact h
  · split
    next t _ he =>
      have ht : Keeps s t := OptKeeps.some (preparePlace_keeps h) he
      exact ite_keeps h (modFlash_keeps ht)
    · exact h

theorem endMove_keeps {m : FlMove} {ok : Bool} (h : Keeps s u) : Keeps s (endMove u m ok) := by
  unfold endMove
  dsimp only
  split
  · exact retireBlock_keeps (modFlash_keeps h)
  · split
    · exact changeEntry_keeps (programUnit_keeps (noteRead_keeps (modFlash_keeps h)))
    · exact modFlash_keeps h

theorem cancelMoves_keeps {first count : Nat} (h : Keeps s u) : Keeps s (cancelMoves u first count) := modFlash_keeps h

theorem execFlashMove_runs {unit : Nat} {p : Programmed} (h : Keeps s u) : Runs s (execFlashMove unit p u) := by
  unfold execFlashMove
  split
  · exact nx_runs (beginMove_keeps h)
  · exact ite_runs (nx_runs (endMove_keeps h)) (nx_runs h)

theorem markWeak_keeps {weak : List (Nat × Nat)} (h : Keeps s u) : Keeps s (markWeak u weak) := by
  unfold markWeak
  exact modFlash_keeps h

theorem execFlashScan_runs {weak : List (Nat × Nat)} (h : Keeps s u) : Runs s (execFlashScan weak u) := by
  unfold execFlashScan
  split
  · refine nx_runs (foldl_keeps ?_ (markWeak_keeps h))
    intro w x hw
    exact beginMove_keeps hw
  · exact nx_runs h

theorem execFlCommandWrite_runs {agent off : Nat} {data : List Byte} (h : Keeps s u) : Runs s (execFlCommandWrite agent off data u) :=
  ite_runs (nx_runs (judgeWrite_keeps h)) (nx_runs (emit_keeps h))

theorem flOpen_keeps {cseq : Nat} (h : Keeps s u) : Keeps s (flOpen u cseq) := ite_keeps (flStart_keeps h) h

theorem flOk_keeps {cseq : Nat} (h : Keeps s u) : Keeps s (flOk u cseq) := failCmd_keeps h

theorem flBufFault_keeps {cseq : Nat} (h : Keeps s u) : Keeps s (flBufFault u cseq) := failCmd_keeps (drawFree_keeps h)

theorem execFlRead_runs {cseq : Nat} (h : Keeps s u) : Runs s (execFlRead cseq u) := by
  unfold execFlRead
  dsimp only
  split
  · exact nx_runs (flOpen_keeps h)
  · split
    · exact nx_runs (flOpen_keeps h)
    · split
      · exact nx_runs (failCmd_keeps (flOpen_keeps h))
      · split
        · exact nx_runs (askFor_keeps (waitCmd_keeps (flOpen_keeps h)))
        · split
          · exact nx_runs (flOpen_keeps h)
          · split
            next t he =>
              have ht : Keeps s t := Keeps.snd (hostWrite_keeps (noteRun_keeps (flOpen_keeps h))) he
              split
              · exact nx_runs (flOk_keeps ht)
              · exact nx_runs (failCmd_keeps ht)
              · exact nx_runs (failCmd_keeps ht)
              · exact nx_runs (doneCmd_keeps ht)
            next t _ he =>
              have ht : Keeps s t := Keeps.snd (hostWrite_keeps (noteRun_keeps (flOpen_keeps h))) he
              exact nx_runs (flBufFault_keeps ht)

theorem execFlWrite_runs {cseq : Nat} (h : Keeps s u) : Runs s (execFlWrite cseq u) := by
  unfold execFlWrite
  dsimp only
  split
  · exact nx_runs (flOpen_keeps h)
  · exact ite_runs (nx_runs (flOpen_keeps h)) (ite_runs (nx_runs (failCmd_keeps (flOpen_keeps h)))
      (ite_runs (nx_runs (failCmd_keeps (flOpen_keeps h))) (ite_runs (nx_runs (failCmd_keeps (flOpen_keeps h)))
      (nx_runs (waitCmd_keeps (cancelMoves_keeps (flOpen_keeps h)))))))

theorem writeBytes_keeps {c : Started} (h : Keeps s u) : Keeps s (writeBytes u c).2 := by
  unfold writeBytes
  split
  · exact hostRead_keeps h
  · exact h

theorem execFlashProgram_runs {cseq place : Nat} {ok : Bool} (h : Keeps s u) : Runs s (execFlashProgram cseq place ok u) := by
  unfold execFlashProgram
  split
  · exact nx_runs h
  · dsimp only
    split
    · exact nx_runs (failCmd_keeps h)
    · split
      · exact nx_runs h
      · split
        · exact nx_runs h
        next t he =>
          have ht : Keeps s t := OptKeeps.some (preparePlace_keeps h) he
          split
          next t1 he1 =>
            have ht1 : Keeps s t1 := Keeps.snd (writeBytes_keeps (modFlash_keeps ht)) he1
            exact ite_runs (nx_runs (retireBlock_keeps (modFlash_keeps ht1))) (ite_runs
              (nx_runs (flOk_keeps (changeEntry_keeps (programUnit_keeps (modFlash_keeps ht1)))))
              (nx_runs (modStarted_keeps (changeEntry_keeps (programUnit_keeps (modFlash_keeps ht1))))))
          next t1 _ he1 =>
            have ht1 : Keeps s t1 := Keeps.snd (writeBytes_keeps (modFlash_keeps ht)) he1
            exact nx_runs (flBufFault_keeps ht1)

theorem execFlTrim_runs {cseq : Nat} (h : Keeps s u) : Runs s (execFlTrim cseq u) := by
  unfold execFlTrim
  dsimp only
  split
  · exact nx_runs (flOpen_keeps h)
  · split
    · exact nx_runs (flOpen_keeps h)
    · split
      · exact nx_runs (failCmd_keeps (flOpen_keeps h))
      · split
        · exact nx_runs (failCmd_keeps (flOpen_keeps h))
        · split
          · exact nx_runs (flOpen_keeps h)
          · refine nx_runs (flOk_keeps (foldl_keeps ?_ (cancelMoves_keeps (flOpen_keeps h))))
            intro w x hw
            exact changeEntry_keeps hw

theorem execFlFlush_runs {cseq : Nat} (h : Keeps s u) : Runs s (execFlFlush cseq u) := by
  unfold execFlFlush
  dsimp only
  split
  · exact nx_runs (flOpen_keeps h)
  · exact ite_runs (nx_runs (flOk_keeps (makeDurable_keeps (flOpen_keeps h)))) (nx_runs (flOpen_keeps h))

theorem execFlQueueResume_runs {agent : Nat} (h : Keeps s u) : Runs s (execFlQueueResume agent u) := flashReg_runs h (queueAct_keeps h)

theorem execFlQueueFlush_runs {agent : Nat} (h : Keeps s u) : Runs s (execFlQueueFlush agent u) := flashReg_runs h (queueAct_keeps h)

theorem execProgramSuspend_runs {pkg nand : Nat} (h : Keeps s u) : Runs s (execProgramSuspend pkg nand u) :=
  ite_runs (nx_runs (modFlash_keeps h)) (nx_runs h)

theorem writeExt_keeps {i : Nat} {v' : W64} (h : Keeps s u) : Keeps s (writeExt u i v') := ite_keeps (logErr_keeps h) (modFlash_keeps h)

theorem execFlExtWrite_runs {agent i : Nat} {v' : W64} (h : Keeps s u) : Runs s (execFlExtWrite agent i v' u) :=
  answer_runs h (ite_keeps (writeExt_keeps h) h)

theorem execFlashHealthChange_runs {stops : Bool} {first last : Nat} (h : Keeps s u) : Runs s (execFlashHealthChange stops first last u) :=
  ite_runs (nx_runs h) (ite_runs (nx_runs (modFlash_keeps h)) (nx_runs (queueIrq_keeps (logErr_keeps (modFlash_keeps h)))))

theorem execFlashReq_runs {d : DieId} {slot station unit : Nat} (h : Keeps s u) : Runs s (execFlashReq d slot station unit u) := by
  unfold execFlashReq
  split
  · exact nx_runs h
  · exact ite_runs (nx_runs (askRun_keeps (stMod_keeps h))) (nx_runs h)

theorem sendUnit_keeps {a : StAt} {w : Work} {rest : List Work} {bs : List Byte} (h : Keeps s u) : Keeps s (sendUnit u a w rest bs) := by
  unfold sendUnit
  dsimp only
  refine stMod_keeps ?_
  split
  · refine foldl_keeps ?_ h
    intro w x hw
    exact queueItem_keeps hw
  · exact h

theorem passUnit_keeps {a : StAt} {w : Work} {rest : List Work} {bs : List Byte} (h : Keeps s u) : Keeps s (passUnit u a w rest bs) :=
  ite_keeps (stMod_keeps h) (sendUnit_keeps h)

theorem execFlashDlv_runs {d : DieId} {slot station : Nat} (h : Keeps s u) : Runs s (execFlashDlv d slot station u) := by
  unfold execFlashDlv
  split
  · exact nx_runs h
  · dsimp only
    split
    · exact nx_runs h
    · split
      · split
        · exact nx_runs h
        · split
          · exact nx_runs (haltStation_keeps (stMod_keeps h))
          · split
            · exact nx_runs (passUnit_keeps (stMod_keeps (bump_keeps h)))
            · split
              · exact nx_runs h
              · split
                · exact nx_runs (haltFault_keeps (stMod_keeps (bump_keeps h)))
                · exact nx_runs (askPeers_keeps h)
                next t he =>
                  have ht : Keeps s t := MemKeeps.ok (writeVA_keeps (bump_keeps h)) he
                  exact nx_runs (stAsks_keeps (passUnit_keeps (stMod_keeps (stMod_keeps (stBytes_keeps (dropAnswers_keeps ht))))))
      · exact nx_runs h

end Sys2Proof.Machine
end

section
/-! The operations of resets, boot, observation, memory gates and security keep the relation. -/

namespace Sys2Proof.Machine

variable {s u v : State}

/-! ### Resets -/

theorem modBoot_keeps {f : HdBoot → HdBoot} (h : Keeps s u) : Keeps s (modBoot u f) := update_keeps h

theorem modPower_keeps {f : HdPower → HdPower} (h : Keeps s u) : Keeps s (modPower u f) := update_keeps h

theorem modHsec_keeps {f : HdSec → HdSec} (h : Keeps s u) : Keeps s (modHsec u f) := update_keeps h

theorem closeFloor_keeps {d : DieId} {p : Nat} (h : Keeps s u) : Keeps s (closeFloor u d p) := by
  unfold closeFloor
  dsimp only
  refine foldl_keeps ?_ (modDie_keeps (modPart_keeps ?_) update_dieKeeps)
  · intro w x hw
    exact ite_keeps (modSlot_keeps hw) hw
  · split
    · exact closeBill_keeps h
    · exact h

theorem partResetDie_keeps {p : Nat} {headers : Bool} {d : DieId} (h : Keeps s u) :
    Keeps s (partResetDie u p headers d) := by
  unfold partResetDie
  dsimp only
  refine modPart_keeps (foldl_keeps ?_ (foldl_keeps ?_ (foldl_keeps ?_ (foldl_keeps ?_ (closeFloor_keeps h)))))
  · intro w x hw
    exact ite_keeps (modEpoch_keeps hw) hw
  · intro w x hw
    exact ite_keeps (modLink_keeps hw) hw
  · intro w x hw
    exact ite_keeps (modFn_keeps (initCell_keeps hw)) hw
  · intro w x hw
    exact ite_keeps (ite_keeps (headerAfter_keeps (modQueue_keeps hw)) (modQueue_keeps hw)) hw

theorem partReset_keeps {p : Nat} {headers : Bool} (h : Keeps s u) : Keeps s (partReset u p headers) :=
  foldl_keeps (fun _ _ hw => partResetDie_keeps hw) h

theorem runHeld_keeps (h : Keeps s u) : Keeps s (runHeld u) := by
  unfold runHeld
  dsimp only
  refine foldl_keeps ?_ h
  intro w x hw
  exact modBoot_keeps (modSec_keeps (partReset_keeps hw))

theorem startPartRst_keeps {p : Nat} (h : Keeps s u) : Keeps s (startPartRst u p) := runHeld_keeps (modBoot_keeps (modSec_keeps h))

theorem execPartRst_runs {agent part : Nat} (h : Keeps s u) : Runs s (execPartRst agent part u) :=
  hostReg_runs h (ite_keeps (startPartRst_keeps (modBoot_keeps h)) h)

/-- A die whose table of cells is empty. -/
theorem DieKeeps.of_empty {x y : Die} (h : y.cells = []) : DieKeeps x y := fun _ => (congrArg (tabWf {}) h).trans (Eq.refl _)

theorem resetDie_dieKeeps {b x : Die} : DieKeeps b (resetDie x) := .of_empty rfl

theorem mcsTraining_dieKeeps {b : Die} {x : Die} (hx : DieKeeps b x) : DieKeeps b (mcsTraining x) := hx

theorem startDm_keeps {d : DieId} (h : Keeps s u) : Keeps s (startDm u d) := by
  unfold startDm
  exact modDie_keeps (modDclk_keeps h) (mcsTraining_dieKeeps (sectorsAnswered_dieKeeps update_dieKeeps))

theorem dropScrub_keeps (h : Keeps s u) : Keeps s (dropScrub u) := by
  unfold dropScrub
  split
  · exact h
  · dsimp only
    refine modHsec_keeps ?_
    split
    · exact h
    · refine foldl_keeps ?_ h
      intro w x hw
      exact modDie_keeps hw update_dieKeeps

theorem dropDie_keeps {d : DieId} (h : Keeps s u) : Keeps s (dropDie u d) := by
  unfold dropDie
  dsimp only
  refine modDie_keeps (foldl_keeps ?_ (foldl_keeps ?_ h)) update_dieKeeps
  · intro w x hw
    exact foldl_keeps (@discardCrossing_keeps s) hw
  · intro w x hw
    exact modSec_keeps hw

theorem dropLayout_keeps {d : DieId} (h : Keeps s u) : Keeps s (dropLayout u d) := modHsec_keeps h

theorem beginDieReset_keeps {d : DieId} (h : Keeps s u) : Keeps s (beginDieReset u d) := by
  unfold beginDieReset
  dsimp only
  exact modBoot_keeps (startDm_keeps (modDclk_keeps (modDie_keeps (dropLayout_keeps (dropScrub_keeps (dropDie_keeps h)))
    resetDie_dieKeeps)))

theorem requestDieReset_keeps {d : DieId} (h : Keeps s u) : Keeps s (requestDieReset u d) :=
  ite_keeps h (ite_keeps (modBoot_keeps h) (beginDieReset_keeps h))

theorem execDieReset_runs {agent : Nat} {d : DieId} (h : Keeps s u) : Runs s (execDieReset agent d u) :=
  hostReg_runs h (ite_keeps (requestDieReset_keeps h) h)

theorem settleJournal_keeps (h : Keeps s u) : Keeps s (settleJournal u) := by
  unfold settleJournal
  dsimp only
  refine modFlash_keeps (foldl_keeps ?_ h)
  intro w x hw
  exact ite_keeps (drawFree_keeps hw) (modFlash_keeps (drawFree_keeps hw))

theorem startRom_keeps (h : Keeps s u) : Keeps s (startRom u) := by
  unfold startRom
  exact modBoot_keeps (modClk_keeps h)

theorem bootLayout_keeps (h : Keeps s u) : Keeps s (bootLayout u) := modHsec_keeps h

theorem warmReset_keeps {cause : Nat} (h : Keeps s u) : Keeps s (warmReset u cause) := by
  unfold warmReset
  dsimp only
  exact startRom_keeps (bootLayout_keeps (modHsec_keeps (modBoot_keeps (h.of_parts rfl id (.of_empty rfl) (.of_empty rfl)))))

theorem execWarmReset_runs {agent : Nat} (h : Keeps s u) : Runs s (execWarmReset agent u) :=
  hostReg_runs h (ite_keeps (warmReset_keeps h) h)

theorem powerOff_keeps (h : Keeps s u) : Keeps s (powerOff u) := by
  unfold powerOff
  dsimp only
  refine ite_keeps (emit_keeps ?_) ?_ <;> exact (settleJournal_keeps h).of_parts rfl (fun _ => rfl) (.of_empty rfl) (.of_empty rfl)

theorem startPower_keeps (h : Keeps s u) : Keeps s (startPower u) := startRom_keeps (bootLayout_keeps (modBoot_keeps (modPower_keeps h)))

theorem execModEnRise_runs {role : Bool} {addr : Nat} (h : Keeps s u) : Runs s (execModEnRise role addr u) :=
  ite_runs (nx_runs h) (ite_runs (nx_runs (startPower_keeps (modPower_keeps h))) (nx_runs (modPower_keeps h)))

theorem execPwr48Threshold_runs (h : Keeps s u) : Runs s (execPwr48Threshold u) :=
  ite_runs (nx_runs h) (ite_runs (nx_runs (startPower_keeps (modPower_keeps h))) (nx_runs (modPower_keeps h)))

theorem execModEnFall_runs (h : Keeps s u) : Runs s (execModEnFall u) := ite_runs (nx_runs (modPower_keeps (powerOff_keeps h))) (nx_runs h)

theorem turnOff_keeps (h : Keeps s u) : Keeps s (turnOff u) := ite_keeps (modPower_keeps (powerOff_keeps h)) h

theorem execUndervoltage_runs (h : Keeps s u) : Runs s (execUndervoltage u) := nx_runs (modPower_keeps (turnOff_keeps h))

theorem execOvervoltage_runs (h : Keeps s u) : Runs s (execOvervoltage u) := nx_runs (modPower_keeps (turnOff_keeps h))

theorem execRegulatorFault_runs (h : Keeps s u) : Runs s (execRegulatorFault u) := nx_runs (turnOff_keeps h)

theorem execTurnOffRestart_runs (h : Keeps s u) : Runs s (execTurnOffRestart u) := ite_runs (nx_runs (startPower_keeps h)) (nx_runs h)

theorem execThermalTrip_runs (h : Keeps s u) : Runs s (execThermalTrip u) :=
  ite_runs (nx_runs (modPower_keeps (powerOff_keeps h))) (nx_runs h)

/-! ### Bundles -/

theorem failPages_keeps {ps : List BootPage} (h : Keeps s u) : Keeps s (failPages u ps) := modFlash_keeps h

theorem repairPage_keeps {p : BootPage} (h : Keeps s u) : Keeps s (repairPage u p) := ite_keeps h (modFlash_keeps h)

theorem repairBoot_keeps (h : Keeps s u) : Keeps s (repairBoot u) := foldl_keeps (@repairPage_keeps s) h

theorem noteBoot_keeps {n off len : Nat} (h : Keeps s u) : Keeps s (noteBoot u n off len) := by
  unfold noteBoot
  exact modFlash_keeps h

theorem readBoot_keeps {failed : List BootPage} {off len : Nat} (h : Keeps s u) : Keeps s (readBoot u failed off len) :=
  repairBoot_keeps (failPages_keeps (noteBoot_keeps h))

theorem writeBoot_keeps {off : Nat} {bs : List Byte} (h : Keeps s u) : Keeps s (writeBoot u off bs) := modFlash_keeps (settleBoot_keeps h)

/-! ### Boot -/

theorem noService_keeps {reason : Nat} (h : Keeps s u) : Keeps s (noService u reason) := modBoot_keeps h

theorem execFirmwareVerify_runs {copy0 copy1 : BootRead} (h : Keeps s u) : Runs s (execFirmwareVerify copy0 copy1 u) :=
  ite_runs (nx_runs h) (ite_runs (nx_runs (noService_keeps (failPages_keeps h))) (nx_runs (modBoot_keeps (failPages_keeps h))))

theorem bootRegion_keeps {d : DieId} (h : Keeps s u) : Keeps s (bootRegion u d) :=
  modBoot_keeps (modDie_keeps h (setRgn_dieKeeps update_dieKeeps))

theorem powerDie_keeps {r : SecStart} {d : DieId} (h : Keeps s u) : Keeps s (powerDie u r d) :=
  ite_keeps h (startDm_keeps (modDclk_keeps (modClk_keeps h)))

theorem secFwStart_keeps {r : SecStart} (h : Keeps s u) : Keeps s (secFwStart u r) := by
  unfold secFwStart
  dsimp only
  refine powerDie_keeps (powerDie_keeps (ite_keeps (emit_keeps (modPower_keeps ?_)) ?_)) <;>
    exact bootRegion_keeps (applyTrim_keeps (modClk_keeps (modHsec_keeps (drawFree_keeps (modBoot_keeps (readBoot_keeps h))))))

theorem execSecFwStart_runs {r : SecStart} (h : Keeps s u) : Runs s (execSecFwStart r u) :=
  ite_runs (nx_runs (secFwStart_keeps h)) (nx_runs h)

theorem trainStacks_dieKeeps {b x : Die} {m : Nat} (hx : DieKeeps b x) : DieKeeps b (trainStacks x m) :=
  (foldl_dieKeeps (fun _ _ hz => setMc_dieKeeps hz) hx).trans update_dieKeeps

theorem trainDie_keeps {r : LinkTrain} {d : DieId} (h : Keeps s u) : Keeps s (trainDie u r d) := by
  unfold trainDie
  refine ite_keeps h (modDie_keeps h ?_)
  dsimp only
  refine ite_dieKeeps (DieKeeps.trans ?_ update_dieKeeps) ?_ <;>
    exact trainStacks_dieKeeps (foldl_dieKeeps (fun _ _ hz => trainUcie_dieKeeps hz) .rfl)

theorem freshSeeds_keeps {set : List Byte} {i : Nat} (h : Keeps s u) : Keeps s (freshSeeds u set i).2 := by
  unfold freshSeeds
  dsimp only
  exact drawFree_keeps h

theorem saveSeeds_keeps (h : Keeps s u) : Keeps s (saveSeeds u) := by
  unfold saveSeeds
  dsimp only
  split
  · exact h
  · split
    · exact h
    · exact writeBoot_keeps (freshSeeds_keeps (freshSeeds_keeps h))

theorem execLinkTraining_runs {r : LinkTrain} (h : Keeps s u) : Runs s (execLinkTraining r u) :=
  ite_runs (nx_runs h) (nx_runs (ite_keeps (modBoot_keeps (saveSeeds_keeps (ite_keeps
    (retrainBridge_keeps (trainDie_keeps (trainDie_keeps h))) (trainDie_keeps (trainDie_keeps h)))))
    (saveSeeds_keeps (ite_keeps (retrainBridge_keeps (trainDie_keeps (trainDie_keeps h))) (trainDie_keeps (trainDie_keeps h))))))

theorem markAbsent_dieKeeps {b : Die} {x : Die} {bad : List Nat} (hx : DieKeeps b x) : DieKeeps b (markAbsent x bad) := by
  unfold markAbsent
  dsimp only
  refine foldl_dieKeeps ?_ hx
  intro x y z
  exact z

theorem startCells_keeps {d : DieId} (h : Keeps s u) : Keeps s (startCells u d) := by
  unfold startCells
  refine foldl_keeps ?_ h
  intro w x hw
  exact ite_keeps (writeCellEn_keeps hw) hw

theorem dropAbsent_keeps {d : DieId} (h : Keeps s u) : Keeps s (dropAbsent u d) := ite_keeps h (modBoot_keeps (modDclk_keeps h))

theorem zeroRange_keeps {d : DieId} {g n : Nat} (h : Keeps s u) : Keeps s (zeroRange u d g n) := by
  unfold zeroRange
  dsimp only
  exact modDie_keeps (h.of_parts rfl (tabWf_tabKeep 0 _ _) .rfl .rfl) update_dieKeeps

theorem zeroBoot_keeps {d : DieId} (h : Keeps s u) : Keeps s (zeroBoot u d) := zeroRange_keeps h

theorem hostFailures_keeps {r : FloorTest} (h : Keeps s u) : Keeps s (hostFailures u r) := by
  unfold hostFailures
  exact modBoot_keeps (modFlash_keeps h)

theorem loadBootloader_keeps {boot : DieId} (h : Keeps s u) : Keeps s (loadBootloader u boot) := by
  unfold loadBootloader
  split
  · exact noService_keeps h
  · exact ite_keeps (modBoot_keeps (storeHbm_keeps (noteBoot_keeps h))) (noService_keeps (storeHbm_keeps (noteBoot_keeps h)))

theorem bootFloor_keeps {r : FloorTest} (h : Keeps s u) : Keeps s (bootFloor u r) := by
  unfold bootFloor
  dsimp only
  split
  · refine noService_keeps (foldl_keeps ?_ h)
    intro w x hw
    exact modDie_keeps hw (markAbsent_dieKeeps update_dieKeeps)
  · refine loadBootloader_keeps (foldl_keeps ?_ (zeroBoot_keeps (ite_keeps (hostFailures_keeps
      (foldl_keeps (@dropAbsent_keeps s) (foldl_keeps ?_ h))) (bootRegion_keeps (modDie_keeps
      (hostFailures_keeps (foldl_keeps (@dropAbsent_keeps s) (foldl_keeps ?_ h))) (setRgn_dieKeeps update_dieKeeps))))))
    · intro w x hw
      exact ite_keeps (startCells_keeps hw) hw
    · intro w x hw
      exact modDie_keeps hw (markAbsent_dieKeeps update_dieKeeps)
    · intro w x hw
      exact modDie_keeps hw (markAbsent_dieKeeps update_dieKeeps)

theorem dieFloor_keeps {r : FloorTest} {d : DieId} (h : Keeps s u) : Keeps s (dieFloor u r d) := by
  unfold dieFloor
  dsimp only
  split
  · exact h
  · refine runHeld_keeps (foldl_keeps ?_ (modBoot_keeps (ite_keeps (startCells_keeps
      (modDclk_keeps (modDie_keeps h (markAbsent_dieKeeps update_dieKeeps)))) (modDclk_keeps
      (modDie_keeps h (markAbsent_dieKeeps update_dieKeeps))))))
    intro w x hw
    exact modSec_keeps hw

theorem execServiceFloorTest_runs {r : FloorTest} (h : Keeps s u) : Runs s (execServiceFloorTest r u) :=
  ite_runs (nx_runs (bootFloor_keeps h)) (nx_runs (dieFloor_keeps (dieFloor_keeps h)))

theorem execHostStart_runs (h : Keeps s u) : Runs s (execHostStart u) := by
  unfold execHostStart
  dsimp only
  split
  · refine nx_runs ?_
    exact update_keeps (modSec_keeps (modClk_keeps h))
  · exact nx_runs h

/-! ### Element-wise instructions -/

theorem ewOp_keeps {l : StreamLoc} {op : Nat} {g : EwArgs} {d : Dest} (h : Keeps s u) : Keeps s (ewOp u l op g d).2 := drawFor_keeps h

theorem ewEffect_keeps {c : CellLoc} {o : Op} {e : EwOp} (h : Keeps s u) : Keeps s (ewEffect u c o e) := by
  unfold ewEffect
  dsimp only
  split
  · exact settle_keeps (bump_keeps (flagSlot_keeps (modCell_keeps h)))
  · exact ite_keeps (modM_keeps h) (ewWrite_keeps h)

theorem ewRead_keeps {c : CellLoc} {o : Op} {e : EwOp} {perr : Option Nat} (h : Keeps s u) : Keeps s (ewRead u c o e perr) := by
  unfold ewRead
  split
  · exact h
  · refine withParity_keeps h ?_
    intro w hw
    exact ewEffect_keeps hw

theorem issueEw_keeps {l : StreamLoc} {op : Nat} {perr : Option Nat} {w : Nat} (h : Keeps s u) : IssueKeeps s (issueEw u l op perr w) := by
  unfold issueEw
  dsimp only
  split
  · exact hold_keeps
  · split
    · exact orElse_keeps raise_keeps
    · exact orElse_keeps (ite_issueKeeps hold_keeps (done_keeps (ewRead_keeps (addOp_keeps (ewOp_keeps h)))))

theorem ew_runs {op : Nat} {l : StreamLoc} {perr : Option Nat} (h : Keeps s u) : Runs s (ew op l perr u) := by
  unfold ew
  split
  · exact nx_runs (ewRead_keeps h)
  · refine nx_runs (issue_keeps h ?_)
    intro x
    exact issueEw_keeps h

theorem execEwCvt_runs {l : EwAt} (h : Keeps s u) : Runs s (execEwCvt l u) := ew_runs h

theorem execEwAdd_runs {l : EwAt} (h : Keeps s u) : Runs s (execEwAdd l u) := ew_runs h

theorem execEwSub_runs {l : EwAt} (h : Keeps s u) : Runs s (execEwSub l u) := ew_runs h

theorem execEwMul_runs {l : EwAt} (h : Keeps s u) : Runs s (execEwMul l u) := ew_runs h

theorem execEwFma_runs {l : EwAt} (h : Keeps s u) : Runs s (execEwFma l u) := ew_runs h

theorem execEwMax_runs {l : EwAt} (h : Keeps s u) : Runs s (execEwMax l u) := ew_runs h

theorem execEwMin_runs {l : EwAt} (h : Keeps s u) : Runs s (execEwMin l u) := ew_runs h

theorem execEwAbs_runs {l : EwAt} (h : Keeps s u) : Runs s (execEwAbs l u) := ew_runs h

theorem execEwNeg_runs {l : EwAt} (h : Keeps s u) : Runs s (execEwNeg l u) := ew_runs h

theorem execEwClamp_runs {l : EwAt} (h : Keeps s u) : Runs s (execEwClamp l u) := ew_runs h

theorem execEwSel_runs {l : EwAt} (h : Keeps s u) : Runs s (execEwSel l u) := ew_runs h

theorem execEwAxpby_runs {l : EwAt} (h : Keeps s u) : Runs s (execEwAxpby l u) := ew_runs h

theorem execEwDiv_runs {l : EwAt} (h : Keeps s u) : Runs s (execEwDiv l u) := ew_runs h

theorem execEwSqrt_runs {l : EwAt} (h : Keeps s u) : Runs s (execEwSqrt l u) := ew_runs h

theorem execEwRsqrt_runs {l : EwAt} (h : Keeps s u) : Runs s (execEwRsqrt l u) := ew_runs h

theorem execEwRecip_runs {l : EwAt} (h : Keeps s u) : Runs s (execEwRecip l u) := ew_runs h

theorem execEwExp_runs {l : EwAt} (h : Keeps s u) : Runs s (execEwExp l u) := ew_runs h

theorem execEwLog_runs {l : EwAt} (h : Keeps s u) : Runs s (execEwLog l u) := ew_runs h

theorem execEwFn_runs {l : EwAt} (h : Keeps s u) : Runs s (execEwFn l u) := ew_runs h

theorem execEwDfn_runs {l : EwAt} (h : Keeps s u) : Runs s (execEwDfn l u) := ew_runs h

theorem execEwRsum_runs {l : EwAt} (h : Keeps s u) : Runs s (execEwRsum l u) := ew_runs h

theorem execEwRsumsq_runs {l : EwAt} (h : Keeps s u) : Runs s (execEwRsumsq l u) := ew_runs h

theorem execEwRmax_runs {l : EwAt} (h : Keeps s u) : Runs s (execEwRmax l u) := ew_runs h

theorem execEwCsum_runs {l : EwAt} (h : Keeps s u) : Runs s (execEwCsum l u) := ew_runs h

/-! ### Counters -/

theorem execCounterWrap_runs {d : DieId} {set n : Nat} (h : Keeps s u) : Runs s (execCounterWrap d set n u) :=
  ite_runs (nx_runs h) (ite_runs (nx_runs (bump_keeps h)) (ite_runs (nx_runs (bump_keeps h)) (nx_runs h)))

theorem execCntClear_runs {agent : Nat} {d : DieId} {set : Nat} (h : Keeps s u) : Runs s (execCntClear agent d set u) :=
  answer_runs h (modSet_keeps h)

theorem execCntHold_runs {agent : Nat} {d : DieId} {set : Nat} {hold : Bool} (h : Keeps s u) : Runs s (execCntHold agent d set hold u) :=
  answer_runs h (modSet_keeps h)

theorem takeSnap_keeps {d : DieId} (h : Keeps s u) : Keeps s (takeSnap u d) :=
  modDie_keeps h ((foldl_dieKeeps (fun _ _ hz => setSet_dieKeeps hz) .rfl).trans update_dieKeeps)

theorem armSnap_keeps {d : DieId} (h : Keeps s u) : Keeps s (armSnap u d) := ite_keeps (takeSnap_keeps h) (modDie_keeps h update_dieKeeps)

theorem execCntSnapArm_runs {agent : Nat} {d : DieId} (h : Keeps s u) : Runs s (execCntSnapArm agent d u) := dieReg_runs h (armSnap_keeps h)

theorem execCntSnapTrigger_runs {d : DieId} (h : Keeps s u) : Runs s (execCntSnapTrigger d u) :=
  ite_runs (nx_runs (takeSnap_keeps h)) (nx_runs h)

/-! ### Trace units -/

theorem modTrace_keeps {d : DieId} {f : Trace → Trace} (h : Keeps s u) : Keeps s (modTrace u d f) := modDie_keeps h update_dieKeeps

theorem loseRec_keeps {d : DieId} (h : Keeps s u) : Keeps s (loseRec u d) := modTrace_keeps h

theorem putRec_keeps {d : DieId} {kind cls index sub part data : Nat} (h : Keeps s u) : Keeps s (putRec u d kind cls index sub part data) :=
  askTransfer_keeps (modTrace_keeps h)

theorem traceWritten_keeps {d : DieId} {hpa : Nat} (h : Keeps s u) : Keeps s (traceWritten u d hpa) := by
  unfold traceWritten
  split
  · exact h
  · dsimp only
    split
    · exact loseRec_keeps (modTrace_keeps h)
    next t ht => exact writePhys_keeps (modTrace_keeps h) ht

theorem traceRec_keeps {d : DieId} {kind cls index sub part data : Nat} (h : Keeps s u) : Keeps s
    (traceRec u d kind cls index sub part data) :=
  ite_keeps h (ite_keeps (loseRec_keeps h) (ite_keeps (loseRec_keeps (ite_keeps h (modTrace_keeps (putRec_keeps h))))
    (putRec_keeps (ite_keeps h (modTrace_keeps (putRec_keeps h))))))

theorem addCause_keeps {d : DieId} {c : Nat} (h : Keeps s u) : Keeps s (addCause u d c) := ite_keeps (modTrace_keeps h) h

theorem traceStart_keeps {d : DieId} (h : Keeps s u) : Keeps s (traceStart u d) := ite_keeps (modTrace_keeps h) (modTrace_keeps h)

theorem traceStop_keeps {d : DieId} (h : Keeps s u) : Keeps s (traceStop u d) := by
  unfold traceStop
  exact modTrace_keeps (ite_keeps (modTrace_keeps (putRec_keeps (modTrace_keeps (modTrace_keeps h)))) (modTrace_keeps h))

theorem writeTrcCtl_keeps {d : DieId} {w : RegW} (h : Keeps s u) : Keeps s (writeTrcCtl u d w) :=
  ite_keeps (addCause_keeps (ite_keeps (traceStart_keeps (modTrace_keeps h)) (ite_keeps (traceStop_keeps (modTrace_keeps h))
    (modTrace_keeps h)))) (ite_keeps (traceStart_keeps (modTrace_keeps h)) (ite_keeps (traceStop_keeps (modTrace_keeps h))
    (modTrace_keeps h)))

theorem execTraceEnable_runs {agent : Nat} {d : DieId} {v' : W64} (h : Keeps s u) : Runs s (execTraceEnable agent d v' u) :=
  dieReg_runs h (writeTrcCtl_keeps h)

theorem takeTrigger_keeps {d : DieId} {cause : Nat} (h : Keeps s u) : Keeps s (takeTrigger u d cause) := by
  unfold takeTrigger
  exact modTrace_keeps (putRec_keeps (ite_keeps h (modTrace_keeps (putRec_keeps h))))

theorem execTraceTrigger_runs {d : DieId} {cause : Nat} (h : Keeps s u) : Runs s (execTraceTrigger d cause u) :=
  ite_runs (nx_runs (takeTrigger_keeps h)) (nx_runs h)

theorem emitRec_keeps {d : DieId} {kind cls index sub part data : Nat} (h : Keeps s u) : Keeps s (emitRec u d kind cls index sub part data)
    :=
  traceRec_keeps (ite_keeps (addCause_keeps h) h)

theorem traceMark_keeps {d : DieId} {v' : Nat} (h : Keeps s u) : Keeps s (traceMark u d v') := ite_keeps (emitRec_keeps h) h

theorem execTrcMarkWrite_runs {agent : Nat} {d : DieId} {v' : W64} (h : Keeps s u) : Runs s (execTrcMarkWrite agent d v' u) :=
  dieReg_runs h (traceMark_keeps h)

/-! ### Memory gates -/

theorem countAsked_keeps {d : DieId} {r : GateReq} (h : Keeps s u) : Keeps s (countAsked u d r) := by
  unfold countAsked
  dsimp only
  split
  · exact modM_keeps h
  · exact modM_keeps h
  · exact modM_keeps h
  · exact modStation_keeps h
  · exact modStarted_keeps h
  · exact modLoad_keeps h
  · exact h

theorem afterIssue_keeps {d : DieId} {group : Nat} {r : GateReq} (h : Keeps s u) : Keeps s (afterIssue u d group r) := by
  unfold afterIssue
  exact modGate_keeps h

theorem execGateTransfer_runs {d : DieId} {group : Nat} {client : GateReq} (h : Keeps s u) : Runs s (execGateTransfer d group client u) :=
  ite_runs (nx_runs h) (nx_runs (afterIssue_keeps (countAsked_keeps (sendPeerLines_keeps (modGate_keeps h)))))

theorem arriveMask_keeps {c : CellLoc} {va : Nat} (h : Keeps s u) : Keeps s (arriveMask u c va) :=
  elim_keeps h fun _ => fillMask_keeps h

theorem eccOf_keeps {d : DieId} {group : Nat} {x : Xfer} {ecc : List (Nat × EccResult)} (h : Keeps s u) : Keeps s (eccOf u d group x ecc) :=
  touchUnits_keeps (eccUnits_keeps h)

theorem arriveXfer_keeps {d : DieId} {group : Nat} {x : Xfer} (h : Keeps s u) : Keeps s (arriveXfer u d group x) := by
  unfold arriveXfer
  split
  · dsimp only
    split
    · split
      · exact gateRanges_keeps (arriveRow_keeps h)
      · exact h
    · exact h
  · exact h
  · dsimp only
    split
    · split
      · exact gateBytes_keeps (modM_keeps h)
      · exact h
    · exact h
  · exact modStation_keeps h
  · exact gateBytes_keeps (arriveMask_keeps h)
  · exact h
  · exact modStarted_keeps h
  · exact modLoad_keeps h
  · exact traceWritten_keeps h

theorem execGateTransferComplete_runs {d : DieId} {group : Nat} {e : XferEnd} (h : Keeps s u) :
    Runs s (execGateTransferComplete d group e u) := by
  unfold execGateTransferComplete
  split
  · exact nx_runs h
  · exact ite_runs (nx_runs h) (ite_runs (nx_runs (elim_keeps h fun _ => askPeers_keeps h))
      (ite_runs (nx_runs (eccOf_keeps h)) (nx_runs (arriveXfer_keeps (modGate_keeps (eccOf_keeps h))))))

theorem execPageWalk_runs {d : DieId} {group : Nat} {site : Option Nat} {part va : Nat} {write : Bool} (h : Keeps s u) : Runs s
    (execPageWalk d group site part va write u) := by
  unfold execPageWalk
  dsimp only
  split
  · exact nx_runs h
  · split
    · exact nx_runs (modGate_keeps h)
    · split
      · exact nx_runs (modGate_keeps h)
      · split
        · exact nx_runs h
        · split
          · exact nx_runs (modGate_keeps (drawFree_keeps (modGate_keeps h)))
          · exact nx_runs (modM_keeps (drawFree_keeps (modGate_keeps (drawFree_keeps (modGate_keeps h)))))

theorem tlbStart_keeps {agent : Nat} {d : DieId} {part : Nat} (h : Keeps s u) : Keeps s (tlbStart u agent d part) :=
  ite_keeps (modPart_keeps h) (emit_keeps (modPart_keeps h))

theorem execTlbInvalidate_runs {agent : Nat} {d : DieId} {part : Nat} (h : Keeps s u) : Runs s (execTlbInvalidate agent d part u) :=
  ite_runs (nx_runs (tlbStart_keeps h)) (nx_runs (emit_keeps h))

theorem tlbRemove_keeps {d : DieId} {part page count : Nat} (h : Keeps s u) : Keeps s (tlbRemove u d part page count) := by
  unfold tlbRemove
  dsimp only
  refine foldl_keeps ?_ (foldl_keeps ?_ h)
  · intro w x hw
    exact modGate_keeps hw
  · intro w x hw
    exact modM_keeps hw

theorem execTlbInvalidateDone_runs {d : DieId} {part : Nat} (h : Keeps s u) : Runs s (execTlbInvalidateDone d part u) := by
  unfold execTlbInvalidateDone
  dsimp only
  split
  · exact nx_runs h
  · refine nx_runs ?_
    split
    · exact modPart_keeps (tlbRemove_keeps h)
    · exact tlbStart_keeps (modPart_keeps (modPart_keeps (tlbRemove_keeps h)))

theorem recLost_keeps {d : DieId} {line detail : Nat} (h : Keeps s u) : Keeps s (recLost u d line detail) := logErr_keeps h

theorem execCacheEvict_runs {d : DieId} {line : Nat} {bad : Bool} (h : Keeps s u) : Runs s (execCacheEvict d line bad u) := by
  have hout {f : Die → Die} (hf : DieKeeps (getDie u d) (f (getDie u d))) : Keeps s (countSram (modDie u d f) (some d) true) :=
    countSram_keeps (modDie_keeps h hf)
  refine ite_runs (nx_runs h) (ite_runs (nx_runs h) (ite_runs (nx_runs (modDie_keeps h update_dieKeeps)) (ite_runs
    (nx_runs (countSram_keeps (modDie_keeps h update_dieKeeps))) (ite_runs
      (nx_runs (recLost_keeps (modDie_keeps (hout update_dieKeeps) update_dieKeeps))) (nx_runs ?_)))))
  exact (recLost_keeps (drawFree_keeps (hout update_dieKeeps))).of_hbm (memWrite_wf _ _ _)

theorem execPatrolRead_runs {d : DieId} {mc off : Nat} {r : EccResult} (h : Keeps s u) : Runs s (execPatrolRead d mc off r u) := by
  unfold execPatrolRead
  dsimp only
  split
  · exact nx_runs h
  · split
    · exact nx_runs h
    · exact nx_runs (modMc_keeps h)
    · refine nx_runs (logErr_keeps ?_)
      exact update_keeps (modMc_keeps h)

theorem execOdeccPoll_runs {d : DieId} {mc corrected : Nat} {severe : Bool} (h : Keeps s u) : Runs s (execOdeccPoll d mc corrected severe u)
    :=
  ite_runs (nx_runs (modMc_keeps h)) (nx_runs h)

theorem execRefreshManagementRequest_runs {d : DieId} {mc : Nat} (h : Keeps s u) : Runs s (execRefreshManagementRequest d mc u) :=
  ite_runs (nx_runs (modMc_keeps h)) (nx_runs h)

theorem execHbmRateChange_runs {d : DieId} {quiet : Bool} (h : Keeps s u) : Runs s (execHbmRateChange d quiet u) := by
  unfold execHbmRateChange
  dsimp only
  split
  · refine nx_runs (foldl_keeps ?_ h)
    intro w x hw
    exact modMc_keeps hw
  · exact nx_runs h

theorem execHbmRateChangeEnd_runs {d : DieId} {failed : Nat} (h : Keeps s u) : Runs s (execHbmRateChangeEnd d failed u) := by
  unfold execHbmRateChangeEnd
  dsimp only
  split
  · exact nx_runs h
  · refine nx_runs (runRings_keeps (runRings_keeps (serveHeldReqs_keeps (foldl_keeps ?_ (foldl_keeps ?_ h)))))
    · intro w x hw
      exact logErr_keeps hw
    · intro w x hw
      exact modMc_keeps hw

theorem mcBroadcast_keeps {d : DieId} {p : Nat → Bool} {off : Nat} {w : RegW} (h : Keeps s u) : Keeps s (mcBroadcast u d p off w) := by
  unfold mcBroadcast
  dsimp only
  refine foldl_keeps ?_ h
  intro w x hw
  exact modMc_keeps hw

theorem execMcBroadcastWrite_runs {agent : Nat} {t : McTarget} {off size : Nat} {v' : W64} (h : Keeps s u) : Runs s
    (execMcBroadcastWrite agent t off size v' u) := by
  unfold execMcBroadcastWrite
  dsimp only
  split
  · exact answer_runs h (mcBroadcast_keeps h)
  · exact answer_runs h (mcBroadcast_keeps h)
  · exact answer_runs h (mcBroadcast_keeps (mcBroadcast_keeps h))

theorem writeRgn_keeps {d : DieId} {i v' : Nat} (h : Keeps s u) : Keeps s (writeRgn u d i v') := by
  unfold writeRgn
  dsimp only
  split
  · exact logErr_keeps h
  · refine modDie_keeps h ?_
    exact id

theorem execHbmRgnWrite_runs {agent : Nat} {d : DieId} {i : Nat} {v' : W32} (h : Keeps s u) : Runs s (execHbmRgnWrite agent d i v' u) :=
  answer_runs h (ite_keeps (writeRgn_keeps h) h)

/-! ### Layout -/

theorem zeroSets_keeps {d : DieId} {f : Nat → Bool} (h : Keeps s u) : Keeps s (zeroSets u d f) := modDie_keeps h update_dieKeeps

theorem clearCell_keeps {d : DieId} {n : Nat} (h : Keeps s u) : Keeps s (clearCell u d n) := by
  unfold clearCell
  exact zeroSets_keeps (modM_keeps (initCell_keeps h))

theorem dropTlb_keeps {d : DieId} {g p : Nat} (h : Keeps s u) : Keeps s (dropTlb u d g p) := modGate_keeps h

theorem clearEntry_keeps {d : DieId} {i : Nat} (h : Keeps s u) : Keeps s (clearEntry u d i) := modDie_keeps h update_dieKeeps

theorem clearUnits_keeps {d : DieId} {p : Nat} {gone : Gone} (h : Keeps s u) : Keeps s (clearUnits u d p gone) := by
  unfold clearUnits
  dsimp only
  refine foldl_keeps ?_ (foldl_keeps ?_ (foldl_keeps ?_ (foldl_keeps ?_ (foldl_keeps ?_
    (foldl_keeps ?_ (foldl_keeps ?_ (foldl_keeps ?_ h)))))))
  · intro w x hw
    refine foldl_keeps ?_ hw
    intro w1 y hw1
    exact ite_keeps (zeroSets_keeps hw1) hw1
  · intro w x hw
    exact ite_keeps (modLink_keeps hw) hw
  · intro w x hw
    exact ite_keeps (modEpoch_keeps hw) hw
  · intro w x hw
    exact ite_keeps (clearEntry_keeps hw) hw
  · intro w x hw
    exact ite_keeps (zeroSets_keeps (dropTlb_keeps hw)) hw
  · intro w x hw
    exact ite_keeps (modSlot_keeps hw) hw
  · intro w x hw
    exact ite_keeps (zeroSets_keeps hw) hw
  · intro w x hw
    exact ite_keeps (clearCell_keeps hw) hw

theorem closeLost_keeps {d : DieId} {p : Nat} {gone : Gone} (h : Keeps s u) : Keeps s (closeLost u d p gone) := by
  unfold closeLost
  split
  · exact ite_keeps (closeFloor_keeps h) h
  · exact h

theorem setPeerParts_keeps {b' : List Byte} {d : DieId} (h : Keeps s u) : Keeps s (setPeerParts u b' d) := by
  unfold setPeerParts
  dsimp only
  refine foldl_keeps ?_ h
  intro w x hw
  refine foldl_keeps ?_ hw
  intro w1 y hw1
  exact modPeer_keeps hw1

theorem installLayout_keeps {b' : List Byte} (h : Keeps s u) : Keeps s (installLayout u b') := by
  unfold installLayout
  dsimp only
  refine modFlash_keeps (foldl_keeps ?_ (modHsec_keeps (foldl_keeps ?_ (foldl_keeps ?_ h))))
  · intro w x hw
    exact setPeerParts_keeps (modDie_keeps hw update_dieKeeps)
  · intro w x hw
    exact ite_keeps hw (modSec_keeps hw)
  · intro w x hw
    refine foldl_keeps ?_ hw
    intro w1 y hw1
    exact clearUnits_keeps (closeLost_keeps hw1)

/-! ### Security services -/

theorem modChan_keeps {ch : Nat} {f : SecChan → SecChan} (h : Keeps s u) : Keeps s (modChan u ch f) := modHsec_keeps h

theorem finishSec_keeps {ch status result : Nat} (h : Keeps s u) : Keeps s (finishSec u ch status result) := modChan_keeps h

theorem startService_keeps {ch op : Nat} {block : Option (List Byte)} (h : Keeps s u) : Keeps s (startService u ch op block) :=
  ite_keeps (modChan_keeps h) (ite_keeps (modChan_keeps h) (finishSec_keeps (modChan_keeps h)))

theorem argBlock_keeps {ch : Nat} (h : Keeps s u) : Keeps s (argBlock u ch).2 := by
  unfold argBlock
  split
  · exact h
  · exact hostRead_keeps h

theorem secRun_keeps {ch op : Nat} {f : State → List Byte → State} (h : Keeps s u) (hf : ∀ w, Keeps s w → ∀ x1, Keeps s (f w x1)) : Keeps s
    (secRun u ch op f) := by
  unfold secRun
  split
  · exact h
  · split
    next t he =>
      have ht : Keeps s t := Keeps.snd (argBlock_keeps h) he
      exact hf t ht _
    next t _ he =>
      have ht : Keeps s t := Keeps.snd (argBlock_keeps h) he
      exact finishSec_keeps ht

theorem withHost_keeps {ch pa n : Nat} {f : State → List Byte → State} (h : Keeps s u) (hf : ∀ w, Keeps s w → ∀ x1, Keeps s (f w x1)) :
    Keeps s (withHost u ch pa n f) := by
  unfold withHost
  split
  · exact h
  · split
    next t he =>
      have ht : Keeps s t := Keeps.snd (hostRead_keeps h) he
      exact hf t ht _
    next t _ he =>
      have ht : Keeps s t := Keeps.snd (hostRead_keeps h) he
      exact finishSec_keeps ht

theorem execLayoutSet_runs {ch : Nat} (h : Keeps s u) : Runs s (execLayoutSet ch u) := by
  unfold execLayoutSet
  dsimp only
  refine nx_runs (secRun_keeps h ?_)
  intro w hw x
  refine withHost_keeps hw ?_
  intro w1 hw1 y
  exact finishSec_keeps (ite_keeps (installLayout_keeps hw1) hw1)

theorem trimExtents_keeps {p : Nat} (h : Keeps s u) : Keeps s (trimExtents u p) := by
  unfold trimExtents
  refine foldl_keeps ?_ h
  intro w x hw
  split
  · exact hw
  · refine foldl_keeps ?_ hw
    intro w1 y hw1
    exact changeEntry_keeps hw1

theorem endScrub_keeps (h : Keeps s u) : Keeps s (endScrub u) := by
  unfold endScrub
  split
  · exact h
  · dsimp only
    split
    · exact h
    · refine runHeld_keeps (finishSec_keeps ?_)
      split
      · exact modHsec_keeps h
      · exact modSec_keeps (ite_keeps (trimExtents_keeps (modHsec_keeps h)) (modHsec_keeps h))

theorem resetPeers_keeps {d : DieId} {p : Nat} (h : Keeps s u) : Keeps s (resetPeers u d p) := by
  unfold resetPeers
  refine foldl_keeps ?_ h
  intro w x hw
  exact ite_keeps (modPeer_keeps (discardPeer_keeps hw)) hw

theorem zeroGranule_keeps {d : DieId} {g : Nat} (h : Keeps s u) : Keeps s (zeroGranule u d g) :=
  modDie_keeps (zeroRange_keeps h) update_dieKeeps

theorem beginScrub_keeps {p : Nat} (h : Keeps s u) : Keeps s (beginScrub u p) := by
  unfold beginScrub
  dsimp only
  refine foldl_keeps ?_ (partReset_keeps (modSec_keeps h))
  intro w x hw
  refine foldl_keeps ?_ (clearUnits_keeps (resetPeers_keeps hw))
  intro w1 y hw1
  exact dropTlb_keeps hw1

theorem scrubWith_keeps {ch : Nat} {b' : List Byte} (h : Keeps s u) : Keeps s (scrubWith u ch b') :=
  ite_keeps h (ite_keeps (finishSec_keeps h) (ite_keeps (finishSec_keeps h) (endScrub_keeps
    (modHsec_keeps (ite_keeps (beginScrub_keeps h) h)))))

theorem execScrub_runs {ch : Nat} (h : Keeps s u) : Runs s (execScrub ch u) := by
  unfold execScrub
  refine nx_runs (secRun_keeps h ?_)
  intro w hw x
  exact scrubWith_keeps hw

theorem execSpargeZeroWrite_runs {d : DieId} {granule : Nat} (h : Keeps s u) : Runs s (execSpargeZeroWrite d granule u) := by
  unfold execSpargeZeroWrite
  split
  · exact nx_runs h
  · exact ite_runs (nx_runs h) (nx_runs (endScrub_keeps (modHsec_keeps (zeroGranule_keeps h))))

theorem setPtRoot_keeps {d : DieId} {p v' : Nat} (h : Keeps s u) : Keeps s (setPtRoot u d p v') := modPart_keeps h

theorem confWith_keeps {ch : Nat} {b' : List Byte} (h : Keeps s u) : Keeps s (confWith u ch b') := by
  unfold confWith
  dsimp only
  split
  · exact finishSec_keeps h
  · split
    · exact finishSec_keeps h
    · refine withHost_keeps h ?_
      intro w hw x
      exact finishSec_keeps (modSec_keeps (setPtRoot_keeps (setPtRoot_keeps (storeHbm_keeps hw))))

theorem execConfSet_runs {ch : Nat} (h : Keeps s u) : Runs s (execConfSet ch u) := by
  unfold execConfSet
  refine nx_runs (secRun_keeps h ?_)
  intro w hw x
  exact confWith_keeps hw

theorem writeSelectors_keeps {seq active staged : Nat} (h : Keeps s u) : Keeps s (writeSelectors u seq active staged) := writeBoot_keeps h

theorem stageWith_keeps {ch : Nat} {b' : List Byte} (h : Keeps s u) : Keeps s (stageWith u ch b') := by
  unfold stageWith
  dsimp only
  refine withHost_keeps h ?_
  intro w hw x
  exact ite_keeps (finishSec_keeps hw) (finishSec_keeps (writeSelectors_keeps (writeBoot_keeps hw)))

theorem execFwStage_runs {r : SecReq} (h : Keeps s u) : Runs s (execFwStage r u) := by
  unfold execFwStage
  refine nx_runs (secRun_keeps h ?_)
  intro w hw x
  exact stageWith_keeps (readBoot_keeps hw)

theorem discardWith_keeps {ch : Nat} (h : Keeps s u) : Keeps s (discardWith u ch) := finishSec_keeps (writeSelectors_keeps h)

theorem execFwDiscard_runs {r : SecReq} (h : Keeps s u) : Runs s (execFwDiscard r u) := by
  unfold execFwDiscard
  refine nx_runs (secRun_keeps h ?_)
  intro w hw x
  exact discardWith_keeps (readBoot_keeps hw)

theorem resumeChecks_keeps (h : Keeps s u) : Keeps s (resumeChecks u) :=
  ite_keeps h (modDie_keeps h (sectorsAnswered_dieKeeps update_dieKeeps))

theorem applyWith_keeps {ch : Nat} (h : Keeps s u) : Keeps s (applyWith u ch) :=
  ite_keeps (finishSec_keeps h) (ite_keeps (warmReset_keeps (writeSelectors_keeps h))
    (ite_keeps (modHsec_keeps (resumeChecks_keeps h)) (finishSec_keeps (writeSelectors_keeps (modHsec_keeps (resumeChecks_keeps h))))))

theorem execFwApply_runs {r : SecReq} (h : Keeps s u) : Runs s (execFwApply r u) :=
  nx_runs (secRun_keeps h fun _ hw _ => applyWith_keeps (readBoot_keeps hw))

theorem freshNonce_keeps (h : Keeps s u) : Keeps s (freshNonce u) := by
  unfold freshNonce
  exact modHsec_keeps (drawFree_keeps h)

theorem revokeWith_keeps {ch : Nat} {b' : List Byte} (h : Keeps s u) : Keeps s (revokeWith u ch b') := by
  unfold revokeWith
  dsimp only
  refine withHost_keeps h ?_
  intro w hw x
  split
  · exact finishSec_keeps hw
  · split
    · exact finishSec_keeps hw
    · split
      · exact finishSec_keeps hw
      · split
        · exact finishSec_keeps hw
        · refine finishSec_keeps (freshNonce_keeps ?_)
          exact update_keeps hw

theorem execKeyRevoke_runs {ch : Nat} (h : Keeps s u) : Runs s (execKeyRevoke ch u) := by
  unfold execKeyRevoke
  refine nx_runs (secRun_keeps h ?_)
  intro w hw x
  exact revokeWith_keeps hw

theorem debugWith_keeps {ch : Nat} {b' : List Byte} (h : Keeps s u) : Keeps s (debugWith u ch b') := by
  unfold debugWith
  refine withHost_keeps h ?_
  intro w hw x
  exact ite_keeps (finishSec_keeps hw) (finishSec_keeps (freshNonce_keeps (modHsec_keeps hw)))

theorem execDebugAuth_runs {ch : Nat} (h : Keeps s u) : Runs s (execDebugAuth ch u) := by
  unfold execDebugAuth
  refine nx_runs (secRun_keeps h ?_)
  intro w hw x
  exact debugWith_keeps hw

theorem attestWith_keeps {ch : Nat} {b' : List Byte} (h : Keeps s u) : Keeps s (attestWith u ch b') := by
  unfold attestWith
  dsimp only
  split
  · exact finishSec_keeps h
  · split
    · exact finishSec_keeps (modChan_keeps h)
    · split
      · exact finishSec_keeps h
      · split
        · exact h
        · split
          next t he =>
            have ht : Keeps s t := Keeps.snd (hostWrite_keeps h) he
            exact finishSec_keeps ht
          next t _ he =>
            have ht : Keeps s t := Keeps.snd (hostWrite_keeps h) he
            exact finishSec_keeps ht

theorem execAttest_runs {ch : Nat} (h : Keeps s u) : Runs s (execAttest ch u) := by
  unfold execAttest
  refine nx_runs (secRun_keeps h ?_)
  intro w hw x
  exact attestWith_keeps hw

theorem mgmtService_keeps {ch op : Nat} {b' : List Byte} {off : Nat} (h : Keeps s u) : Keeps s (mgmtService u ch op b' off).2 :=
  ite_snd_keeps (ite_keeps h (startService_keeps h)) (ite_keeps (modChan_keeps h) h)

theorem runCommit_keeps (h : Keeps s u) : Keeps s (runCommit u) := by
  unfold runCommit
  dsimp only
  split
  · exact h
  · split
    next t he =>
      have ht : Keeps s t := Keeps.snd (hostRead_keeps h) he
      split
      · exact h
      · split
        next t1 he1 =>
          have ht1 : Keeps s t1 := Keeps.snd (hostRead_keeps ht) he1
          exact ite_keeps (modBoot_keeps ht1) (modBoot_keeps (writeBoot_keeps ht1))
        next t1 _ he1 =>
          have ht1 : Keeps s t1 := Keeps.snd (hostRead_keeps ht) he1
          exact modBoot_keeps ht1
    next t _ he =>
      have ht : Keeps s t := Keeps.snd (hostRead_keeps h) he
      exact modBoot_keeps ht

theorem calCommit_keeps (h : Keeps s u) : Keeps s (calCommit u) := ite_keeps h (runCommit_keeps (modBoot_keeps h))

theorem resumeCommit_keeps (h : Keeps s u) : Keeps s (resumeCommit u) := ite_keeps (runCommit_keeps h) h

theorem execCalCommit_runs {agent : Nat} (h : Keeps s u) : Runs s (execCalCommit agent u) :=
  hostReg_runs h (ite_keeps (calCommit_keeps h) h)

end Sys2Proof.Machine
end

section
/-! The register accesses, the host links and the passing of time keep the relation. -/

namespace Sys2Proof.Machine

variable {s u v : State}

/-! ### Registers of a die -/

theorem queueRegWrite_keeps {d : DieId} {q i : Nat} {w : RegW} (h : Keeps s u) : Keeps s (queueRegWrite u d q i w) := by
  unfold queueRegWrite
  split
  · exact ite_keeps (writeQueueCtl_keeps h) h
  · exact headerAfter_keeps (modQueue_keeps h)
  · exact modQueue_keeps h
  · exact modQueue_keeps h
  · exact ite_keeps (queueAct_keeps h) h
  · exact ite_keeps (modSet_keeps h) h

theorem stationRegWrite_keeps {d : DieId} {kind place i : Nat} {w : RegW} (h : Keeps s u) : Keeps s (stationRegWrite u d kind place i w) :=
  ite_keeps h (ite_keeps (modSet_keeps h) (ite_keeps (writeRl_keeps h) h))

theorem partRegWrite_keeps {agent : Nat} {d : DieId} {n i : Nat} {w : RegW} (h : Keeps s u) :
    Keeps s (partRegWrite u agent d n i w).1 := by
  unfold partRegWrite
  dsimp only
  split
  · exact fst_keeps (modPart_keeps h)
  · exact fst_keeps (ite_keeps h (setPtRoot_keeps h))
  · exact fst_keeps (modPart_keeps h)
  · exact ite_fst_keeps (fst_keeps (tlbStart_keeps (modPart_keeps h))) (fst_keeps (modPart_keeps h))
  · exact fst_keeps (modPart_keeps h)
  · exact ite_fst_keeps (fst_keeps (modPart_keeps h)) (fst_keeps h)

theorem writeRdSeq_keeps {w : Option DieId} {v' : W32} (h : Keeps s u) : Keeps s (writeRdSeq u w v') := ite_keeps (setLog_keeps h) h

theorem elogWrite_keeps {l : Option DieId} {i : Nat} {w : RegW} (h : Keeps s u) : Keeps s (elogWrite u l i w) := by
  unfold elogWrite
  dsimp only
  split
  · exact ite_keeps (writeRdSeq_keeps h) h
  · exact setLog_keeps h
  · exact h

theorem clkRegWrite_keeps {d : DieId} {i : Nat} {w : RegW} (h : Keeps s u) : Keeps s (clkRegWrite u d i w) := by
  unfold clkRegWrite
  dsimp only
  split
  · exact modDclk_keeps h
  · exact modDclk_keeps h
  · exact modDclk_keeps h
  · exact ite_keeps (startMeas_keeps (modDclk_keeps h)) (modDclk_keeps h)
  · exact modDie_keeps h update_dieKeeps
  · exact ite_keeps (armSnap_keeps (modDie_keeps h update_dieKeeps)) (modDie_keeps h update_dieKeeps)
  · exact h

theorem linksClear_keeps {d : DieId} {i : Nat} {w : RegW} (h : Keeps s u) : Keeps s (linksClear u d i w) :=
  ite_keeps h (ite_keeps (modDie_keeps h (setUcie_dieKeeps update_dieKeeps)) (ite_keeps (modSeg_keeps h) h))

theorem modChain_keeps {d : DieId} {f : ChainRegs → ChainRegs} (h : Keeps s u) : Keeps s (modChain u d f) := modDie_keeps h update_dieKeeps

theorem linksWrite_keeps {d : DieId} {i : Nat} {w : RegW} (h : Keeps s u) : Keeps s (linksWrite u d i w) :=
  ite_keeps (modChain_keeps h) (ite_keeps (modChain_keeps h) (ite_keeps (modChain_keeps h)
    (ite_keeps (modChain_keeps h) (ite_keeps (modChain_keeps h) (ite_keeps (modChain_keeps h) (ite_keeps (writeCpEn_keeps h) h))))))

theorem traceRegWrite_keeps {d : DieId} {i : Nat} {w : RegW} (h : Keeps s u) : Keeps s (traceRegWrite u d i w) := by
  unfold traceRegWrite
  dsimp only
  split
  · exact writeTrcCtl_keeps h
  · exact modTrace_keeps h
  · exact modTrace_keeps h
  · exact modTrace_keeps h
  · exact traceMark_keeps h
  · exact h

theorem blockClear_keeps {d : DieId} {off : Nat} {w : RegW} (h : Keeps s u) : Keeps s (blockClear u d off w) :=
  ite_keeps (linksClear_keeps h) (ite_keeps (modDie_keeps h update_dieKeeps) (ite_keeps (modTrace_keeps h) h))

theorem blockWrite_keeps {agent : Nat} {d : DieId} {off : Nat} {w : RegW} (h : Keeps s u) :
    Keeps s (blockWrite u agent d off w).1 := by
  unfold blockWrite
  dsimp only
  refine ite_fst_keeps (fst_keeps h) (ite_fst_keeps (fst_keeps (clkRegWrite_keeps h)) (ite_fst_keeps
    (fst_keeps (ite_keeps (writeRgn_keeps h) h)) (ite_fst_keeps (fst_keeps h) (ite_fst_keeps (fst_keeps (linksWrite_keeps h)) (ite_fst_keeps
    (fst_keeps (modSet_keeps h)) (ite_fst_keeps (fst_keeps (elogWrite_keeps h)) (ite_fst_keeps (fst_keeps (traceRegWrite_keeps h))
    (ite_fst_keeps (fst_keeps h) (ite_fst_keeps (partRegWrite_keeps h) (ite_fst_keeps (fst_keeps h)
    (ite_fst_keeps ?_ (fst_keeps h))))))))))))
  split
  · exact fst_keeps (writePeerCfg_keeps h)
  · exact fst_keeps (ite_keeps (writePeerId_keeps h) h)
  · exact fst_keeps h

theorem maskWrite_keeps {agent : Nat} {d : DieId} {sector : Bool} {mask off : Nat} {w : RegW} (h : Keeps s u) :
    Keeps s (maskWrite u agent d sector mask off w).1 :=
  update_keeps (foldl_fst_keeps (fun _ _ hq => cellWrite_keeps hq) h)

theorem winClear_keeps {d : DieId} {w : WinAt} {r : RegW} (h : Keeps s u) : Keeps s (winClear u d w r) := by
  unfold winClear
  split
  · exact blockClear_keeps h
  · exact ite_keeps (modQueue_keeps h) h
  · exact ite_keeps (modLink_keeps h) h
  · exact ite_keeps (modMc_keeps h) h
  · exact cellClear_keeps h
  · exact h

theorem winWrite_keeps {agent : Nat} {d : DieId} {w : WinAt} {r : RegW} {data : List Byte} (h : Keeps s u) :
    Keeps s (winWrite u agent d w r data).1 := by
  unfold winWrite
  dsimp only
  split
  · exact blockWrite_keeps h
  · exact fst_keeps (judgeWrite_keeps h)
  · exact fst_keeps (queueRegWrite_keeps h)
  · exact ite_fst_keeps (fst_keeps (modGate_keeps h)) (fst_keeps h)
  · exact fst_keeps (stationRegWrite_keeps h)
  · exact fst_keeps (modMc_keeps h)
  · exact fst_keeps (mcBroadcast_keeps h)
  · exact fst_keeps (mcBroadcast_keeps h)
  · exact cellWrite_keeps h
  · exact maskWrite_keeps h
  · exact fst_keeps h

theorem execBroadcastWrite_runs {agent : Nat} {d : DieId} {sector : Bool} {mask off size : Nat} {v' : W64} (h : Keeps s u) : Runs s
    (execBroadcastWrite agent d sector mask off size v' u) :=
  ite_runs (nx_runs (ite_keeps (emit_keeps (maskWrite_keeps h)) (maskWrite_keeps h))) (nx_runs (emit_keeps h))

theorem execRdSeqWrite_runs {agent : Nat} {log : Option DieId} {v' : W32} (h : Keeps s u) : Runs s (execRdSeqWrite agent log v' u) :=
  answer_runs h (writeRdSeq_keeps h)

/-! ### Registers of the host die -/

theorem modRstWrite_keeps {w : RegW} (h : Keeps s u) : Keeps s (modRstWrite u w) :=
  ite_keeps (modBoot_keeps h) (ite_keeps (warmReset_keeps (modBoot_keeps h)) (ite_keeps
    (requestDieReset_keeps (ite_keeps (requestDieReset_keeps (modBoot_keeps h)) (modBoot_keeps h)))
    (ite_keeps (requestDieReset_keeps (modBoot_keeps h)) (modBoot_keeps h))))

theorem bootRegWrite_keeps {i : Nat} {w : RegW} (h : Keeps s u) : Keeps s (bootRegWrite u i w) := by
  unfold bootRegWrite
  dsimp only
  split
  · exact modRstWrite_keeps h
  · exact ite_keeps (startPartRst_keeps (modBoot_keeps h)) (modBoot_keeps h)
  · exact ite_keeps (calCommit_keeps (modBoot_keeps h)) (modBoot_keeps h)
  · exact h

theorem secRegWrite_keeps {i : Nat} {w : RegW} (h : Keeps s u) : Keeps s (secRegWrite u i w) := by
  unfold secRegWrite
  dsimp only
  split
  · exact h
  · split
    · exact modChan_keeps h
    · exact ite_keeps (startService_keeps h) h
    · exact modChan_keeps h

theorem retryFree_keeps (h : Keeps s u) : Keeps s (retryFree u) := xtalRetry_keeps (drawFree_keeps h)

theorem hostClkWrite_keeps {agent i : Nat} {w : RegW} (h : Keeps s u) : Keeps s (hostClkWrite u agent i w) := by
  unfold hostClkWrite
  dsimp only
  split
  · exact ite_keeps (retryFree_keeps h) h
  · exact modClk_keeps h
  · exact modClk_keeps h
  · exact modClk_keeps h
  · exact modClk_keeps h
  · exact ite_keeps (writePwrCtl_keeps h) h
  · exact modClk_keeps h
  · exact modTime_keeps h
  · exact modTime_keeps h
  · exact modTime_keeps h
  · exact h

theorem flashRegWrite_keeps {agent i : Nat} {w : RegW} (h : Keeps s u) : Keeps s (flashRegWrite u agent i w) := by
  unfold flashRegWrite
  dsimp only
  split
  · exact ite_keeps (writeFlCtl_keeps h) h
  · exact modFlash_keeps h
  · exact modFlash_keeps h
  · exact modFlash_keeps h
  · exact headerAfter_keeps (modFlash_keeps h)
  · exact ite_keeps (queueAct_keeps h) h
  · exact ite_keeps (writeExt_keeps h) h

theorem hostClear_keeps {off : Nat} {w : RegW} (h : Keeps s u) : Keeps s (hostClear u off w) :=
  ite_keeps (modFlash_keeps h) (ite_keeps (setLog_keeps h) h)

theorem hostWriteOn_keeps {agent off : Nat} {w : RegW} {data : List Byte} (h : Keeps s u) : Keeps s (hostWrite_ u agent off w data) := by
  unfold hostWrite_
  dsimp only
  split
  · split
    · exact update_keeps h
    · exact h
  · exact ite_keeps (ite_keeps (bootRegWrite_keeps h) h) (ite_keeps (ite_keeps (secRegWrite_keeps h) h)
      (ite_keeps (hostClkWrite_keeps h) (ite_keeps (flashRegWrite_keeps h) (ite_keeps h
      (ite_keeps (judgeWrite_keeps h) (ite_keeps h (ite_keeps (elogWrite_keeps h)
      (ite_keeps h (ite_keeps (mcBroadcast_keeps (mcBroadcast_keeps h)) h)))))))))

/-! ### Register accesses -/

theorem imsicWrite_keeps {off size v' : Nat} (h : Keeps s u) : Keeps s (imsicWrite u off size v') := by
  unfold imsicWrite
  dsimp only
  split
  · split
    · exact h
    · exact update_keeps h
  · exact h

theorem readAt_keeps {a : Nat} {t : Target} {size : Nat} (h : Keeps s u) : Keeps s (readAt u a t size).2 := by
  unfold readAt
  dsimp only
  split
  · exact ite_snd_keeps (snd_keeps (hostClear_keeps h)) (snd_keeps h)
  · refine ite_snd_keeps (snd_keeps h) (ite_snd_keeps ?_ (snd_keeps h))
    split
    · exact snd_keeps (holdAccess_keeps h)
    · exact snd_keeps (winClear_keeps h)
  · exact ite_snd_keeps (snd_keeps h) (snd_keeps h)
  · exact ite_snd_keeps (snd_keeps h) (snd_keeps h)
  · exact ite_snd_keeps (snd_keeps h) (snd_keeps h)
  · split
    · next he => exact (hostRead_keeps h).snd he
    · next he => exact (hostRead_keeps h).snd he
    · next he => exact (hostRead_keeps h).snd he
  · exact snd_keeps (drawFree_keeps h)
  · exact snd_keeps h

theorem writeAt_keeps {a : Nat} {t : Target} {size v : Nat} (h : Keeps s u) : Keeps s (writeAt u a t size v).2 := by
  unfold writeAt
  dsimp only
  split
  · exact ite_snd_keeps (snd_keeps (hostWriteOn_keeps h)) (snd_keeps h)
  · exact ite_snd_keeps (snd_keeps (winWrite_keeps h)) (snd_keeps h)
  · exact ite_snd_keeps (snd_keeps (maskWrite_keeps h)) (snd_keeps h)
  · exact ite_snd_keeps (snd_keeps (modDie_keeps h update_dieKeeps)) (snd_keeps h)
  · exact ite_snd_keeps (snd_keeps (imsicWrite_keeps h)) (snd_keeps h)
  · split
    · next he => exact (hostWrite_keeps h).snd he
    · next he => exact (hostWrite_keeps h).snd he
    · next he => exact (hostWrite_keeps h).snd he
  · exact snd_keeps h
  · exact snd_keeps h

theorem regRead_keeps {a addr size : Nat} (h : Keeps s u) : Keeps s (regRead u a addr size).2 := ite_snd_keeps (readAt_keeps h) h

theorem regWrite_keeps {a addr size v' : Nat} (h : Keeps s u) : Keeps s (regWrite u a addr size v').2 := ite_snd_keeps (writeAt_keeps h) h

theorem sendGather_keeps {core pa : Nat} {bs : List Byte} (h : Keeps s u) : Keeps s (sendGather u core pa bs) := by
  unfold sendGather
  dsimp only
  split
  · exact h
  · exact ite_keeps (judgeWrite_keeps h) (emit_keeps h)

theorem setGather_keeps {core : Nat} {g : Gather} (h : Keeps s u) : Keeps s (setGather u core g) := update_keeps h

theorem flushGather_keeps {core : Nat} (h : Keeps s u) : Keeps s (flushGather u core) := by
  unfold flushGather
  dsimp only
  split
  · exact h
  · exact sendGather_keeps (setGather_keeps h)

theorem gatherByte_keeps {core pa : Nat} {v' : Byte} (h : Keeps s u) : Keeps s (gatherByte u core pa v') :=
  ite_keeps (sendGather_keeps (setGather_keeps (ite_keeps (flushGather_keeps h) h))) (setGather_keeps (ite_keeps (flushGather_keeps h) h))

theorem gatherStore_keeps {core addr : Nat} {bs : List Byte} (h : Keeps s u) : Keeps s (gatherStore u core addr bs) := by
  unfold gatherStore
  refine foldl_keeps ?_ h
  intro w x hw
  exact gatherByte_keeps hw

theorem execCommandMemoryStore_runs {core : Nat} {st : CoreStore} (h : Keeps s u) : Runs s (execCommandMemoryStore core st u) := by
  unfold execCommandMemoryStore
  split
  · exact nx_runs h
  · split
    · exact nx_runs (flushGather_keeps h)
    · exact ite_runs (nx_runs (emit_keeps h)) (nx_runs (gatherStore_keeps h))

theorem answerRead_keeps {a : Nat} {r : RegR × State} (hr : Keeps s r.2) : Keeps s (answerRead a r) := by
  unfold answerRead
  split
  · exact emit_keeps hr
  · exact hr
  · exact emit_keeps hr
  · exact emit_keeps hr

theorem answerWrite_keeps {a : Nat} {r : RegR × State} (hr : Keeps s r.2) : Keeps s (answerWrite a r) := by
  unfold answerWrite
  split
  · exact emit_keeps hr
  · exact hr
  · exact emit_keeps hr
  · exact emit_keeps hr

theorem execReadClear_runs {agent addr size : Nat} (h : Keeps s u) : Runs s (execReadClear agent addr size u) :=
  ite_runs (nx_runs (emit_keeps h)) (nx_runs (holdAt_keeps h (answerRead_keeps (regRead_keeps h))))

theorem execRegisterWrite_runs {agent addr size : Nat} {v' : W64} (h : Keeps s u) : Runs s (execRegisterWrite agent addr size v' u) :=
  ite_runs (nx_runs (ite_keeps (gatherStore_keeps h) h)) (nx_runs (holdAt_keeps h (answerWrite_keeps (regWrite_keeps h))))

/-! ### Host links -/

theorem complete_keeps {d : DieId} {tag status : Nat} {data : List Byte} (h : Keeps s u) : Keeps s (complete u d tag status data) :=
  emit_keeps h

theorem readMem_keeps {d : DieId} {agent tag addr : Nat} {rd : MemRead} (h : Keeps s u) : Keeps s (readMem u d agent tag addr rd) := by
  unfold readMem
  refine holdAt_keeps h ?_
  split
  next t he =>
    have ht : Keeps s t := Keeps.snd (hostRead_keeps (eccUnits_keeps h)) he
    exact complete_keeps ht
  next t he =>
    have ht : Keeps s t := Keeps.snd (hostRead_keeps (eccUnits_keeps h)) he
    exact complete_keeps ht
  next t he =>
    have ht : Keeps s t := Keeps.snd (hostRead_keeps (eccUnits_keeps h)) he
    exact complete_keeps ht

theorem execMemRd_runs {d : DieId} {agent tag addr : Nat} {rd : MemRead} (h : Keeps s u) : Runs s (execMemRd d agent tag addr rd u) := by
  unfold execMemRd
  split
  · exact nx_runs h
  · split
    · exact ite_runs (nx_runs (complete_keeps h)) (nx_runs (complete_keeps h))
    · exact ite_runs (nx_runs (complete_keeps h)) (nx_runs (readMem_keeps h))

theorem execMemWr_runs {d : DieId} {agent addr : Nat} {data : List Byte} (h : Keeps s u) : Runs s (execMemWr d agent addr data u) := by
  unfold execMemWr
  split
  · exact nx_runs h
  · split
    · exact ite_runs (nx_runs (judgeWrite_keeps h)) (nx_runs h)
    · exact ite_runs (nx_runs h) (nx_runs (holdAt_keeps h (hostWrite_keeps h)))

theorem execCmdWr_runs {d : DieId} {agent addr : Nat} {data : List Byte} (h : Keeps s u) : Runs s (execCmdWr d agent addr data u) := by
  unfold execCmdWr
  split
  · exact ite_runs (nx_runs (judgeWrite_keeps h)) (nx_runs h)
  · exact nx_runs h

theorem tagHeld_keeps {d : DieId} {tag : Nat} (hv : Keeps s v) : Keeps s (tagHeld u v d tag) := by
  unfold tagHeld
  dsimp only
  refine foldl_keeps ?_ hv
  intro w x hw
  exact ite_keeps hw (modM_keeps hw)

theorem execRegRd_runs {d : DieId} {agent tag addr size : Nat} (h : Keeps s u) : Runs s (execRegRd d agent tag addr size u) :=
  nx_runs (ite_keeps (tagHeld_keeps (ite_snd_keeps (readAt_keeps h) h)) (complete_keeps (ite_snd_keeps (readAt_keeps h) h)))

theorem execRegWr_runs {d : DieId} {agent tag addr size : Nat} {v' : W64} (h : Keeps s u) : Runs s (execRegWr d agent tag addr size v' u) :=
  nx_runs (ite_keeps (tagHeld_keeps (ite_snd_keeps (writeAt_keeps h) h)) (complete_keeps (ite_snd_keeps (writeAt_keeps h) h)))

theorem execCpl_runs {d : DieId} {tag status : Nat} {data : List Byte} (h : Keeps s u) : Runs s (execCpl d tag status data u) :=
  nx_runs (complete_keeps h)

theorem execMsgIrq_runs {d : DieId} {addr eiid : Nat} (h : Keeps s u) : Runs s (execMsgIrq d addr eiid u) :=
  ite_runs (nx_runs (sendIrq_keeps h)) (nx_runs h)

theorem vfUncorr_keeps {vf va n k : Nat} {write : Bool} (h : Keeps s u) : Keeps s (vfUncorr u vf va n k write) := by
  unfold vfUncorr
  split
  · exact ite_keeps (recHostUncorr_keeps h) h
  · exact h

theorem execBar2Access_runs {vf va : Nat} {acc : Bar2} (h : Keeps s u) : Runs s (execBar2Access vf va acc u) := by
  unfold execBar2Access
  dsimp only
  split
  · split
    · exact nx_runs (emit_keeps h)
    · refine nx_runs (holdAt_keeps h ?_)
      split
      · exact emit_keeps (dropAnswers_keeps (touchUnits_keeps (eccUnits_keeps h)))
      · exact emit_keeps (dropAnswers_keeps (vfUncorr_keeps (touchUnits_keeps (eccUnits_keeps h))))
      · exact update_keeps (askPeers_keeps h)
  · split
    · exact nx_runs (emit_keeps h)
    · refine nx_runs (holdAt_keeps h ?_)
      split
      next t he =>
        have ht : Keeps s t := MemKeeps.ok (writeVA_keeps h) he
        exact activatePart_keeps (dropAnswers_keeps ht)
      · exact emit_keeps (dropAnswers_keeps (vfUncorr_keeps h))
      · exact update_keeps (askPeers_keeps h)

theorem modHlink_keeps {f : HdLink → HdLink} (h : Keeps s u) : Keeps s (modHlink u f) := update_keeps h

theorem execPerstN_runs {p : PcieReset} (h : Keeps s u) : Runs s (execPerstN p u) :=
  ite_runs (nx_runs (modHlink_keeps (modPower_keeps h))) (ite_runs (nx_runs (emit_keeps (modHlink_keeps (modPower_keeps h)))) (nx_runs h))

theorem respondOn_keeps {m : MgmtMsg} {code status : Nat} {body : List Byte} (h : Keeps s u) : Keeps s (respond_ u m code status body) :=
  emit_keeps h

theorem serve_keeps {m : MgmtMsg} {code : Nat} {body : List Byte} {always : Bool} {act : State → State} (h : Keeps s u)
    (hact : ∀ w, Keeps s w → Keeps s (act w)) : Keeps s (serve u m code body always act) :=
  ite_keeps h (ite_keeps (ite_keeps h (ite_keeps (hact u h) (respondOn_keeps h))) (hact u h))

theorem execGetStatus_runs {m : MgmtMsg} (h : Keeps s u) : Runs s (execGetStatus m u) := ite_runs (nx_runs (respondOn_keeps h)) (nx_runs h)

theorem regAnswer_keeps {m : MgmtMsg} {code : Nat} {body : Nat → List Byte} {r : RegR × State} (hr : Keeps s r.2) : Keeps s
    (regAnswer m code body r) := by
  unfold regAnswer
  split <;> exact respondOn_keeps hr

theorem execRegRead_runs {m : MgmtMsg} {addr : Nat} (h : Keeps s u) : Runs s (execRegRead m addr u) := by
  unfold execRegRead
  refine nx_runs (serve_keeps h ?_)
  intro w hw
  exact holdAt_keeps hw (regAnswer_keeps (regRead_keeps hw))

theorem execRegWrite_runs {m : MgmtMsg} {addr : Nat} {v' : W64} (h : Keeps s u) : Runs s (execRegWrite m addr v' u) := by
  unfold execRegWrite
  refine nx_runs (serve_keeps h ?_)
  intro w hw
  exact holdAt_keeps hw (regAnswer_keeps (regWrite_keeps hw))

theorem execTelemetry_runs {m : MgmtMsg} (h : Keeps s u) : Runs s (execTelemetry m u) := by
  unfold execTelemetry
  refine nx_runs (serve_keeps h ?_)
  intro w hw
  exact respondOn_keeps hw

theorem serveSecure_keeps {m : MgmtMsg} {code ch op : Nat} {b' : List Byte} {off : Nat} (h : Keeps s u) : Keeps s
    (serveSecure u m code ch op b' off) := by
  unfold serveSecure
  split
  next t he =>
    have ht : Keeps s t := Keeps.snd (mgmtService_keeps h) he
    exact respondOn_keeps ht
  next t he =>
    have ht : Keeps s t := Keeps.snd (mgmtService_keeps h) he
    exact respondOn_keeps ht

theorem execFwUpdate_runs {m : MgmtMsg} {arg : Nat} {r : FwReq} (h : Keeps s u) : Runs s (execFwUpdate m arg r u) := by
  unfold execFwUpdate
  refine nx_runs (serve_keeps h ?_)
  intro w hw
  exact serveSecure_keeps hw

theorem execCalExport_runs {m : MgmtMsg} {off : Nat} {r : CalRead} (h : Keeps s u) : Runs s (execCalExport m off r u) :=
  ite_runs (nx_runs (respondOn_keeps (readBoot_keeps h))) (nx_runs h)

theorem execUnsupportedCommand_runs {m : MgmtMsg} {c : UnknownCmd} (h : Keeps s u) : Runs s (execUnsupportedCommand m c u) := by
  unfold execUnsupportedCommand
  split
  · refine nx_runs (ite_keeps (serve_keeps h ?_) h)
    intro w hw
    exact serveSecure_keeps hw
  · split
    · exact nx_runs h
    · refine nx_runs (serve_keeps h ?_)
      intro w hw
      exact respondOn_keeps hw

theorem execSetEndpointId_runs {eid : Nat} (h : Keeps s u) : Runs s (execSetEndpointId eid u) :=
  ite_runs (nx_runs (modHlink_keeps h)) (nx_runs h)

theorem setIr_keeps {tap code : Nat} (h : Keeps s u) : Keeps s (setIr u tap code) := modHlink_keeps h

theorem execIdcode_runs {tap : Nat} (h : Keeps s u) : Runs s (execIdcode tap u) :=
  ite_runs (nx_runs (emit_keeps (setIr_keeps h))) (nx_runs h)

theorem execSamplePreload_runs {tap pins preload : Nat} (h : Keeps s u) : Runs s (execSamplePreload tap pins preload u) :=
  ite_runs (nx_runs h) (ite_runs (nx_runs (emit_keeps (modHlink_keeps (setIr_keeps h)))) (nx_runs (setIr_keeps h)))

theorem driveCells_keeps {tap code : Nat} (h : Keeps s u) : Keeps s (driveCells u tap code) :=
  ite_keeps (emit_keeps (setIr_keeps h)) (setIr_keeps h)

theorem execExtest_runs {tap : Nat} (h : Keeps s u) : Runs s (execExtest tap u) := ite_runs (nx_runs (driveCells_keeps h)) (nx_runs h)

theorem execClamp_runs {tap : Nat} (h : Keeps s u) : Runs s (execClamp tap u) := ite_runs (nx_runs (driveCells_keeps h)) (nx_runs h)

theorem execHighz_runs {tap : Nat} (h : Keeps s u) : Runs s (execHighz tap u) := ite_runs (nx_runs (setIr_keeps h)) (nx_runs h)

theorem execBypass_runs {tap code : Nat} (h : Keeps s u) : Runs s (execBypass tap code u) := ite_runs (nx_runs (setIr_keeps h)) (nx_runs h)

/-- Debug of a powered TAP that a token authorises, on a die that holds no unit of a confidential partition. -/
def debugOpen (s : State) (tap code : Nat) : Prop :=
  tapUp s tap = true ∧ 0x10 ≤ code ∧ code ≤ 0x1F ∧ s.hd.sec.debugScope.toNat.testBit tap = true ∧ tapConfidential s tap = false

theorem execHoltuthDebug_open {tap code : Nat} (h : debugOpen s tap code) :
    execHoltuthDebug tap code s = .refused .debugUnspecified := by
  obtain ⟨hup, hlo, hhi, hscope, hconf⟩ := h
  have hlo' : ¬ code < 0x10 := by omega
  have hhi' : ¬ 0x1F < code := by omega
  simp [execHoltuthDebug, hup, hlo', hhi', hscope, hconf]

theorem execHoltuthDebug_runs {tap code : Nat} (h : ¬ debugOpen s tap code) : Runs s (execHoltuthDebug tap code s) := by
  unfold execHoltuthDebug
  split
  · exact nx_runs .rfl
  next hbound =>
    split
    next hscope =>
      simp only [Bool.not_eq_true', Bool.or_eq_true, Bool.and_eq_true, decide_eq_true_eq, not_or, Bool.not_eq_false] at hbound hscope
      obtain ⟨⟨hup, hlo⟩, hhi⟩ := hbound
      exact absurd ⟨hup, by omega, by omega, hscope.1, hscope.2⟩ h
    · exact nx_runs (setIr_keeps .rfl)

theorem execTapReset_runs {trst : Bool} (h : Keeps s u) : Runs s (execTapReset trst u) := nx_runs (modHlink_keeps (modPower_keeps h))

/-! ### Test access ports -/

theorem execTapRecord_runs {d : DieId} {r : TapRec} (h : Keeps s u) : Runs s (execTapRecord d r u) := by
  unfold execTapRecord
  split
  · exact nx_runs h
  · exact ite_runs (nx_runs h) (ite_runs (nx_runs (loseRec_keeps (ite_keeps (addCause_keeps h) h)))
      (nx_runs (traceRec_keeps (ite_keeps (addCause_keeps h) h))))

/-! ### The idle step -/

/-- The end of an INIT changes entries only, and lists none that was not. -/
theorem tickDie_dieKeeps {n : Nat} {x : Die} : DieKeeps x (tickDie n x) := by
  unfold tickDie
  split
  · exact fun hx => tabWf_tabMap ({} : CellAll) _ x.cells hx
  · exact .rfl

theorem idleTick_keeps (h : Keeps s u) : Keeps s (idleTick u) :=
  tickRing_keeps (tickRing_keeps (update_keeps ((settleBoot_keeps h).of_dies tickDie_dieKeeps tickDie_dieKeeps)))

/-! ### Accesses that wait -/

theorem runAsk_runs {x : HostAsk} (h : Keeps s u) : Runs s (runAsk u x) := by
  unfold runAsk
  split
  · exact execMemRd_runs h
  · exact execMemWr_runs h
  · exact execBar2Access_runs h
  · exact execRegRead_runs h
  · exact execRegWrite_runs h
  · exact execReadClear_runs h
  · exact execRegisterWrite_runs h

theorem Runs.next {s t : State} {r : Res} (h : Runs s r) (ht : r = .next t) : Keeps s t := by
  obtain ⟨t', ht', hk⟩ := h
  cases ht'.symm.trans ht
  exact hk

theorem tryWaiting_keeps : ∀ {hs : List (Option DieId × HostAsk)} {u : State}, Keeps s u → Keeps s (tryWaiting hs u)
  | [], _, h => h
  | x :: hs, u, h => by
    unfold tryWaiting
    refine ite_keeps (tryWaiting_keeps (update_keeps h)) ?_
    split
    next t ht => exact tryWaiting_keeps ((runAsk_runs h).next ht)
    · exact tryWaiting_keeps h

theorem serveWaiting_keeps (h : Keeps s u) : Keeps s (serveWaiting u) := by
  unfold serveWaiting
  refine resumeCommit_keeps (tryWaiting_keeps ?_)
  exact update_keeps h

end Sys2Proof.Machine
end

section
/-! What every step keeps: the queue of waiting commands and the canonical form. -/

namespace Sys2Proof.Machine

/-- Every command answers a next state that keeps the relation, but debug that a token opens. -/
theorem exec_runs {s : State} {c : Instr} (hc : ∀ tap code, c = .holtuthDebug tap code → ¬ debugOpen s tap code) : Runs s (exec c s) := by
  cases c with
  | nop => exact execNop_runs .rfl
  | halt => exact execHalt_runs .rfl
  | haltComplete => exact execHaltComplete_runs .rfl
  | fence => exact execFence_runs .rfl
  | semacq => exact execSemacq_runs .rfl
  | semrel => exact execSemrel_runs .rfl
  | semrelApply => exact execSemrelApply_runs .rfl
  | loop => exact execLoop_runs .rfl
  | loopi => exact execLoopi_runs .rfl
  | tcfg => exact execTcfg_runs .rfl
  | tcfgApply => exact execTcfgApply_runs .rfl
  | scrr => exact execScrr_runs .rfl
  | scrw => exact execScrw_runs .rfl
  | add => exact execAdd_runs .rfl
  | sub => exact execSub_runs .rfl
  | and => exact execAnd_runs .rfl
  | or => exact execOr_runs .rfl
  | xor => exact execXor_runs .rfl
  | sll => exact execSll_runs .rfl
  | srl => exact execSrl_runs .rfl
  | sra => exact execSra_runs .rfl
  | mul => exact execMul_runs .rfl
  | slt => exact execSlt_runs .rfl
  | sltu => exact execSltu_runs .rfl
  | li => exact execLi_runs .rfl
  | lih => exact execLih_runs .rfl
  | beq => exact execBeq_runs .rfl
  | bne => exact execBne_runs .rfl
  | blt => exact execBlt_runs .rfl
  | bge => exact execBge_runs .rfl
  | bltu => exact execBltu_runs .rfl
  | bgeu => exact execBgeu_runs .rfl
  | jal => exact execJal_runs .rfl
  | jr => exact execJr_runs .rfl
  | tfetch => exact execTfetch_runs .rfl
  | tfetchRowCommit => exact execTfetchRowCommit_runs .rfl
  | tstore => exact execTstore_runs .rfl
  | tstoreRowAccept => exact execTstoreRowAccept_runs .rfl
  | transferFault => exact execTransferFault_runs .rfl
  | tld => exact execTld_runs .rfl
  | tst => exact execTst_runs .rfl
  | xfetch => exact execXfetch_runs .rfl
  | xfetchFault => exact execXfetchFault_runs .rfl
  | caskld => exact execCaskld_runs .rfl
  | caskst => exact execCaskst_runs .rfl
  | dqpush => exact execDqpush_runs .rfl
  | dqpop => exact execDqpop_runs .rfl
  | waitv => exact execWaitv_runs .rfl
  | opa => exact execOpa_runs .rfl
  | accOpen => exact execAccOpen_runs .rfl
  | accClose => exact execAccClose_runs .rfl
  | drain => exact execDrain_runs .rfl
  | ewCvt => exact execEwCvt_runs .rfl
  | ewAdd => exact execEwAdd_runs .rfl
  | ewSub => exact execEwSub_runs .rfl
  | ewMul => exact execEwMul_runs .rfl
  | ewFma => exact execEwFma_runs .rfl
  | ewMax => exact execEwMax_runs .rfl
  | ewMin => exact execEwMin_runs .rfl
  | ewAbs => exact execEwAbs_runs .rfl
  | ewNeg => exact execEwNeg_runs .rfl
  | ewClamp => exact execEwClamp_runs .rfl
  | ewSel => exact execEwSel_runs .rfl
  | ewAxpby => exact execEwAxpby_runs .rfl
  | ewDiv => exact execEwDiv_runs .rfl
  | ewSqrt => exact execEwSqrt_runs .rfl
  | ewRsqrt => exact execEwRsqrt_runs .rfl
  | ewRecip => exact execEwRecip_runs .rfl
  | ewExp => exact execEwExp_runs .rfl
  | ewLog => exact execEwLog_runs .rfl
  | ewFn => exact execEwFn_runs .rfl
  | ewDfn => exact execEwDfn_runs .rfl
  | ewRsum => exact execEwRsum_runs .rfl
  | ewRsumsq => exact execEwRsumsq_runs .rfl
  | ewRmax => exact execEwRmax_runs .rfl
  | ewCsum => exact execEwCsum_runs .rfl
  | red => exact execRed_runs .rfl
  | spill => exact execSpill_runs .rfl
  | resume => exact execResume_runs .rfl
  | taskPlacement => exact execTaskPlacement_runs .rfl
  | taskReady => exact execTaskReady_runs .rfl
  | taskChoice => exact execTaskChoice_runs .rfl
  | slotEntry => exact execSlotEntry_runs .rfl
  | rankOneStep => exact execRankOneStep_runs .rfl
  | spillPoint => exact execSpillPoint_runs .rfl
  | lastSlice => exact execLastSlice_runs .rfl
  | drainRead => exact execDrainRead_runs .rfl
  | drainResultWrite => exact execDrainResultWrite_runs .rfl
  | groupFetch => exact execGroupFetch_runs .rfl
  | parityRetryWrite => exact execParityRetryWrite_runs .rfl
  | streamStart => exact execStreamStart_runs .rfl
  | streamRetry => exact execStreamRetry_runs .rfl
  | streamSkip => exact execStreamSkip_runs .rfl
  | streamStop => exact execStreamStop_runs .rfl
  | streamResume => exact execStreamResume_runs .rfl
  | sfltResume => exact execSfltResume_runs .rfl
  | sfltCancel => exact execSfltCancel_runs .rfl
  | streamPcWrite => exact execStreamPcWrite_runs .rfl
  | srStateWrite => exact execSrStateWrite_runs .rfl
  | schedCtlWrite => exact execSchedCtlWrite_runs .rfl
  | engCtlWrite => exact execEngCtlWrite_runs .rfl
  | dtabWrite => exact execDtabWrite_runs .rfl
  | grantStart => exact execGrantStart_runs .rfl
  | grantEnd => exact execGrantEnd_runs .rfl
  | minGapExpiry => exact execMinGapExpiry_runs .rfl
  | maskLineFill => exact execMaskLineFill_runs .rfl
  | sectorCheck => exact execSectorCheck_runs .rfl
  | sectorFailed => exact execSectorFailed_runs .rfl
  | broadcastWrite => exact execBroadcastWrite_runs .rfl
  | lineSend => exact execLineSend_runs .rfl
  | itemPresent => exact execItemPresent_runs .rfl
  | creditReturn => exact execCreditReturn_runs .rfl
  | microBatchBegin => exact execMicroBatchBegin_runs .rfl
  | microBatchEnd => exact execMicroBatchEnd_runs .rfl
  | routeRelease => exact execRouteRelease_runs .rfl
  | drainStageItem => exact execDrainStageItem_runs .rfl
  | billLoadBegin => exact execBillLoadBegin_runs .rfl
  | billLoadComplete => exact execBillLoadComplete_runs .rfl
  | switchQuiescence => exact execSwitchQuiescence_runs .rfl
  | switchClose => exact execSwitchClose_runs .rfl
  | switchReset => exact execSwitchReset_runs .rfl
  | switchConfigure => exact execSwitchConfigure_runs .rfl
  | switchTables => exact execSwitchTables_runs .rfl
  | switchOpen => exact execSwitchOpen_runs .rfl
  | heldSelectStart => exact execHeldSelectStart_runs .rfl
  | commandWrite => exact execCommandWrite_runs .rfl
  | commandStart => exact execCommandStart_runs .rfl
  | commandComplete => exact execCommandComplete_runs .rfl
  | run => exact execRun_runs .rfl
  | billLoad => exact execBillLoad_runs .rfl
  | billUnload => exact execBillUnload_runs .rfl
  | billSelect => exact execBillSelect_runs .rfl
  | descCreate => exact execDescCreate_runs .rfl
  | descUpdate => exact execDescUpdate_runs .rfl
  | descFree => exact execDescFree_runs .rfl
  | copy => exact execCopy_runs .rfl
  | stepCommit => exact execStepCommit_runs .rfl
  | stepAbandon => exact execStepAbandon_runs .rfl
  | stepSettleEnd => exact execStepSettleEnd_runs .rfl
  | barrierVerdict => exact execBarrierVerdict_runs .rfl
  | barrierTimeout => exact execBarrierTimeout_runs .rfl
  | versionWait => exact execVersionWait_runs .rfl
  | streamCtl => exact execStreamCtl_runs .rfl
  | queueResume => exact execQueueResume_runs .rfl
  | queueFlush => exact execQueueFlush_runs .rfl
  | queueEnable => exact execQueueEnable_runs .rfl
  | cellEnable => exact execCellEnable_runs .rfl
  | cellInit => exact execCellInit_runs .rfl
  | cpFnEnable => exact execCpFnEnable_runs .rfl
  | flEnable => exact execFlEnable_runs .rfl
  | functionStartEnd => exact execFunctionStartEnd_runs .rfl
  | functionDrainEnd => exact execFunctionDrainEnd_runs .rfl
  | redItemJudge => exact execRedItemJudge_runs .rfl
  | redFold => exact execRedFold_runs .rfl
  | redEmit => exact execRedEmit_runs .rfl
  | bucketTimeout => exact execBucketTimeout_runs .rfl
  | rlCtlWrite => exact execRlCtlWrite_runs .rfl
  | relayItem => exact execRelayItem_runs .rfl
  | gateTransfer => exact execGateTransfer_runs .rfl
  | gateTransferComplete => exact execGateTransferComplete_runs .rfl
  | pageWalk => exact execPageWalk_runs .rfl
  | tlbInvalidate => exact execTlbInvalidate_runs .rfl
  | tlbInvalidateDone => exact execTlbInvalidateDone_runs .rfl
  | scheduleDelivery => exact execScheduleDelivery_runs .rfl
  | cacheEvict => exact execCacheEvict_runs .rfl
  | patrolRead => exact execPatrolRead_runs .rfl
  | odeccPoll => exact execOdeccPoll_runs .rfl
  | hbmRateChange => exact execHbmRateChange_runs .rfl
  | hbmRateChangeEnd => exact execHbmRateChangeEnd_runs .rfl
  | mcBroadcastWrite => exact execMcBroadcastWrite_runs .rfl
  | hbmRgnWrite => exact execHbmRgnWrite_runs .rfl
  | moverBlock => exact execMoverBlock_runs .rfl
  | flashUnitRead => exact execFlashUnitRead_runs .rfl
  | readRetry => exact execReadRetry_runs .rfl
  | flashProgram => exact execFlashProgram_runs .rfl
  | flashMove => exact execFlashMove_runs .rfl
  | flashScan => exact execFlashScan_runs .rfl
  | mapReady => exact execMapReady_runs .rfl
  | flashHealthChange => exact execFlashHealthChange_runs .rfl
  | flCommandWrite => exact execFlCommandWrite_runs .rfl
  | flRead => exact execFlRead_runs .rfl
  | flWrite => exact execFlWrite_runs .rfl
  | flTrim => exact execFlTrim_runs .rfl
  | flFlush => exact execFlFlush_runs .rfl
  | flQueueResume => exact execFlQueueResume_runs .rfl
  | flQueueFlush => exact execFlQueueFlush_runs .rfl
  | flExtWrite => exact execFlExtWrite_runs .rfl
  | programSuspend => exact execProgramSuspend_runs .rfl
  | commandMemoryStore => exact execCommandMemoryStore_runs .rfl
  | memRd => exact execMemRd_runs .rfl
  | memWr => exact execMemWr_runs .rfl
  | cmdWr => exact execCmdWr_runs .rfl
  | regRd => exact execRegRd_runs .rfl
  | regWr => exact execRegWr_runs .rfl
  | cpl => exact execCpl_runs .rfl
  | msgIrq => exact execMsgIrq_runs .rfl
  | flashReq => exact execFlashReq_runs .rfl
  | flashDlv => exact execFlashDlv_runs .rfl
  | ucieReservedType => exact execUcieReservedType_runs .rfl
  | ucieTraining => exact execUcieTraining_runs .rfl
  | bridgeLine => exact execBridgeLine_runs .rfl
  | ackOk => exact execAckOk_runs .rfl
  | ackRetry => exact execAckRetry_runs .rfl
  | bridgeAckTimeout => exact execBridgeAckTimeout_runs .rfl
  | bridgeRetrain => exact execBridgeRetrain_runs .rfl
  | item => exact execItem_runs .rfl
  | token => exact execToken_runs .rfl
  | credit => exact execCredit_runs .rfl
  | ack => exact execAck_runs .rfl
  | nack => exact execNack_runs .rfl
  | mark => exact execMark_runs .rfl
  | memReq => exact execMemReq_runs .rfl
  | memRsp => exact execMemRsp_runs .rfl
  | rtoTimeout => exact execRtoTimeout_runs .rfl
  | standaloneAck => exact execStandaloneAck_runs .rfl
  | creditPeriodic => exact execCreditPeriodic_runs .rfl
  | markSend => exact execMarkSend_runs .rfl
  | peerCfgWrite => exact execPeerCfgWrite_runs .rfl
  | bar2Access => exact execBar2Access_runs .rfl
  | perstN => exact execPerstN_runs .rfl
  | getStatus => exact execGetStatus_runs .rfl
  | regRead => exact execRegRead_runs .rfl
  | regWrite => exact execRegWrite_runs .rfl
  | telemetry => exact execTelemetry_runs .rfl
  | fwUpdate => exact execFwUpdate_runs .rfl
  | calExport => exact execCalExport_runs .rfl
  | idcode => exact execIdcode_runs .rfl
  | samplePreload => exact execSamplePreload_runs .rfl
  | extest => exact execExtest_runs .rfl
  | clamp => exact execClamp_runs .rfl
  | highz => exact execHighz_runs .rfl
  | holtuthDebug tap code => exact execHoltuthDebug_runs (hc tap code (Eq.refl _))
  | bypass => exact execBypass_runs .rfl
  | layoutSet => exact execLayoutSet_runs .rfl
  | scrub => exact execScrub_runs .rfl
  | spargeZeroWrite => exact execSpargeZeroWrite_runs .rfl
  | confSet => exact execConfSet_runs .rfl
  | attest => exact execAttest_runs .rfl
  | fwStage => exact execFwStage_runs .rfl
  | fwApply => exact execFwApply_runs .rfl
  | fwDiscard => exact execFwDiscard_runs .rfl
  | keyRevoke => exact execKeyRevoke_runs .rfl
  | debugAuth => exact execDebugAuth_runs .rfl
  | calCommit => exact execCalCommit_runs .rfl
  | xtalGood => exact execXtalGood_runs .rfl
  | noXtal => exact execNoXtal_runs .rfl
  | xtalLost => exact execXtalLost_runs .rfl
  | xtalRetry => exact execXtalRetry_runs .rfl
  | clockRampStep => exact execClockRampStep_runs .rfl
  | trimWindow => exact execTrimWindow_runs .rfl
  | governorTick => exact execGovernorTick_runs .rfl
  | dutyTick => exact execDutyTick_runs .rfl
  | pwrCtlWrite => exact execPwrCtlWrite_runs .rfl
  | powerModeChangeEnd => exact execPowerModeChangeEnd_runs .rfl
  | thermalSample => exact execThermalSample_runs .rfl
  | thermalTrip => exact execThermalTrip_runs .rfl
  | telemetryRefresh => exact execTelemetryRefresh_runs .rfl
  | timebaseFollow => exact execTimebaseFollow_runs .rfl
  | ppsEdge => exact execPpsEdge_runs .rfl
  | tbHoldover => exact execTbHoldover_runs .rfl
  | tbMeasStart => exact execTbMeasStart_runs .rfl
  | modEnRise => exact execModEnRise_runs .rfl
  | pwr48Threshold => exact execPwr48Threshold_runs .rfl
  | firmwareVerify => exact execFirmwareVerify_runs .rfl
  | secFwStart => exact execSecFwStart_runs .rfl
  | linkTraining => exact execLinkTraining_runs .rfl
  | serviceFloorTest => exact execServiceFloorTest_runs .rfl
  | hostStart => exact execHostStart_runs .rfl
  | modEnFall => exact execModEnFall_runs .rfl
  | undervoltage => exact execUndervoltage_runs .rfl
  | overvoltage => exact execOvervoltage_runs .rfl
  | regulatorFault => exact execRegulatorFault_runs .rfl
  | partRst => exact execPartRst_runs .rfl
  | dieReset => exact execDieReset_runs .rfl
  | warmReset => exact execWarmReset_runs .rfl
  | counterWrap => exact execCounterWrap_runs .rfl
  | cntClear => exact execCntClear_runs .rfl
  | cntHold => exact execCntHold_runs .rfl
  | cntSnapArm => exact execCntSnapArm_runs .rfl
  | cntSnapTrigger => exact execCntSnapTrigger_runs .rfl
  | tapRecord => exact execTapRecord_runs .rfl
  | traceEnable => exact execTraceEnable_runs .rfl
  | traceTrigger => exact execTraceTrigger_runs .rfl
  | trcMarkWrite => exact execTrcMarkWrite_runs .rfl
  | rdSeqWrite => exact execRdSeqWrite_runs .rfl
  | readClear => exact execReadClear_runs .rfl
  | registerWrite => exact execRegisterWrite_runs .rfl
  | reservedOpcodeIssue => exact execReservedOpcodeIssue_runs .rfl
  | internalAccess => exact execInternalAccess_runs .rfl
  | reservedFrameType _ _ f => exact execReservedFrameType_runs (_f := f) .rfl
  | chainLinkStateChange => exact execChainLinkStateChange_runs .rfl
  | refreshManagementRequest => exact execRefreshManagementRequest_runs .rfl
  | setEndpointId => exact execSetEndpointId_runs .rfl
  | unsupportedCommand => exact execUnsupportedCommand_runs .rfl
  | tapReset => exact execTapReset_runs .rfl
  | turnOffRestart => exact execTurnOffRestart_runs .rfl

/-- Debug that a token opens answers no next state. -/
theorem exec_next_keeps {s t : State} {c : Instr} (h : exec c s = .next t) : Keeps s t := by
  refine (exec_runs fun tap code hc hopen => ?_).next h
  subst hc
  have hrefused : exec (.holtuthDebug tap code) s = .refused .debugUnspecified := execHoltuthDebug_open hopen
  exact nomatch hrefused.symm.trans h

/-- With no command waiting a step is the idle step and what it serves. -/
theorem step_idle {s : State} (h : s.pending = []) : step s = .next (serveWaiting (serveAccesses (idleTick s))) := by
  simp only [step, h]

theorem step_front {s : State} {c : Instr} {r : List Instr} (h : s.pending = c :: r) : step s = exec c { s with pending := r } := by
  simp only [step, h]

/-- Settles O55: by the case of debug that a token opens, which is refused, every other command keeping the relation. -/
theorem everyCommandRuns : Obligations.EveryCommandRuns := by
  intro c s
  by_cases hc : ∀ tap code, c = .holtuthDebug tap code → ¬ debugOpen s tap code
  · obtain ⟨t, ht, _⟩ := exec_runs hc
    exact .inl ⟨t, ht⟩
  · push Not at hc
    obtain ⟨tap, code, rfl, hopen⟩ := hc
    obtain ⟨hup, hlo, hhi, hscope, hconf⟩ := id hopen
    exact .inr ⟨tap, code, rfl, hup, hlo, hhi, hscope, hconf, execHoltuthDebug_open hopen⟩

/-- Settles O56: the queue is half of what every command keeps. -/
theorem queueUntouched : Obligations.QueueUntouched := fun _ _ _ h => (exec_next_keeps h).pending

/-- Settles O53: the canonical form is the other half, and the idle step keeps it too. -/
theorem statesStayCanonical : Obligations.StatesStayCanonical := by
  intro s t hs ht
  match hp : s.pending with
  | [] =>
    have hidle : Keeps s (serveWaiting (serveAccesses (idleTick s))) := serveWaiting_keeps (serveAccesses_keeps (idleTick_keeps .rfl))
    exact ((next_runs hidle).next ((step_idle hp).symm.trans ht)).canonical hs
  | c :: r => exact (exec_next_keeps ((step_front hp).symm.trans ht)).canonical hs

end Sys2Proof.Machine
end
